-- ==== Sys2Proof/Word.lean ====
section
/-! DEFINITION. The word types of the Skelum KY8 and the sparse table that holds registers, memories and units. -/
namespace Sys2Proof

/-- One byte. -/
abbrev Byte := BitVec 8

/-- A 16-bit half of a packed register. -/
abbrev Half := BitVec 16

/-- A 32-bit register value or memory word. -/
abbrev Word := BitVec 32

/-- A 64-bit value: a register pair, a device register, a tick. -/
abbrev DWord := BitVec 64

/-- A sparse table from numbers to values: entries in ascending key order, no key twice, and no entry equal to the
value that an unlisted key reads as. -/
abbrev Tbl (α : Type) := List (Nat × α)

end Sys2Proof
end

