-- ==== Sys2Proof/Config.lean ====
section
/-! DEFINITION. What the spec leaves to the part or leaves open, as constants without a body: no proof can see their values. -/
namespace Sys2Proof.Config

/-- A free 32-bit value, by its number: elements that R103, R278 and R324 leave undefined. -/
opaque freeWord : Nat → Word

/-- The choice among several possible next events, by the number of the choice: the spec orders no two of them. -/
opaque choose : Nat → Nat

/-- The stack, of 16, that is to hold an HBM frame if it is not full (R13, R237) (log entry 22). -/
opaque stackFor : Nat → Nat

/-- The keys of slot 0, which are the firmware's (R418) (log entry 40). -/
opaque firmwareKeys : List Byte

/-- The secret from which the identity key is derived (R420) (log entry 93). -/
opaque idSecret : Nat

/-- Whether the groups of the consumer role come first in a kernel that has both roles, by its hash: the image keeps no order of the `.role` lines (R38,
R337) (log entry 113). -/
opaque consumersFirst : Nat → Bool

/-- The serial of the identity fuses (R345, R421). -/
opaque serial : DWord

/-- The version of the boot ROM (R421). -/
opaque romVersion : BitVec 16

/-- The random values that ECDSA draws, by their number (R345, R421). -/
opaque signRandom : Nat → Nat

/-- The vendor's image key, as the point that it is (R445) (log entry 93). -/
opaque vendorKey : Nat × Nat

/-- The vendor's debug key, as the point that it is (R449) (log entry 93). -/
opaque debugKey : Nat × Nat

/-- The challenge of a read of SEC_DBGCHAL, by its number (R449). -/
opaque challenge : Nat → BitVec 384

/-- The flash content that the part is delivered with (R444). -/
opaque flashImage : List Byte

/-- The vendor's certificate chain in flash (R420). -/
opaque certificates : List Byte

/-- A frame of HBM that the firmware may give to the Fly or to a page that comes back from the tier, by its number; the model uses it only where it is
free (R257, R366) (log entry 127). -/
opaque freeFrame : Nat → Nat

/-- The lines of a peer device: what a transaction sent to it returns, by its number (R267, R405). -/
opaque peerByte : Nat → Byte

/-- The write units that a payload from a peer device carries, each as its address, the logarithm of its bytes and its value: the spec gives no layout of
a transaction (R267, R408) (log entry 82). -/
opaque peerUnits : BitVec 1984 → List (Nat × Nat × Nat)

/-- How much the energy counter of a cluster grows in a time unit, in nJ (R352): a measured value, by the number of the unit and the cluster (log entry 62). -/
opaque energyStep : Nat → Nat

/-- The ticks between a grid's start and the tick at which its teams are eligible, by the grid's number: they lie inside its launch term (R342) (log entry 61). -/
opaque launchTicks : Nat → Nat

/-- A soft error (R258, R381): the core on which it falls, its stage, whether it can be corrected, and, where it cannot, which engine command of the core
meets it, or else which place and group. -/
structure Flaw where
  core : Nat
  stage : Nat
  correctable : Bool
  cmd : Nat
  place : Nat
  group : Nat
  deriving DecidableEq, Repr

/-- The soft errors that fall in a tick, by the number of the free value and the tick (R258) (log entry 129). -/
opaque flaws : Nat → Nat → List Flaw

/-- The readings of a die's 16 sensors, in 1/16 °C, by the tick and the die (R429) (log entry 133). -/
opaque sensorTemps : Nat → Nat → List (BitVec 16)

/-- The amperes that the dies draw, by the tick of the measurement (R428) (log entry 133). -/
opaque dieAmps : Nat → List Nat

/-- The mean package power of the last 10,000 ticks in W, by the tick (R433) (log entry 133). -/
opaque packageWatts : Nat → BitVec 16

/-- The temperature of an HBM stack in °C, by the tick, the die and the stack (R432) (log entry 133). -/
opaque stackTemp : Nat → Nat → Nat → Byte

/-- What an HBM stack has counted since the last gather: the corrected errors of each bank, and the uncorrectable errors, by the tick, the die and the stack
(R451) (log entry 133). -/
opaque stackCounts : Nat → Nat → Nat → List Nat × Nat

/-- The droops of a tick, by its number: the unit of the tick at which one comes, its cluster, and how far below the setpoint the voltage falls in mV
(R426) (log entry 133). -/
opaque dips : Nat → List (Nat × Nat × Nat)

/-- What host memory holds at a byte that the model has not written, by the number of the read (log entry 23). -/
opaque hostByte : Nat → Byte

end Sys2Proof.Config
end

