-- ==== Sys2Proof/Machine/Sha.lean ====
section
/-! DEFINITION. SHA-384, by which kernels are named and blocks are signed (R337, R345, R421, R445). The algorithm is the public standard that the spec
names. -/
namespace Sys2Proof.Sha

/-- The primes below `n`; every composite below 529 has a divisor below 23. -/
def primesBelow (n : Nat) : List Nat :=
  (List.range n).filter fun q => decide (2 ≤ q) && (List.range 23).all fun d => decide (d < 2) || decide (q ≤ d) || decide (q % d ≠ 0)

/-- The greatest number below `r + 2 ^ n` whose power does not pass `x`, bit by bit from `r`. -/
def rootFrom (power : Nat → Nat) (x : Nat) : Nat → Nat → Nat
  | 0, r => r
  | n + 1, r => rootFrom power x n (if power (r + 2 ^ n) ≤ x then r + 2 ^ n else r)

/-- The first 64 bits of the fraction of a prime's cube root. -/
def cubeFraction (q : Nat) : DWord := BitVec.ofNat 64 (rootFrom (fun r => r * r * r) (q * 2 ^ 192) 67 0)

/-- The first 64 bits of the fraction of a prime's square root. -/
def squareFraction (q : Nat) : DWord := BitVec.ofNat 64 (rootFrom (fun r => r * r) (q * 2 ^ 128) 67 0)

/-- The constants of the rounds: the cube roots of the first eighty primes. -/
def rounds : List DWord := (primesBelow 410).map cubeFraction

/-- The eight working words. -/
structure St where
  a : DWord
  b : DWord
  c : DWord
  d : DWord
  e : DWord
  f : DWord
  g : DWord
  h : DWord
  deriving DecidableEq, Repr

/-- The start value: the square roots of the ninth to the sixteenth prime. -/
def start : St :=
  let x := fun i => squareFraction ((primesBelow 54).getD (8 + i) 0)
  ⟨x 0, x 1, x 2, x 3, x 4, x 5, x 6, x 7⟩

def sum0 (x : DWord) : DWord := x.rotateRight 28 ^^^ x.rotateRight 34 ^^^ x.rotateRight 39
def sum1 (x : DWord) : DWord := x.rotateRight 14 ^^^ x.rotateRight 18 ^^^ x.rotateRight 41
def sig0 (x : DWord) : DWord := x.rotateRight 1 ^^^ x.rotateRight 8 ^^^ (x >>> 7)
def sig1 (x : DWord) : DWord := x.rotateRight 19 ^^^ x.rotateRight 61 ^^^ (x >>> 6)

/-- One round with the round's constant and word. -/
def round (s : St) (k w : DWord) : St :=
  let t1 := s.h + sum1 s.e + ((s.e &&& s.f) ^^^ (~~~s.e &&& s.g)) + k + w
  let t2 := sum0 s.a + ((s.a &&& s.b) ^^^ (s.a &&& s.c) ^^^ (s.b &&& s.c))
  ⟨t1 + t2, s.a, s.b, s.c, s.d + t1, s.e, s.f, s.g⟩

/-- The message schedule, newest word first: `n` words more. -/
def extend : Nat → List DWord → List DWord
  | 0, w => w
  | n + 1, w => extend n ((sig1 (w.getD 1 0) + w.getD 6 0 + sig0 (w.getD 14 0) + w.getD 15 0) :: w)

/-- One block of sixteen words. -/
def block (s : St) (ws : List DWord) : St :=
  let w := (extend 64 ws.reverse).reverse
  let r := (List.zip rounds w).foldl (fun s e => round s e.1 e.2) s
  ⟨s.a + r.a, s.b + r.b, s.c + r.c, s.d + r.d, s.e + r.e, s.f + r.f, s.g + r.g, s.h + r.h⟩

/-- The big-endian value of a list of bytes. -/
def bigEndian (bs : List Byte) : Nat := bs.foldl (fun n b => n * 256 + b.toNat) 0

/-- The bytes of a value, most significant first. -/
def toBytes (v : Nat) : Nat → List Byte
  | 0 => []
  | n + 1 => toBytes (v / 256) n ++ [BitVec.ofNat 8 v]

/-- A message with its padding and its length in bits. -/
def padded (m : List Byte) : List Byte :=
  m ++ [0x80] ++ List.replicate ((239 - m.length % 128) % 128) 0 ++ toBytes (8 * m.length) 16

/-- The words of `n` blocks. -/
def blocks (s : St) (m : List Byte) : Nat → St
  | 0 => s
  | n + 1 => blocks (block s ((List.range 16).map fun i => BitVec.ofNat 64 (bigEndian ((m.drop (8 * i)).take 8)))) (m.drop 128) n

/-- The SHA-384 of a message. -/
def sha384 (m : List Byte) : BitVec 384 :=
  let p := padded m
  let s := blocks start p (p.length / 128)
  s.a ++ s.b ++ s.c ++ s.d ++ s.e ++ s.f

/-- The field that holds the SHA-384 of a message: its digest's bytes in their order, at ascending addresses (log entry 6). -/
def hashField (m : List Byte) : Nat := bigEndian (toBytes (sha384 m).toNat 48).reverse

end Sys2Proof.Sha
end

