-- ==== Sys2Proof/Machine/Ecdsa.lean ====
section
/-! DEFINITION. ECDSA on P-384 over SHA-384, by which the device signs and by which it checks images and tokens (R345, R420, R421, R445, R449). The
algorithm and the curve are the public standard that the spec names. -/
namespace Sys2Proof.Ecdsa

/-! ## Arithmetic modulo a prime -/

/-- A power modulo `m`, for exponents below `2 ^ bits`. -/
def powMod (m x e : Nat) : Nat → Nat
  | 0 => 1 % m
  | bits + 1 =>
    let h := powMod m x (e / 2) bits
    if e % 2 = 1 then h * h % m * x % m else h * h % m

/-- The inverse modulo a prime of 384 bits; 0 of 0. -/
def invMod (m x : Nat) : Nat := powMod m (x % m) (m - 2) 384

def subMod (m x y : Nat) : Nat := (x + (m - y % m)) % m

/-! ## The curve -/

/-- The prime of the field. -/
def prime : Nat := 2 ^ 384 - 2 ^ 128 - 2 ^ 96 + 2 ^ 32 - 1

/-- The order of the base point. -/
def order : Nat := 2 ^ 384 - 0x389CB27E0BC8D220A7E5F24DB74F58851313E695333AD68D

/-- A point of the curve: its coordinates, or none for the neutral one. -/
abbrev Point := Option (Nat × Nat)

/-- The base point. -/
def base : Point := some
  (0xAA87CA22BE8B05378EB1C71EF320AD746E1D3B628BA79B9859F741E082542A385502F25DBF55296C3A545E3872760AB7,
   0x3617DE4A96262C6F5D9E98BF9292DC29F8F41DBD289A147CE9DA3113B5F0B8C00A60B1CE1D7E819D7A431D7C90EA0E5F)

/-- The point where a line of a slope through two points meets the curve again, mirrored. -/
def onLine (slope x1 y1 x2 : Nat) : Point :=
  let x := subMod prime (subMod prime (slope * slope) x1) x2
  some (x, subMod prime (slope * subMod prime x1 x) y1)

/-- The sum of two points; the curve's linear coefficient is -3. -/
def add (p q : Point) : Point :=
  match p, q with
  | none, q => q
  | p, none => p
  | some (x1, y1), some (x2, y2) =>
    if x1 = x2 then
      if (y1 + y2) % prime = 0 then none else onLine (3 * subMod prime (x1 * x1) 1 % prime * invMod prime (2 * y1) % prime) x1 y1 x2
    else onLine (subMod prime y2 y1 * invMod prime (subMod prime x2 x1) % prime) x1 y1 x2

/-- `k` times a point, for `k` below `2 ^ bits`. -/
def mul (p : Point) (k : Nat) : Nat → Point
  | 0 => none
  | bits + 1 =>
    let h := mul p (k / 2) bits
    let h := add h h
    if k % 2 = 1 then add h p else h

/-! ## Signatures -/

/-- A signature (r, s) of a digest with a private key, for one random value; 0 in it where the value will not do. -/
def signWith (key k z : Nat) : Nat × Nat :=
  match mul base k 384 with
  | none => (0, 0)
  | some (x, _) =>
    let r := x % order
    (r, invMod order k * ((z + r * key) % order) % order)

/-- Whether (r, s) is a signature of a digest by the private key of a public one. -/
def verify (pub : Nat × Nat) (z r s : Nat) : Bool :=
  let w := invMod order s
  decide (0 < r) && decide (r < order) && decide (0 < s) && decide (s < order) &&
    (match add (mul base (z * w % order) 384) (mul (some pub) (r * w % order) 384) with
    | some (x, _) => x % order == r
    | none => false)

/-- A number from 1 to the order less 1. -/
def inOrder (n : Nat) : Nat := 1 + n % (order - 1)

/-- The identity key (R420) (log entry 93). -/
def idKey : Nat := inOrder Config.idSecret

/-- SEC_IDPUB: x, then y, each big-endian (R420). -/
def idPub : List Byte :=
  match mul base idKey 384 with
  | some (x, y) => Sha.toBytes x 48 ++ Sha.toBytes y 48
  | none => []

/-- The signature that the identity key gives a message, by its number: of 16 random values the first that will do (R345, R421) (log entry 93). -/
def sign (no : Nat) (m : List Byte) : BitVec 384 × BitVec 384 :=
  let z := (Sha.sha384 m).toNat
  let sigs := (List.range 16).map fun i => signWith idKey (inOrder (Config.signRandom (16 * no + i))) z
  let sg := (sigs.find? fun x => x.1 ≠ 0 && x.2 ≠ 0).getD (0, 0)
  (BitVec.ofNat 384 sg.1, BitVec.ofNat 384 sg.2)

/-- Whether a signature (r, s) of a message verifies with a public key (R445, R449). -/
def verifies (pub : Nat × Nat) (m : List Byte) (r s : BitVec 384) : Bool := verify pub (Sha.sha384 m).toNat r.toNat s.toNat

end Sys2Proof.Ecdsa
end

