-- ==== Sys2Proof/Syntax.lean ====
section
/-! DEFINITION. The syntax of the opcode table: one constructor of `Instr` for each row, an instruction of the Llynunso
set, the paired word, or a step of the device. Docstrings name the rule of spec/ each row rests on. -/
namespace Sys2Proof

/-- A guarding predicate (R62): `neg` is PRED [3] and `p` is PRED [2:0]. -/
structure Guard where
  neg : Bool
  p : Fin 8
  deriving DecidableEq, Repr

/-- The guard that always holds (R28). -/
def Guard.always : Guard := ⟨false, 0⟩

/-- A register specifier (R66). -/
inductive Spec where
  | v (n : Fin 1536)
  | o (n : Fin 32)
  | y (n : Fin 4)
  | g (n : Fin 128)
  | p (n : Fin 8)
  | c (n : Fin 8)
  | t (n : Fin 8)
  | imm (i : BitVec 6)
  | zero
  deriving DecidableEq, Repr

/-- A source: a specifier, or the IMM32 of a B96 word (R63). -/
inductive Src where
  | sp (s : Spec)
  | imm32 (i : Word)
  deriving DecidableEq, Repr

/-- The register fields of a word: the guard, the destination and the sources SA, SB and SC (R62). A field an instruction
does not use holds the zero code (R61). -/
structure Ops where
  g : Guard
  d : Spec
  a : Src
  b : Src
  c : Spec
  deriving DecidableEq, Repr

/-- Integer comparisons (R72). -/
inductive Cmp where
  | eq | ne | lt | le | gt | ge
  deriving DecidableEq, Repr

/-- Floating-point comparisons (R128). -/
inductive FCmp where
  | eq | ne | lt | le | gt | ge | num | nan
  deriving DecidableEq, Repr

/-- Rounding directions (R73, R91). -/
inductive Rnd where
  | rn | rz | rd | ru
  deriving DecidableEq, Repr

/-- Element widths of PACK and UNPACK (R73). -/
inductive Esz where
  | w4 | w8 | w16
  deriving DecidableEq, Repr

/-- Conversion types (R73). -/
inductive Ty where
  | i8 | i16 | i32 | n8 | n16 | n32 | f16 | bf16 | f32 | f64
  deriving DecidableEq, Repr

/-- Source modes of SHFL (R189). -/
inductive ShflMode where
  | from | shift | rotate | xor
  deriving DecidableEq, Repr

/-- Modes of VOTE: four predicate forms, then four value forms (R190). -/
inductive VoteMode where
  | some | every | agree | major | mask | tally | lead | rank
  deriving DecidableEq, Repr

/-- Modes of MATCH (R191). -/
inductive MatchMode where
  | peers | leader | rank | whole
  deriving DecidableEq, Repr

/-- Operations of REDUCE and SCAN (R192). -/
inductive Rop where
  | iadd | imin | imax | nmin | nmax | and | or | xor | fadd | fmin | fmax
  deriving DecidableEq, Repr

/-- Access sizes (R75). -/
inductive Size where
  | i8 | n8 | i16 | n16 | w32 | w64 | w128
  deriving DecidableEq, Repr

/-- Scratchpad atomic operations (R214). -/
inductive Aop where
  | add | min | max | nmin | nmax | and | or | exch
  deriving DecidableEq, Repr

/-- Declared conflict bounds (R75). -/
inductive Cb where
  | c1 | c2 | c4 | c32
  deriving DecidableEq, Repr

/-- Scopes (R263). -/
inductive Scope where
  | thread | group | team | cluster | die | dev | sys
  deriving DecidableEq, Repr

/-- Global atomic operations (R81). -/
inductive Gop where
  | add | min | max | nmin | nmax | and | or | xor | exch | cas | fadd
  deriving DecidableEq, Repr

/-- Actions of RETT (R389). -/
inductive RettAct where
  | replay | skip | end_
  deriving DecidableEq, Repr

/-- The extension of MMA (R78); `dprog` is none for 0x3F. -/
structure MmaExt where
  bcol : Byte
  bk : BitVec 16
  ak : BitVec 16
  new : Bool
  dprog : Option (Fin 32)
  deriving DecidableEq, Repr

/-- The extension of DRAIN (R79). -/
structure DrainExt where
  cpitch : Byte
  rpitch : BitVec 20
  keep : Bool
  dprog : Fin 32
  deriving DecidableEq, Repr

/-- The extension of COPY (R80): `off` in units of 16 bytes, `sys` for scope 110, `cn` the coordinate count minus 1,
`lk` for an operand-buffer reservation, `store` for DIR = 1. -/
structure CopyExt where
  off16 : BitVec 16
  sys : Bool
  cn : Fin 3
  lk : Bool
  store : Bool
  deriving DecidableEq, Repr

/-- The extension of FATOM (R81). -/
structure FatomExt where
  cmp : Spec
  sys : Bool
  w64 : Bool
  op : Gop
  deriving DecidableEq, Repr

/-- The pairable operations with their modifiers (R82). `n` is the unsigned modifier, `bf` BF16 halves. -/
inductive POp where
  | iadd | isub | iadds (n : Bool) | imul | imulh (n : Bool) | imad | imin (n : Bool) | imax (n : Bool) | iabs
  | idot4 (na nb : Bool) | and | or | xor | andn | not | shl | shr | sha | rot | bfx (n : Bool) | bfi | popc | clz | brev
  | iset (c : Cmp) (n : Bool) | sel | mov | lea
  | fadd (r : Rnd) (ftz : Bool) | fsub (r : Rnd) (ftz : Bool) | fmul (r : Rnd) (ftz : Bool) | ffma (r : Rnd) (ftz : Bool)
  | fmin (prop ftz : Bool) | fmax (prop ftz : Bool) | fset (c : FCmp) (ftz : Bool) | fclass
  | frnd (r : Rnd) (ftz : Bool) | fscale (r : Rnd) (ftz : Bool)
  | hadd2 (bf : Bool) (r : Rnd) (ftz : Bool) | hmul2 (bf : Bool) (r : Rnd) (ftz : Bool)
  | hfma2 (bf : Bool) (r : Rnd) (ftz : Bool) | hmin2 (bf prop ftz : Bool) | hmax2 (bf prop ftz : Bool)
  | fdot2 (bf : Bool) (r : Rnd) (ftz : Bool)
  | cvt (dst src : Ty) (sat ftz : Bool) (r : Rnd) | cvtn (from_ sat : Bool) (r : Rnd)
  | cvtw (dst src : Ty) (sat ftz : Bool) (r : Rnd) | pack (e : Esz) (sat : Bool) | unpack (e : Esz)
  deriving DecidableEq, Repr

/-- One slot of a paired word (R65). -/
structure PairSlot where
  op : POp
  o : Ops
  deriving DecidableEq, Repr

/-- A flit of the fabric: the fields of its 2,048 bits, from the top (R408). -/
structure Flit where
  crc : BitVec 32
  payload : BitVec 1984
  type : BitVec 4
  ack : BitVec 12
  seq : BitVec 12
  mbz : BitVec 4
  deriving DecidableEq, Repr

/-- What a read of the host reads (row HOST_READ): the PF reads as interface 64. -/
inductive Space where
  /-- BAR4: the interface's virtual address space (R273, R416). -/
  | bar4
  /-- BAR0: the interface's registers (R416, R417). -/
  | bar0
  /-- BAR2: the interface's doorbells (R331, R416). -/
  | bar2
  /-- SEC_IDPUB, through the PF or an interface (R420). -/
  | idPub
  /-- The certificate chain in flash, through the PF (R420). -/
  | chain
  /-- The configuration space of the PF (R446). -/
  | config
  /-- The state that the host scans out through the PF while the clocks are stopped (R441). -/
  | scan
  deriving DecidableEq, Repr

/-- Where a read of the host starts: an offset in a space, which is a virtual address in BAR4. -/
structure HostAddr where
  space : Space
  off : Nat
  deriving DecidableEq, Repr

/-- The device registers whose write has no behaviour of its own (row REGISTER_WRITE): each with the rule that maps it. -/
inductive Reg where
  /-- CP_IDLE_TIMEOUT of a hub (R333). -/
  | cpIdleTimeout (hub : Nat)
  /-- PRD_CTL (R375). -/
  | prdCtl
  /-- PWR_BALLAST_SET (R434). -/
  | pwrBallastSet
  /-- FAB_CTL of a hub (R413). -/
  | fabCtl (hub : Nat)
  /-- FAB_PORTSTAT of a port, field ETHR (R413). -/
  | fabPortstat (port : Nat)
  /-- Entry of FAB_PEER (R412). -/
  | fabPeer (dev : Nat)
  /-- SEC_KEYSEL of an interface (R418). -/
  | secKeysel (vi : Nat)
  /-- VI_CTXQID of an interface (R396). -/
  | viCtxqid (vi : Nat)
  /-- Owner of a key slot, assigned by the PF (R418). -/
  | keyOwner (slot : Nat)
  /-- SEC_RCVADDR (R447). -/
  | secRcvaddr
  /-- SEC_RCVCTL, field LEN (R447). -/
  | secRcvctlLen
  /-- DBG_TSTARTn of a die (R437). -/
  | dbgTstart (die n : Nat)
  /-- DBG_TSTOPn of a die (R437). -/
  | dbgTstop (die n : Nat)
  /-- DBG_BPn of a core (R439). -/
  | dbgBp (core n : Nat)
  /-- DBG_WPn of a core (R440). -/
  | dbgWp (core n : Nat)
  /-- An offset of an interface's BAR0 (R416, R417). -/
  | bar0 (vi off : Nat)
  deriving DecidableEq, Repr

/-- The rows of the opcode table. -/
inductive Instr where
  -- control (08)
  | nop (g : Guard) | bra (g : Guard) (target : Word) | brx (g : Guard) (table : BitVec 5) (a : Spec)
  | call (g : Guard) (target : Word) | ret (g : Guard)
  | loop (g : Guard) (c : Fin 8) (bound : Word) | next (g : Guard) (c : Fin 8) (target : Word)
  | meet (g : Guard) (target : Word) | exit (g : Guard) | yield (g : Guard) | elect (g : Guard) (d a : Spec)
  | trap (g : Guard) (a : Spec) | bkpt (g : Guard) | bbhint (g : Guard) (a : Spec) | time (g : Guard) (d : Spec)
  | cyc (g : Guard) (d : Spec)
  -- integer (06)
  | iadd (o : Ops) | isub (o : Ops) | iadds (o : Ops) (n : Bool) | imul (o : Ops) | imulh (o : Ops) (n : Bool)
  | imad (o : Ops) | imin (o : Ops) (n : Bool) | imax (o : Ops) (n : Bool) | iabs (o : Ops)
  | idot4 (o : Ops) (na nb : Bool) | and (o : Ops) | or (o : Ops) | xor (o : Ops) | andn (o : Ops) | not (o : Ops)
  | shl (o : Ops) | shr (o : Ops) | sha (o : Ops) | rot (o : Ops) | bfx (o : Ops) (n : Bool) | bfi (o : Ops)
  | popc (o : Ops) | clz (o : Ops) | brev (o : Ops) | iset (o : Ops) (c : Cmp) (n : Bool) | sel (o : Ops)
  | mov (o : Ops) | movi (g : Guard) (d : Spec) (i : Word) | pset (o : Ops) | lea (o : Ops)
  | iadd64 (o : Ops) | isub64 (o : Ops) | imad64 (o : Ops) | shl64 (o : Ops) | shr64 (o : Ops) (n : Bool)
  | iset64 (o : Ops) (c : Cmp) (n : Bool)
  -- uniform (06)
  | gadd (o : Ops) | gsub (o : Ops) | gmul (o : Ops) | gmad (o : Ops) | gand (o : Ops) | gor (o : Ops) | gxor (o : Ops)
  | gshl (o : Ops) | gshr (o : Ops) (n : Bool) | gmin (o : Ops) (n : Bool) | gmax (o : Ops) (n : Bool)
  | gset (o : Ops) (c : Cmp) (n : Bool) | gsel (o : Ops) | gmov (o : Ops) | gmovi (g : Guard) (d : Spec) (i : Word)
  | gld (o : Ops) | gst (o : Ops) | grd (o : Ops)
  -- float, packed, conversion, special functions (07)
  | fadd (o : Ops) (r : Rnd) (ftz : Bool) | fsub (o : Ops) (r : Rnd) (ftz : Bool) | fmul (o : Ops) (r : Rnd) (ftz : Bool)
  | ffma (o : Ops) (r : Rnd) (ftz : Bool) | fmin (o : Ops) (prop ftz : Bool) | fmax (o : Ops) (prop ftz : Bool)
  | fset (o : Ops) (c : FCmp) (ftz : Bool) | fclass (o : Ops) | frnd (o : Ops) (r : Rnd) (ftz : Bool)
  | fscale (o : Ops) (r : Rnd) (ftz : Bool)
  | dadd (o : Ops) (r : Rnd) (ftz : Bool) | dmul (o : Ops) (r : Rnd) (ftz : Bool) | dfma (o : Ops) (r : Rnd) (ftz : Bool)
  | dmin (o : Ops) (prop ftz : Bool) | dmax (o : Ops) (prop ftz : Bool) | dset (o : Ops) (c : FCmp) (ftz : Bool)
  | hadd2 (o : Ops) (bf : Bool) (r : Rnd) (ftz : Bool) | hmul2 (o : Ops) (bf : Bool) (r : Rnd) (ftz : Bool)
  | hfma2 (o : Ops) (bf : Bool) (r : Rnd) (ftz : Bool) | hmin2 (o : Ops) (bf prop ftz : Bool)
  | hmax2 (o : Ops) (bf prop ftz : Bool) | fdot2 (o : Ops) (bf : Bool) (r : Rnd) (ftz : Bool)
  | ndot4 (g : Guard) (d a b c : Spec) (fmt : Word) (r : Rnd) (ftz : Bool)
  | cvt (o : Ops) (dst src : Ty) (sat ftz : Bool) (r : Rnd) | cvtn (o : Ops) (from_ sat : Bool) (r : Rnd)
  | cvtw (o : Ops) (dst src : Ty) (sat ftz : Bool) (r : Rnd) | pack (o : Ops) (e : Esz) (sat : Bool)
  | unpack (o : Ops) (e : Esz)
  | rcp (o : Ops) (ftz : Bool) | rsq (o : Ops) (ftz : Bool) | sqrt (o : Ops) (ftz : Bool) | exp2 (o : Ops) (ftz : Bool)
  | log2 (o : Ops) (ftz : Bool) | sin (o : Ops) (ftz : Bool) | cos (o : Ops) (ftz : Bool) | tanh (o : Ops) (ftz : Bool)
  -- cross-lane, histogram, barrier (10)
  | shfl (o : Ops) (m : ShflMode) | vote (g : Guard) (d : Spec) (p : Fin 8) (m : VoteMode) | match_ (o : Ops) (m : MatchMode)
  | reduce (o : Ops) (r : Rop) | scan (o : Ops) (r : Rop) (excl : Bool) | hist (o : Ops) | merge (o : Ops)
  | bar (g : Guard) (b : Fin 16) (count : Spec) | arrive (g : Guard) (b : Fin 16) (count : Spec)
  | waitbar (g : Guard) (b : Fin 16)
  -- memory (11)
  | ld (o : Ops) (s : Size) (cb : Cb) | st (o : Ops) (s : Size) (cb : Cb) | atom (o : Ops) (a : Aop) (cb : Cb)
  | acas (o : Ops) (cb : Cb) | rld (o : Ops) (s : Size) | rst (o : Ops) (s : Size) | ratom (o : Ops) (a : Aop)
  | old (o : Ops) (s : Size) | ost (o : Ops) (s : Size) | fence (g : Guard) (s : Scope)
  -- matrix and drain (15, 16)
  | rsv (g : Guard) (rid rec : Spec) | rls (g : Guard) (rid : Spec) | opfence (g : Guard)
  | mma (g : Guard) (tile ra rb : Spec) (vn : Fin 1536) (e : MmaExt) | mmaw (g : Guard)
  | tmov (g : Guard) (d tile : Spec) (row : BitVec 5) | tset (g : Guard) (tile a : Spec) (row : BitVec 5)
  | tzero (g : Guard) (tile : Spec) | drain (g : Guard) (tile sb rid : Spec) (e : DrainExt) | drainw (g : Guard)
  | dpld (g : Guard) (prog addr : Spec)
  -- engines (13)
  | copy (g : Guard) (loc shape : Spec) (coord : Fin 128) (ctr : Spec) (e : CopyExt)
  | waitc (g : Guard) (ctr target : Spec) (bound : Word) | cntset (g : Guard) (ctr value : Spec)
  | fetch (g : Guard) (d : Fin 128) | fatom (g : Guard) (old : Spec) (addr : Fin 128) (b ctr : Spec) (e : FatomExt)
  -- system (03, 22)
  | sread (g : Guard) (d : Spec) (num : BitVec 11) | swrite (g : Guard) (num : BitVec 11) (a : Spec)
  | rett (g : Guard) (rec : Spec) (act : RettAct)
  -- the paired word (04)
  | pairedWord (x y : PairSlot)
  -- steps of a team and its core (03, 09 to 13)
  | resultWriteback (core tx g : Nat) | teamStart (grid n : Nat) | teamStep (core tx : Nat) | teamRetire (core tx : Nat)
  | barrierWaveRelease (core tx : Nat) | barrierDeadlock (core tx : Nat) | waitcSatisfied (core tx g : Nat)
  | waitcTimeout (core tx g : Nat) | cntsetWrite (core tx g : Nat) | fenceComplete (core tx g : Nat) | remoteAccessEntry (core i : Nat)
  | remoteResultReady (core i : Nat) | rsvEntryUsable (core tx g : Nat)
  -- steps of the matrix unit and the drains (15, 16)
  | mmaGatherDone (pair ctx : Nat) | mmaCaptureStart (pair ctx : Nat) | mmaCaptureEnd (pair ctx : Nat) | mmaRetire (pair ctx : Nat)
  | mmawComplete (core tx g : Nat) | tmovRead (pair ctx i : Nat) | tsetWrite (pair ctx i : Nat) | drainHalfStart (pair ctx half : Nat)
  | drainRowCommit (pair ctx half i : Nat) | drainwComplete (core tx g : Nat) | dpldSlotWrite (core tx g : Nat)
  -- steps of the engines and of translation (13)
  | stagingElement (core tx : Nat) | stagingComplete (core tx : Nat) | writebackElement (core tx : Nat) | writebackComplete (core tx : Nat)
  | copyElement (core : Nat) | copyComplete (core : Nat) | pageWalkComplete (die i : Nat) | commandLogCheck (die i : Nat)
  | commandLogEntryRetry (core : Nat) | migrationBack (vi va : Nat) (frame : BitVec 32) | migrationComplete (i : Nat)
  -- steps of the views of global memory (14)
  | writeArrive (holder i : Nat) | writeApply (holder i : Nat) | fatomHomePerform (core : Nat) | fatomOldValueReturn (core : Nat)
  -- steps of the queues and launches (18, 22)
  | queueSlotMapDeferred (hub : Nat) | queueIdleTimeout (slot : Nat) | quote (q : Nat) | accept (q : Nat) | decline (q : Nat)
  | launch (q : Nat) | mark (q : Nat) | markPost (q : Nat) | badcmd (q : Nat) | gridStart (grid : Nat) | completionRecord (grid : Nat)
  | eventRecordDeferred (q : Nat) | eventInterruptCount (q : Nat) | eventInterruptTimer (q : Nat) | timeSliceEnd (grid : Nat)
  | forcedSaveStart (grid : Nat) | forcedSaveComplete (grid : Nat) | forcedSaveTimeout (grid : Nat) | contextRestore (grid : Nat)
  | trapRecordClaim (core : Nat) | workEntryTimeout (hub i : Nat)
  -- steps of the launch predictor (20)
  | predictionStart (q : Nat) | predictionRevalidate (q : Nat) | predictionClaim (q : Nat) | predictionHoldExpiry (q : Nat)
  -- steps of the fabric (24)
  | flitSend (port : Nat) | laneRepair (port lane : Nat) | laneRepairDone (port : Nat) | portRetrainDone (port : Nat)
  | laneShed (port : Nat) | laneRegain (port : Nat) | peerUnreachableTimeout (dev : Nat)
  -- steps of power, heat and maintenance (25, 27)
  | governorSample (cl : Nat) | voltageSlewDone (cl : Nat) | frequencySwitchDone (cl : Nat) | droopWindowEnd (cl : Nat)
  | throttleStopEnd (cl : Nat) | throttleHoldEnd (cl : Nat) | diePowerOff (die : Nat) | droopAlarm (cl : Nat) | currentSample (amps : List Nat)
  | sensorSample (die : Nat) (temps : List (BitVec 16)) | hbmTempSample (die stack : Nat) (temp : Byte)
  | powerControlSample (watts : BitVec 16) | hbmEcntGather (die stack : Nat) (counts : List Nat) (ue : Nat)
  -- steps of debug and trace (26), and of the host's completions (24)
  | triggerOpen (die n : Nat) | triggerClose (die n : Nat)
  | agentTicketDraw (core hub : Nat)
  -- inputs from the host, the PF, link partners and measurements, which the model only takes (22, 24 to 27)
  | migrationToTier (vi va : Nat) (slot : BitVec 32) | doorbellSignalStore (vi q : Nat) (val : DWord) | teamMigrate (core tx dest : Nat)
  | viCtxctlStop (vi : Nat) | viCtxctlResume (vi : Nat) | viCtxctlReset (vi : Nat)
  | viQtableWrite (vi q : Nat) (val : DWord) | viRootWrite (vi : Nat) (val : DWord) | viViolClear (vi : Nat)
  | hostWrite (vi va : Nat) (bytes : List Byte) | hostRead (vi : Nat) (a : HostAddr) (n : Nat) | secKeydataWrite (vi : Nat) (bytes : List Byte)
  | viFlr (vi : Nat) | attestRequest (vi : Nat) (addr : DWord) | debugUnlockRequest (val : DWord) | flyCtlWrite (val : DWord)
  | flitDataReceive (port : Nat) (f : Flit) | flitAckReceive (port : Nat) (ack : BitVec 12)
  | flitReplayRequestReceive (port : Nat) (ack : BitVec 12) | clDvfsWrite (cl : Nat) (val : DWord) | clSlopeWrite (cl : Nat) (val : DWord)
  | drpThreshWrite (cl : Nat) (val : DWord) | scrubErrorFound (die : Nat) (addr : Nat) (correctable : Bool) | triggerArm (die n : Nat) (val : DWord)
  | dbgStopTickWrite (val : DWord) | registerWrite (r : Reg) (val : DWord) | hostCompletion (core : Nat) (write : Bool) (ticks : Nat)
  | laneControlFlitReceive (port lane : Nat)
  -- events without an argument
  | attestReport | dbgchalRead | debugUnlockDone | recoveryVerify | recoveryVerifyDone | recoveryRun | recoveryCommit | recoveryCommitDone
  | recoveryRaise | deviceReset | powerLoss | flyCtlApply | deviceClockStop
  deriving DecidableEq, Repr

end Sys2Proof
end

