-- ==== Sys2Proof/Machine/Positions.lean ====
section
/-! DEFINITION. Which specifier codes each operand position accepts: the tables of R109, R119, R125, R146, R188, R197, R212,
R298 and the uniform-only fields of R68. -/
namespace Sys2Proof

/-- The kinds of operand position. -/
inductive Posn where
  /-- The zero code only (R61). -/
  | zero
  /-- 32-bit destination: v, o, zero. -/
  | dv
  /-- 64-bit destination: even v or o, zero. -/
  | dv64
  /-- 128-bit destination: v or o with number a multiple of 4, zero (R212). -/
  | dv128
  /-- Predicate destination: p, zero. -/
  | dp
  /-- Uniform destination: g, zero (R119). -/
  | dg
  /-- v, o, g or zero (R188, REDUCE; R190, MASK, TALLY, LEAD). -/
  | dvg
  /-- v, o or g (R52, SREAD). -/
  | dsread
  /-- Even v, o or g, zero (R146, TIME and CYC). -/
  | dtime
  /-- 32-bit value source (R109, R125 integer source). -/
  | s32
  /-- 64-bit integer source (R109). -/
  | s64
  /-- 128-bit store source (R212). -/
  | s128
  /-- 32-bit floating-point source (R125). -/
  | f32
  /-- 64-bit floating-point source (R125). -/
  | f64
  /-- Predicate source. -/
  | ps
  /-- Truth table of PSET: small immediate 0 to 15 (R109). -/
  | lut
  /-- Uniform value: g, small immediate, zero (R119). -/
  | u
  /-- Uniform field with range 0 to `n`: g, small immediate 0 to `n`, zero (R68). -/
  | ur (n : Nat)
  /-- Even g pair, small immediate or zero (R81, W64). -/
  | u64
  /-- Base of an address: v, o, y, g, c, zero (R212). -/
  | base
  /-- Offset of an address: small immediate, zero (R212). -/
  | off
  /-- Base of GLD and GST: g or zero (R122). -/
  | gbase
  /-- Tile: t, g, small immediate 0 to 7, zero (R298). -/
  | tile
  /-- Source of GRD: v, o, y (R121). -/
  | grd
  /-- Source of TSET: v, o, y, g, zero (R298). -/
  | tset
  /-- Source of SWRITE: v, o, g, y, small immediate, zero (R52). -/
  | swr
  deriving DecidableEq, Repr

/-- A small immediate between 0 and `n`. -/
def immIn (n : Nat) (i : BitVec 6) : Bool := i.toNat ≤ n && i.toNat < 32

/-- Whether a position accepts a specifier. -/
def Posn.ok : Posn → Spec → Bool
  | .ps, .zero | .lut, .zero | .dsread, .zero | .grd, .zero => false
  | _, .zero => true
  | .dv, .v _ | .dv, .o _ => true
  | .dv64, .v n => n.val % 2 == 0
  | .dv64, .o n => n.val % 2 == 0
  | .dv128, .v n => n.val % 4 == 0
  | .dv128, .o n => n.val % 4 == 0
  | .dp, .p _ => true
  | .dg, .g _ => true
  | .dvg, .v _ | .dvg, .o _ | .dvg, .g _ => true
  | .dsread, .v _ | .dsread, .o _ | .dsread, .g _ => true
  | .dtime, .v n => n.val % 2 == 0
  | .dtime, .o n => n.val % 2 == 0
  | .dtime, .g n => n.val % 2 == 0
  | .s32, .v _ | .s32, .o _ | .s32, .y _ | .s32, .g _ | .s32, .c _ | .s32, .imm _ => true
  | .s64, .v n => n.val % 2 == 0
  | .s64, .o n => n.val % 2 == 0
  | .s64, .g n => n.val % 2 == 0
  | .s64, .imm _ => true
  | .s128, .v n => n.val % 4 == 0
  | .s128, .o n => n.val % 4 == 0
  | .s128, .g n => n.val % 4 == 0
  | .f32, .v _ | .f32, .o _ | .f32, .y _ | .f32, .g _ | .f32, .c _ => true
  | .f64, .v n => n.val % 2 == 0
  | .f64, .o n => n.val % 2 == 0
  | .f64, .g n => n.val % 2 == 0
  | .ps, .p _ => true
  | .lut, .imm i => immIn 15 i
  | .u, .g _ | .u, .imm _ => true
  | .ur _, .g _ => true
  | .ur n, .imm i => immIn n i
  | .u64, .g n => n.val % 2 == 0
  | .u64, .imm _ => true
  | .base, .v _ | .base, .o _ | .base, .y _ | .base, .g _ | .base, .c _ => true
  | .off, .imm _ => true
  | .gbase, .g _ => true
  | .tile, .t _ | .tile, .g _ => true
  | .tile, .imm i => immIn 7 i
  | .grd, .v _ | .grd, .o _ | .grd, .y _ => true
  | .tset, .v _ | .tset, .o _ | .tset, .y _ | .tset, .g _ => true
  | .swr, .v _ | .swr, .o _ | .swr, .y _ | .swr, .g _ | .swr, .imm _ => true
  | _, _ => false

/-- Whether a position accepts a source of a B64 word, or IMM32 where the instruction has a B96 form (`b96`). -/
def Posn.okSrc (k : Posn) (b96 : Bool) : Src → Bool
  | .sp s => k.ok s
  | .imm32 _ => b96

/-- The specifier of a source; IMM32 stands in the SB field as the zero code (R63). -/
def Src.spec : Src → Spec
  | .sp s => s
  | .imm32 _ => .zero

/-- The position of a load's destination by its size (R212). -/
def Size.dst : Size → Posn
  | .w64 => .dv64
  | .w128 => .dv128
  | _ => .dv

/-- The position of a store's value by its size (R212). -/
def Size.src : Size → Posn
  | .w64 => .s64
  | .w128 => .s128
  | _ => .s32

/-- The position of a conversion's source by its type (R125, R135). -/
def Ty.src : Ty → Posn
  | .f64 => .f64
  | .f32 | .f16 | .bf16 => .f32
  | _ => .s32

/-- The position of a conversion's destination by its type. -/
def Ty.dst : Ty → Posn
  | .f64 => .dv64
  | _ => .dv

/-- The destination of a VOTE by its mode (R190). -/
def VoteMode.dst : VoteMode → Posn
  | .some | .every | .agree | .major => .dp
  | .rank => .dv
  | _ => .dvg

/-- The register fields of a word in positions `d`, `a`, `b`, `c`; `b96` where SB may be IMM32 (log entry 7). -/
def Ops.ok (o : Ops) (d a b c : Posn) (b96 : Bool) : Bool :=
  d.ok o.d && a.okSrc false o.a && b.okSrc b96 o.b && c.ok o.c

/-- Check 6 of a pairable operation (R109, R125, R136 to R138). `b96` is false in a slot. -/
def POp.posOk (p : POp) (o : Ops) (b96 : Bool) : Bool :=
  match p with
  | .iadd | .isub | .iadds _ | .imul | .imulh _ | .imin _ | .imax _ | .and | .or | .xor | .andn | .shl | .shr | .sha
  | .rot | .bfx _ => o.ok .dv .s32 .s32 .zero b96
  | .imad | .idot4 _ _ | .bfi | .lea => o.ok .dv .s32 .s32 .s32 b96
  | .iabs | .not | .popc | .clz | .brev | .mov => o.ok .dv .s32 .zero .zero false
  | .iset _ _ => o.ok .dp .s32 .s32 .zero b96
  | .sel => o.ok .dv .s32 .s32 .ps b96
  | .fadd _ _ | .fsub _ _ | .fmul _ _ | .fmin _ _ | .fmax _ _ => o.ok .dv .f32 .f32 .zero b96
  | .ffma _ _ => o.ok .dv .f32 .f32 .f32 b96
  | .fset _ _ => o.ok .dp .f32 .f32 .zero b96
  | .fclass | .frnd _ _ => o.ok .dv .f32 .zero .zero false
  | .fscale _ _ => o.ok .dv .f32 .s32 .zero b96
  | .hadd2 _ _ _ | .hmul2 _ _ _ | .hmin2 _ _ _ | .hmax2 _ _ _ => o.ok .dv .f32 .f32 .zero b96
  | .hfma2 _ _ _ | .fdot2 _ _ _ => o.ok .dv .f32 .f32 .f32 b96
  | .cvt d s _ _ _ => o.ok d.dst s.src .zero .zero false
  | .cvtn _ _ _ => o.ok .dv .f32 .u .zero b96
  | .cvtw _ s _ _ _ => o.ok .dv s.src s.src .zero false
  | .pack _ _ => o.ok .dv .s32 .s32 .s32 false
  | .unpack _ => o.ok .dv .s32 .s32 .zero false

/-- Field values of a pairable operation (R136). -/
def POp.valOk : POp → Bool
  | .cvtw d s _ _ _ =>
    (match s with | .i32 | .n32 | .f32 => true | _ => false) &&
    (match d with | .i16 | .n16 | .f16 | .bf16 => true | _ => false)
  | _ => true

/-- Modifier bits that an operation does not use (R137: SAT with DIR = 1). -/
def POp.mbzOk : POp → Bool
  | .cvtn from_ sat _ => !(from_ && sat)
  | _ => true

/-- PRED ¬p0 raises ILLEGAL (R62). -/
def Guard.ok (g : Guard) : Bool := !(g.neg && g.p == 0)

/-- The v specifiers of a slot that use a bank port (R83). -/
def PairSlot.ports (s : PairSlot) : List Nat :=
  let one : Spec → List Nat := fun x => match x with | .v n => [n.val] | _ => []
  one s.o.a.spec ++ one s.o.b.spec ++ one s.o.c

/-- Whether two main-file names need one read port (R83): different names in one bank. -/
def portClash (m n : Nat) : Bool := m % 4 == n % 4 && m != n

/-- No two of a list of main-file names clash. -/
def portsOk : List Nat → Bool
  | [] => true
  | m :: t => t.all (fun n => !portClash m n) && portsOk t

/-- A slot names no F64 type, and a CVTN in a slot takes its descriptor from a g register (R83). -/
def PairSlot.kindOk (s : PairSlot) : Bool :=
  match s.op with
  | .cvt d s' _ _ _ => d != .f64 && s' != .f64
  | .cvtw d s' _ _ _ => d != .f64 && s' != .f64
  | .cvtn _ _ _ => match s.o.b with | .sp (.g _) => true | _ => false
  | _ => true

/-- The pairing rules of R83. -/
def pairOk (x y : PairSlot) : Bool :=
  (x.o.d != y.o.d || x.o.d == .zero) && portsOk (x.ports ++ y.ports) && x.kindOk && y.kindOk

end Sys2Proof
end

