-- ==== Sys2Proof/WellFormed.lean ====
section
/-! DEFINITION. Well-formed instructions: the conditions that decode checks 5 to 8 (R85) put on one word, said of the
instruction. Conditions that depend on where the word stands (the target of NEXT, the number of target tables) are
decode's. -/
namespace Sys2Proof

/-- A branch target: bits [31:24] and [1:0] zero (R77). -/
def targetOk (t : Word) : Bool := t.toNat % 4 == 0 && t.toNat < 2 ^ 24

/-- Check 5: no modifier, extension or IMM32 bit that must be zero is set. -/
def Instr.mbzOk : Instr → Bool
  | .bra _ t | .call _ t | .next _ _ t | .meet _ t => targetOk t
  | .cvtn _ from_ sat _ => !(from_ && sat)
  | .copy _ _ _ _ _ e => e.lk || e.off16 == 0
  | .pairedWord x y => x.op.mbzOk && y.op.mbzOk
  | _ => true

/-- The pairable operation and the register fields of a B64 or B96 word that carries it alone. -/
def Instr.pop : Instr → Option (POp × Ops)
  | .iadd o => some (.iadd, o) | .isub o => some (.isub, o) | .iadds o n => some (.iadds n, o) | .imul o => some (.imul, o)
  | .imulh o n => some (.imulh n, o) | .imad o => some (.imad, o) | .imin o n => some (.imin n, o)
  | .imax o n => some (.imax n, o) | .iabs o => some (.iabs, o) | .idot4 o na nb => some (.idot4 na nb, o)
  | .and o => some (.and, o) | .or o => some (.or, o) | .xor o => some (.xor, o) | .andn o => some (.andn, o)
  | .not o => some (.not, o) | .shl o => some (.shl, o) | .shr o => some (.shr, o) | .sha o => some (.sha, o)
  | .rot o => some (.rot, o) | .bfx o n => some (.bfx n, o) | .bfi o => some (.bfi, o) | .popc o => some (.popc, o)
  | .clz o => some (.clz, o) | .brev o => some (.brev, o) | .iset o c n => some (.iset c n, o) | .sel o => some (.sel, o)
  | .mov o => some (.mov, o) | .lea o => some (.lea, o)
  | .fadd o r z => some (.fadd r z, o) | .fsub o r z => some (.fsub r z, o) | .fmul o r z => some (.fmul r z, o)
  | .ffma o r z => some (.ffma r z, o) | .fmin o p z => some (.fmin p z, o) | .fmax o p z => some (.fmax p z, o)
  | .fset o c z => some (.fset c z, o) | .fclass o => some (.fclass, o) | .frnd o r z => some (.frnd r z, o)
  | .fscale o r z => some (.fscale r z, o)
  | .hadd2 o b r z => some (.hadd2 b r z, o) | .hmul2 o b r z => some (.hmul2 b r z, o)
  | .hfma2 o b r z => some (.hfma2 b r z, o) | .hmin2 o b p z => some (.hmin2 b p z, o)
  | .hmax2 o b p z => some (.hmax2 b p z, o) | .fdot2 o b r z => some (.fdot2 b r z, o)
  | .cvt o d s sat z r => some (.cvt d s sat z r, o) | .cvtn o f sat r => some (.cvtn f sat r, o)
  | .cvtw o d s sat z r => some (.cvtw d s sat z r, o) | .pack o e sat => some (.pack e sat, o)
  | .unpack o e => some (.unpack e, o)
  | _ => none

/-- The offset field of a memory instruction: a small immediate, zero, or IMM32 (R211). -/
def memOk (o : Ops) (d c : Posn) : Bool := o.ok d .base .off c true

/-- Check 6: every specifier stands in a position that accepts it (R61, R66 to R68, and the position tables). -/
def Instr.posOk (i : Instr) : Bool :=
  match i.pop with
  | some (p, o) => p.posOk o true
  | none =>
    match i with
    | .brx _ _ a => Posn.s32.ok a
    | .elect _ d a => Posn.dp.ok d && (Posn.ur 31).ok a
    | .trap _ a => (Posn.ur 31).ok a
    | .bbhint _ a => (Posn.ur 31).ok a
    | .time _ d => Posn.dtime.ok d
    | .cyc _ d => Posn.dtime.ok d
    | .movi _ d _ => Posn.dv.ok d
    | .pset o => o.ok .dp .ps .ps .lut false
    | .iadd64 o | .isub64 o => o.ok .dv64 .s64 .s64 .zero false
    | .imad64 o => o.ok .dv64 .s64 .s64 .s64 false
    | .shl64 o => o.ok .dv64 .s64 .s32 .zero false
    | .shr64 o _ => o.ok .dv64 .s64 .s32 .zero false
    | .iset64 o _ _ => o.ok .dp .s64 .s64 .zero false
    | .gadd o | .gsub o | .gmul o | .gand o | .gor o | .gxor o | .gshl o => o.ok .dg .u .u .zero true
    | .gshr o _ | .gmin o _ | .gmax o _ => o.ok .dg .u .u .zero true
    | .gset o _ _ => o.ok .dg .u .u .zero true
    | .gmad o | .gsel o => o.ok .dg .u .u .u true
    | .gmov o => o.ok .dg .u .zero .zero false
    | .gmovi _ d _ => Posn.dg.ok d
    | .gld o => o.ok .dg .gbase .off .zero true
    | .gst o => o.ok .zero .gbase .off .u true
    | .grd o => o.ok .dg .grd .u .zero true
    | .dadd o _ _ | .dmul o _ _ | .dmin o _ _ | .dmax o _ _ => o.ok .dv64 .f64 .f64 .zero false
    | .dfma o _ _ => o.ok .dv64 .f64 .f64 .f64 false
    | .dset o _ _ => o.ok .dp .f64 .f64 .zero false
    | .ndot4 _ d a b c _ _ _ => Posn.dv.ok d && Posn.f32.ok a && Posn.f32.ok b && Posn.f32.ok c
    | .rcp o _ | .rsq o _ | .sqrt o _ | .exp2 o _ | .log2 o _ | .sin o _ | .cos o _ | .tanh o _ =>
      o.ok .dv .f32 .zero .zero false
    | .shfl o _ => o.ok .dv .s32 .s32 .s32 false
    | .vote _ d _ m => m.dst.ok d
    | .match_ o _ => o.ok .dv .s32 .zero .zero false
    | .reduce o _ => o.ok .dvg .s32 .zero .zero false
    | .scan o _ _ => o.ok .dv .s32 .zero .zero false
    | .hist o => o.ok .dv .s32 .s32 .s32 false
    | .merge o => o.ok .dv .s32 .s32 .zero false
    | .bar _ _ n | .arrive _ _ n => (Posn.ur 16).ok n
    | .ld o s _ => memOk o s.dst .zero
    | .st o s _ => memOk o .zero s.src
    | .atom o _ _ => memOk o .dv .s32
    | .acas o _ => memOk o .dv .s32
    | .rld o s => memOk o s.dst .zero
    | .rst o s => memOk o .zero s.src
    | .ratom o _ => memOk o .dv .s32
    | .old o s => memOk o s.dst .zero
    | .ost o s => memOk o .zero s.src
    | .rsv _ rid rec => (Posn.ur 15).ok rid && (Posn.ur 31).ok rec
    | .rls _ rid => (Posn.ur 15).ok rid
    | .mma _ tile ra rb vn _ => Posn.tile.ok tile && (Posn.ur 15).ok ra && (Posn.ur 15).ok rb && vn.val % 2 == 0
    | .tmov _ d tile _ => Posn.dv.ok d && Posn.tile.ok tile
    | .tset _ tile a _ => Posn.tile.ok tile && Posn.tset.ok a
    | .tzero _ tile => Posn.tile.ok tile
    | .drain _ tile sb rid _ => Posn.tile.ok tile && (Posn.ur 31).ok sb && (Posn.ur 15).ok rid
    | .dpld _ prog addr => (Posn.ur 31).ok prog && (Posn.ur 31).ok addr
    | .copy _ loc shape coord ctr e =>
      (Posn.ur (if e.lk then 15 else 31)).ok loc && (Posn.ur 31).ok shape && coord.val + e.cn.val ≤ 127 &&
        (Posn.ur 31).ok ctr
    | .waitc _ ctr target _ => (Posn.ur 31).ok ctr && Posn.u.ok target
    | .cntset _ ctr value => (Posn.ur 31).ok ctr && Posn.u.ok value
    | .fetch _ d => d.val % 4 == 0
    | .fatom _ od addr b ctr e =>
      (Posn.ur 31).ok od && addr.val % 2 == 0 && (if e.w64 then Posn.u64 else Posn.u).ok b && (Posn.ur 31).ok ctr &&
        (if e.op = .cas then (if e.w64 then Posn.u64 else Posn.u).ok e.cmp else e.cmp == .zero)
    | .sread _ d n => Posn.dsread.ok d && (match d with | .g _ => n != 0 && n != 9 && n != 10 | _ => true)
    | .swrite _ _ a => Posn.swr.ok a
    | .rett _ rec _ => (Posn.ur 31).ok rec && rec != .zero
    | .pairedWord x y => x.op.posOk x.o false && y.op.posOk y.o false
    | _ => true

/-- The guard of an instruction word; a step of the device has none. -/
def Instr.guard (i : Instr) : Guard :=
  match i.pop with
  | some (_, o) => o.g
  | none =>
    match i with
    | .nop g | .bra g _ | .brx g _ _ | .call g _ | .ret g | .loop g _ _ | .next g _ _ | .meet g _ | .exit g | .yield g
    | .elect g _ _ | .trap g _ | .bkpt g | .bbhint g _ | .time g _ | .cyc g _ | .movi g _ _ | .gmovi g _ _
    | .ndot4 g _ _ _ _ _ _ _ | .vote g _ _ _ | .bar g _ _ | .arrive g _ _ | .waitbar g _ | .fence g _ | .rsv g _ _
    | .rls g _ | .opfence g | .mma g _ _ _ _ _ | .mmaw g | .tmov g _ _ _ | .tset g _ _ _ | .tzero g _
    | .drain g _ _ _ _ | .drainw g | .dpld g _ _ | .copy g _ _ _ _ _ | .waitc g _ _ _ | .cntset g _ _ | .fetch g _
    | .fatom g _ _ _ _ _ | .sread g _ _ | .swrite g _ _ | .rett g _ _ => g
    | .pset o | .iadd64 o | .isub64 o | .imad64 o | .shl64 o | .shr64 o _ | .iset64 o _ _ | .gadd o | .gsub o | .gmul o
    | .gmad o | .gand o | .gor o | .gxor o | .gshl o | .gshr o _ | .gmin o _ | .gmax o _ | .gset o _ _ | .gsel o | .gmov o
    | .gld o | .gst o | .grd o | .dadd o _ _ | .dmul o _ _ | .dfma o _ _ | .dmin o _ _ | .dmax o _ _ | .dset o _ _
    | .rcp o _ | .rsq o _ | .sqrt o _ | .exp2 o _ | .log2 o _ | .sin o _ | .cos o _ | .tanh o _ | .shfl o _ | .match_ o _
    | .reduce o _ | .scan o _ _ | .hist o | .merge o | .ld o _ _ | .st o _ _ | .atom o _ _ | .acas o _ | .rld o _
    | .rst o _ | .ratom o _ | .old o _ | .ost o _ => o.g
    | _ => Guard.always

/-- A store's size: N8 and N16 raise ILLEGAL (R75). -/
def Size.storeOk : Size → Bool
  | .n8 | .n16 => false
  | _ => true

/-- The special-register numbers of R51: a kernel's, and the firmware agent's. Every other number is unassigned. -/
def sregAssigned (n : BitVec 11) : Bool := n.toNat ≤ 0x00B || (0x100 ≤ n.toNat && n.toNat ≤ 0x3FF)

/-- Check 7: field values (R62, R75, R77, R81, R136). -/
def Instr.valOk (i : Instr) : Bool :=
  i.guard.ok &&
  match i with
  | .loop _ _ b => 1 ≤ b.toNat && b.toNat ≤ 16777216
  | .waitc _ _ _ b => b != 0
  | .sread _ _ n | .swrite _ n _ => sregAssigned n
  | .cvtw _ d s sat z r => (POp.cvtw d s sat z r).valOk
  | .st _ s _ | .rst _ s | .ost _ s => s.storeOk
  | .fatom _ _ _ _ _ e => !(e.op == .fadd && e.w64)
  | .pairedWord x y => x.o.g.ok && y.o.g.ok && x.op.valOk && y.op.valOk
  | _ => true

/-- Check 8: the pairing rules (R83). -/
def Instr.pairsOk : Instr → Bool
  | .pairedWord x y => pairOk x y
  | _ => true

/-- A row of the table that has a word of its own: an instruction or the paired word, not a step of the device. -/
def Instr.isWord : Instr → Bool
  | .resultWriteback .. | .teamStart .. | .teamStep .. | .teamRetire .. | .barrierWaveRelease .. | .barrierDeadlock ..
  | .waitcSatisfied .. | .waitcTimeout .. | .cntsetWrite .. | .fenceComplete .. | .remoteAccessEntry ..
  | .remoteResultReady .. | .rsvEntryUsable .. | .mmaGatherDone .. | .mmaCaptureStart .. | .mmaCaptureEnd ..
  | .mmaRetire .. | .mmawComplete .. | .tmovRead .. | .tsetWrite .. | .drainHalfStart .. | .drainRowCommit ..
  | .drainwComplete .. | .dpldSlotWrite .. | .stagingElement .. | .stagingComplete .. | .writebackElement ..
  | .writebackComplete .. | .copyElement .. | .copyComplete .. | .pageWalkComplete .. | .commandLogCheck ..
  | .commandLogEntryRetry .. | .migrationToTier .. | .migrationBack .. | .migrationComplete .. | .writeArrive ..
  | .writeApply .. | .fatomHomePerform .. | .fatomOldValueReturn .. | .doorbellSignalStore .. | .queueSlotMapDeferred ..
  | .queueIdleTimeout .. | .quote .. | .accept .. | .decline .. | .launch .. | .mark .. | .markPost .. | .badcmd ..
  | .gridStart .. | .completionRecord .. | .eventRecordDeferred .. | .eventInterruptCount .. | .eventInterruptTimer ..
  | .timeSliceEnd .. | .forcedSaveStart .. | .forcedSaveComplete .. | .forcedSaveTimeout .. | .contextRestore ..
  | .teamMigrate .. | .trapRecordClaim .. | .agentTicketDraw .. | .workEntryTimeout .. | .viCtxctlStop ..
  | .viCtxctlResume .. | .viCtxctlReset .. | .viQtableWrite .. | .viRootWrite .. | .viViolClear .. | .hostWrite ..
  | .hostRead .. | .secKeydataWrite .. | .viFlr .. | .attestRequest .. | .attestReport | .dbgchalRead
  | .debugUnlockRequest .. | .debugUnlockDone | .recoveryVerify | .recoveryVerifyDone | .recoveryRun | .recoveryCommit
  | .recoveryCommitDone | .recoveryRaise | .deviceReset | .powerLoss | .predictionStart .. | .predictionRevalidate ..
  | .predictionClaim .. | .predictionHoldExpiry .. | .flyCtlWrite .. | .flyCtlApply | .flitSend .. | .flitDataReceive ..
  | .flitAckReceive .. | .flitReplayRequestReceive .. | .laneRepair .. | .laneRepairDone .. | .portRetrainDone ..
  | .laneShed .. | .laneRegain .. | .peerUnreachableTimeout .. | .clDvfsWrite .. | .clSlopeWrite .. | .drpThreshWrite ..
  | .governorSample .. | .voltageSlewDone .. | .frequencySwitchDone .. | .droopAlarm .. | .droopWindowEnd ..
  | .currentSample .. | .sensorSample .. | .throttleStopEnd .. | .throttleHoldEnd .. | .diePowerOff ..
  | .hbmTempSample .. | .powerControlSample .. | .scrubErrorFound .. | .hbmEcntGather .. | .triggerArm ..
  | .triggerOpen .. | .triggerClose .. | .dbgStopTickWrite .. | .deviceClockStop | .registerWrite .. | .hostCompletion ..
  | .laneControlFlitReceive .. => false
  | _ => true

/-- A well-formed instruction: one whose word passes checks 5 to 8 of R85. -/
def Instr.wf (i : Instr) : Bool := i.isWord && i.mbzOk && i.posOk && i.valOk && i.pairsOk

end Sys2Proof
end

