-- ==== Sys2Proof/Decode.lean ====
section
/-! DEFINITION. Decoding and encoding of instruction words (04): the layouts of R62 to R65, the specifier codes of R66, the
opcode map of R69, the modifier fields of R71 to R76, the extensions of R78 to R81, and the checks 3 to 8 of R85. -/
namespace Sys2Proof

/-- Bits [lo+n-1:lo] of a number (R1). -/
def bitsAt (w lo n : Nat) : Nat := w / 2 ^ lo % 2 ^ n

/-- Whether bit `i` of a number is set. -/
def bitAt (w i : Nat) : Bool := w / 2 ^ i % 2 == 1

/-- A bit as a number. -/
def bitNat (b : Bool) : Nat := if b then 1 else 0

/-! ## Specifier codes (R66) -/

/-- The specifier of an 11-bit code; none for the codes that raise ILLEGAL. -/
def specOf (c : Nat) : Option Spec :=
  if h : c < 0x600 then some (.v ⟨c, by omega⟩)
  else if h : c < 0x620 then some (.o ⟨c - 0x600, by omega⟩)
  else if h : c < 0x624 then some (.y ⟨c - 0x620, by omega⟩)
  else if c < 0x680 then none
  else if h : c < 0x700 then some (.g ⟨c - 0x680, by omega⟩)
  else if h : c < 0x708 then some (.p ⟨c - 0x700, by omega⟩)
  else if h : c < 0x710 then some (.c ⟨c - 0x708, by omega⟩)
  else if h : c < 0x718 then some (.t ⟨c - 0x710, by omega⟩)
  else if c < 0x780 then none
  else if c < 0x7C0 then some (.imm (BitVec.ofNat 6 (c - 0x780)))
  else if c = 0x7FF then some .zero
  else none

/-- The 11-bit code of a specifier. -/
def specCode : Spec → Nat
  | .v n => n.val
  | .o n => 0x600 + n.val
  | .y n => 0x620 + n.val
  | .g n => 0x680 + n.val
  | .p n => 0x700 + n.val
  | .c n => 0x708 + n.val
  | .t n => 0x710 + n.val
  | .imm i => 0x780 + i.toNat
  | .zero => 0x7FF

/-- The guard of the four PRED bits (R62). -/
def guardOf (n : Nat) : Guard := ⟨bitAt n 3, Fin.ofNat 8 n⟩

/-- The four PRED bits of a guard. -/
def guardCode (g : Guard) : Nat := 8 * bitNat g.neg + g.p.val

/-! ## Modifier codes (R72 to R76) -/

def cmpOf : Nat → Option Cmp
  | 0 => some .eq | 1 => some .ne | 2 => some .lt | 3 => some .le | 4 => some .gt | 5 => some .ge | _ => none

def cmpCode : Cmp → Nat
  | .eq => 0 | .ne => 1 | .lt => 2 | .le => 3 | .gt => 4 | .ge => 5

def fcmpOf : Nat → FCmp
  | 0 => .eq | 1 => .ne | 2 => .lt | 3 => .le | 4 => .gt | 5 => .ge | 6 => .num | _ => .nan

def fcmpCode : FCmp → Nat
  | .eq => 0 | .ne => 1 | .lt => 2 | .le => 3 | .gt => 4 | .ge => 5 | .num => 6 | .nan => 7

def rndOf : Nat → Rnd
  | 0 => .rn | 1 => .rz | 2 => .rd | _ => .ru

def rndCode : Rnd → Nat
  | .rn => 0 | .rz => 1 | .rd => 2 | .ru => 3

def eszOf : Nat → Option Esz
  | 0 => some .w4 | 1 => some .w8 | 2 => some .w16 | _ => none

def eszCode : Esz → Nat
  | .w4 => 0 | .w8 => 1 | .w16 => 2

def tyOf : Nat → Option Ty
  | 0 => some .i8 | 1 => some .i16 | 2 => some .i32 | 3 => some .n8 | 4 => some .n16 | 5 => some .n32 | 6 => some .f16
  | 7 => some .bf16 | 8 => some .f32 | 9 => some .f64 | _ => none

def tyCode : Ty → Nat
  | .i8 => 0 | .i16 => 1 | .i32 => 2 | .n8 => 3 | .n16 => 4 | .n32 => 5 | .f16 => 6 | .bf16 => 7 | .f32 => 8 | .f64 => 9

def ropOf : Nat → Option Rop
  | 0 => some .iadd | 1 => some .imin | 2 => some .imax | 3 => some .nmin | 4 => some .nmax | 5 => some .and
  | 6 => some .or | 7 => some .xor | 8 => some .fadd | 9 => some .fmin | 10 => some .fmax | _ => none

def ropCode : Rop → Nat
  | .iadd => 0 | .imin => 1 | .imax => 2 | .nmin => 3 | .nmax => 4 | .and => 5 | .or => 6 | .xor => 7 | .fadd => 8
  | .fmin => 9 | .fmax => 10

def shflOf : Nat → ShflMode
  | 0 => .from | 1 => .shift | 2 => .rotate | _ => .xor

def shflCode : ShflMode → Nat
  | .from => 0 | .shift => 1 | .rotate => 2 | .xor => 3

/-- VOTE: FORM is bit 2 and MODE bits 1:0 (R190). -/
def voteOf : Nat → VoteMode
  | 0 => .some | 1 => .every | 2 => .agree | 3 => .major | 4 => .mask | 5 => .tally | 6 => .lead | _ => .rank

def voteCode : VoteMode → Nat
  | .some => 0 | .every => 1 | .agree => 2 | .major => 3 | .mask => 4 | .tally => 5 | .lead => 6 | .rank => 7

def matchOf : Nat → MatchMode
  | 0 => .peers | 1 => .leader | 2 => .rank | _ => .whole

def matchCode : MatchMode → Nat
  | .peers => 0 | .leader => 1 | .rank => 2 | .whole => 3

def sizeOf : Nat → Option Size
  | 0 => some .i8 | 1 => some .n8 | 2 => some .i16 | 3 => some .n16 | 4 => some .w32 | 5 => some .w64 | 6 => some .w128
  | _ => none

def sizeCode : Size → Nat
  | .i8 => 0 | .n8 => 1 | .i16 => 2 | .n16 => 3 | .w32 => 4 | .w64 => 5 | .w128 => 6

def aopOf : Nat → Aop
  | 0 => .add | 1 => .min | 2 => .max | 3 => .nmin | 4 => .nmax | 5 => .and | 6 => .or | _ => .exch

def aopCode : Aop → Nat
  | .add => 0 | .min => 1 | .max => 2 | .nmin => 3 | .nmax => 4 | .and => 5 | .or => 6 | .exch => 7

def cbOf : Nat → Cb
  | 0 => .c1 | 1 => .c2 | 2 => .c4 | _ => .c32

def cbCode : Cb → Nat
  | .c1 => 0 | .c2 => 1 | .c4 => 2 | .c32 => 3

def scopeOf : Nat → Option Scope
  | 0 => some .thread | 1 => some .group | 2 => some .team | 3 => some .cluster | 4 => some .die | 5 => some .dev
  | 6 => some .sys | _ => none

def scopeCode : Scope → Nat
  | .thread => 0 | .group => 1 | .team => 2 | .cluster => 3 | .die => 4 | .dev => 5 | .sys => 6

def gopOf : Nat → Option Gop
  | 0 => some .add | 1 => some .min | 2 => some .max | 3 => some .nmin | 4 => some .nmax | 5 => some .and | 6 => some .or
  | 7 => some .xor | 8 => some .exch | 9 => some .cas | 10 => some .fadd | _ => none

def gopCode : Gop → Nat
  | .add => 0 | .min => 1 | .max => 2 | .nmin => 3 | .nmax => 4 | .and => 5 | .or => 6 | .xor => 7 | .exch => 8
  | .cas => 9 | .fadd => 10

/-- COPY and FATOM take scope 101 or 110 (R80, R81); true for 110. -/
def sysOf : Nat → Option Bool
  | 5 => some false | 6 => some true | _ => none

def sysCode (b : Bool) : Nat := if b then 6 else 5

def rettOf : Nat → Option RettAct
  | 0x780 => some .replay | 0x781 => some .skip | 0x782 => some .end_ | _ => none

def rettCode : RettAct → Nat
  | .replay => 0x780 | .skip => 0x781 | .end_ => 0x782

/-! ## Words and fields -/

/-- The fields of a B64, B96 or B128 extended word (R62 to R64), as numbers. -/
structure Raw where
  len : Nat
  op : Nat
  pred : Nat
  d : Nat
  a : Nat
  b : Nat
  c : Nat
  m : Nat
  imm : Nat
  ext : Nat
  deriving DecidableEq, Repr

/-- The fields of a word. -/
def unpackWord (w : Nat) : Raw :=
  { len := bitsAt w 0 2, op := bitsAt w 2 9, pred := bitsAt w 11 4, d := bitsAt w 15 11, a := bitsAt w 26 11,
    b := bitsAt w 37 11, c := bitsAt w 48 11, m := bitsAt w 59 5,
    imm := if bitsAt w 0 2 = 1 then bitsAt w 64 32 else 0, ext := if bitsAt w 0 2 = 2 then bitsAt w 64 64 else 0 }

/-- The word of its fields. -/
def packWord (r : Raw) : Nat :=
  r.len + 2 ^ 2 * r.op + 2 ^ 11 * r.pred + 2 ^ 15 * r.d + 2 ^ 26 * r.a + 2 ^ 37 * r.b + 2 ^ 48 * r.c + 2 ^ 59 * r.m +
    2 ^ 64 * (if r.len = 1 then r.imm else if r.len = 2 then r.ext else 0)

/-- The code of a field an instruction does not use (R61). -/
def zc : Nat := 0x7FF

/-- The pairable operation of an index of R82, with its modifier bits and SC field (R72, R73). -/
def popOf (idx m sc : Nat) : Option POp :=
  let n := bitAt m 0
  let r := rndOf (m % 4)
  let z := bitAt m 2
  let h := bitAt m 3
  match idx with
  | 0 => some .iadd | 1 => some .isub | 2 => some (.iadds n) | 3 => some .imul | 4 => some (.imulh n) | 5 => some .imad
  | 6 => some (.imin n) | 7 => some (.imax n) | 8 => some .iabs | 9 => some (.idot4 n (bitAt m 1)) | 10 => some .and
  | 11 => some .or | 12 => some .xor | 13 => some .andn | 14 => some .not | 15 => some .shl | 16 => some .shr
  | 17 => some .sha | 18 => some .rot | 19 => some (.bfx n) | 20 => some .bfi | 21 => some .popc | 22 => some .clz
  | 23 => some .brev | 24 => (cmpOf (m / 2 % 8)).map (fun c => .iset c n) | 25 => some .sel | 26 => some .mov
  | 27 => some .lea | 28 => some (.fadd r z) | 29 => some (.fsub r z) | 30 => some (.fmul r z) | 31 => some (.ffma r z)
  | 32 => some (.fmin n z) | 33 => some (.fmax n z) | 34 => some (.fset (fcmpOf (m % 8)) h) | 35 => some .fclass
  | 36 => some (.frnd r z) | 37 => some (.fscale r z) | 38 => some (.hadd2 h r z) | 39 => some (.hmul2 h r z)
  | 40 => some (.hfma2 h r z) | 41 => some (.hmin2 h n z) | 42 => some (.hmax2 h n z) | 43 => some (.fdot2 h r z)
  | 44 => match tyOf (sc % 16), tyOf (sc / 16 % 16) with
    | some dst, some src => some (.cvt dst src h z r)
    | _, _ => none
  | 45 => some (.cvtn z h r)
  | 46 => match tyOf (sc % 16), tyOf (sc / 16 % 16) with
    | some dst, some src => some (.cvtw dst src h z r)
    | _, _ => none
  | 47 => (eszOf (m % 4)).map (fun e => .pack e h)
  | 48 => (eszOf (m % 4)).map .unpack
  | _ => none

/-- The index, the modifier bits and the SC type codes of a pairable operation. -/
def popCode : POp → Nat × Nat × Option Nat
  | .iadd => (0, 0, none) | .isub => (1, 0, none) | .iadds n => (2, bitNat n, none) | .imul => (3, 0, none)
  | .imulh n => (4, bitNat n, none) | .imad => (5, 0, none) | .imin n => (6, bitNat n, none)
  | .imax n => (7, bitNat n, none) | .iabs => (8, 0, none) | .idot4 na nb => (9, bitNat na + 2 * bitNat nb, none)
  | .and => (10, 0, none) | .or => (11, 0, none) | .xor => (12, 0, none) | .andn => (13, 0, none) | .not => (14, 0, none)
  | .shl => (15, 0, none) | .shr => (16, 0, none) | .sha => (17, 0, none) | .rot => (18, 0, none)
  | .bfx n => (19, bitNat n, none) | .bfi => (20, 0, none) | .popc => (21, 0, none) | .clz => (22, 0, none)
  | .brev => (23, 0, none) | .iset c n => (24, 2 * cmpCode c + bitNat n, none) | .sel => (25, 0, none)
  | .mov => (26, 0, none) | .lea => (27, 0, none)
  | .fadd r z => (28, rndCode r + 4 * bitNat z, none) | .fsub r z => (29, rndCode r + 4 * bitNat z, none)
  | .fmul r z => (30, rndCode r + 4 * bitNat z, none) | .ffma r z => (31, rndCode r + 4 * bitNat z, none)
  | .fmin p z => (32, bitNat p + 4 * bitNat z, none) | .fmax p z => (33, bitNat p + 4 * bitNat z, none)
  | .fset c z => (34, fcmpCode c + 8 * bitNat z, none) | .fclass => (35, 0, none)
  | .frnd r z => (36, rndCode r + 4 * bitNat z, none) | .fscale r z => (37, rndCode r + 4 * bitNat z, none)
  | .hadd2 b r z => (38, rndCode r + 4 * bitNat z + 8 * bitNat b, none)
  | .hmul2 b r z => (39, rndCode r + 4 * bitNat z + 8 * bitNat b, none)
  | .hfma2 b r z => (40, rndCode r + 4 * bitNat z + 8 * bitNat b, none)
  | .hmin2 b p z => (41, bitNat p + 4 * bitNat z + 8 * bitNat b, none)
  | .hmax2 b p z => (42, bitNat p + 4 * bitNat z + 8 * bitNat b, none)
  | .fdot2 b r z => (43, rndCode r + 4 * bitNat z + 8 * bitNat b, none)
  | .cvt d s sat z r => (44, rndCode r + 4 * bitNat z + 8 * bitNat sat, some (tyCode d + 16 * tyCode s))
  | .cvtn f sat r => (45, rndCode r + 4 * bitNat f + 8 * bitNat sat, none)
  | .cvtw d s sat z r => (46, rndCode r + 4 * bitNat z + 8 * bitNat sat, some (tyCode d + 16 * tyCode s))
  | .pack e sat => (47, eszCode e + 8 * bitNat sat, none)
  | .unpack e => (48, eszCode e, none)

/-- The modifier bits that a pairable operation uses (R72, R73); every other bit is MBZ. -/
def popMask (idx : Nat) : Nat :=
  match idx with
  | 2 | 4 | 6 | 7 | 19 => 1
  | 9 => 3
  | 24 => 15
  | 28 | 29 | 30 | 31 | 36 | 37 => 7
  | 32 | 33 => 5
  | 34 => 15
  | 38 | 39 | 40 | 43 => 15
  | 41 | 42 => 13
  | 44 | 45 | 46 => 15
  | 47 => 11
  | 48 => 3
  | _ => 0

/-- The opcode of an index of the pairable subset (R82). -/
def popOpcode (idx : Nat) : Nat :=
  if idx ≤ 26 then 0x040 + idx else if idx = 27 then 0x05D else if idx ≤ 37 then 0x0C0 + (idx - 28)
  else if idx ≤ 43 then 0x100 + (idx - 38) else 0x107 + (idx - 44)

/-- The index of an opcode in the pairable subset. -/
def popIndex (op : Nat) : Option Nat :=
  if 0x040 ≤ op ∧ op ≤ 0x05A then some (op - 0x040) else if op = 0x05D then some 27
  else if 0x0C0 ≤ op ∧ op ≤ 0x0C9 then some (28 + (op - 0x0C0))
  else if 0x100 ≤ op ∧ op ≤ 0x105 then some (38 + (op - 0x100))
  else if 0x107 ≤ op ∧ op ≤ 0x10B then some (44 + (op - 0x107)) else none

/-- A pairable operation standing alone in a B64 or B96 word. -/
def popInstr (p : POp) (o : Ops) : Instr :=
  match p with
  | .iadd => .iadd o | .isub => .isub o | .iadds n => .iadds o n | .imul => .imul o | .imulh n => .imulh o n
  | .imad => .imad o | .imin n => .imin o n | .imax n => .imax o n | .iabs => .iabs o | .idot4 na nb => .idot4 o na nb
  | .and => .and o | .or => .or o | .xor => .xor o | .andn => .andn o | .not => .not o | .shl => .shl o | .shr => .shr o
  | .sha => .sha o | .rot => .rot o | .bfx n => .bfx o n | .bfi => .bfi o | .popc => .popc o | .clz => .clz o
  | .brev => .brev o | .iset c n => .iset o c n | .sel => .sel o | .mov => .mov o | .lea => .lea o
  | .fadd r z => .fadd o r z | .fsub r z => .fsub o r z | .fmul r z => .fmul o r z | .ffma r z => .ffma o r z
  | .fmin p z => .fmin o p z | .fmax p z => .fmax o p z | .fset c z => .fset o c z | .fclass => .fclass o
  | .frnd r z => .frnd o r z | .fscale r z => .fscale o r z | .hadd2 b r z => .hadd2 o b r z
  | .hmul2 b r z => .hmul2 o b r z | .hfma2 b r z => .hfma2 o b r z | .hmin2 b p z => .hmin2 o b p z
  | .hmax2 b p z => .hmax2 o b p z | .fdot2 b r z => .fdot2 o b r z | .cvt d s sat z r => .cvt o d s sat z r
  | .cvtn f sat r => .cvtn o f sat r | .cvtw d s sat z r => .cvtw o d s sat z r | .pack e sat => .pack o e sat
  | .unpack e => .unpack o e

/-- The pairable operations that have a B96 form (R63, R69): those that read two or more value sources, and CVTN. -/
def popB96 (idx : Nat) : Bool :=
  match idx with
  | 8 | 14 | 21 | 22 | 23 | 26 | 35 | 36 | 44 | 46 | 47 | 48 => false
  | _ => true

/-- What the opcode map says of an opcode (R69): the lengths it has (0 B64, 1 B96, 2 B128), the modifier bits it uses (R71 to
R76), the extension bits it uses (R78 to R81), and which of DST, SA, SB, SC it uses other than as the zero code. -/
structure Shape where
  lens : List Nat
  mask : Nat
  ext : Nat
  d : Bool
  a : Bool
  b : Bool
  c : Bool
  deriving DecidableEq, Repr

/-- A word none of whose register fields is used. -/
def Shape.bare (lens : List Nat) : Shape := ⟨lens, 0, 0, false, false, false, false⟩

/-- A word all of whose register fields are judged by their positions. -/
def Shape.ops (lens : List Nat) (mask : Nat) : Shape := ⟨lens, mask, 0, true, true, true, true⟩

/-- The opcode map of R69; none for an opcode it does not list. -/
def shapeOf (op : Nat) : Option Shape :=
  match popIndex op with
  | some i => some (Shape.ops (if popB96 i then [0, 1] else [0]) (popMask i))
  | none =>
    match op with
    | 0x000 | 0x004 | 0x008 | 0x009 | 0x00C => some (.bare [0])
    | 0x001 | 0x003 | 0x007 => some (.bare [1])
    | 0x002 => some ⟨[0], 31, 0, false, true, false, false⟩
    | 0x005 | 0x006 => some ⟨[1], 0, 0, true, false, false, false⟩
    | 0x00A => some ⟨[0], 0, 0, true, true, false, false⟩
    | 0x00B | 0x00D => some ⟨[0], 0, 0, false, true, false, false⟩
    | 0x00E | 0x00F => some ⟨[0], 0, 0, true, false, false, false⟩
    | 0x05B | 0x08E => some ⟨[1], 0, 0, true, false, false, false⟩
    | 0x05C | 0x05E | 0x05F | 0x060 | 0x061 => some (.ops [0] 0)
    | 0x062 => some (.ops [0] 1)
    | 0x063 => some (.ops [0] 15)
    | 0x080 | 0x081 | 0x082 | 0x083 | 0x084 | 0x085 | 0x086 | 0x087 | 0x08C => some (.ops [0, 1] 0)
    | 0x088 | 0x089 | 0x08A => some (.ops [0, 1] 1)
    | 0x08B => some (.ops [0, 1] 15)
    | 0x08D => some (.ops [0] 0)
    | 0x08F | 0x090 | 0x091 => some (.ops [0, 1] 0)
    | 0x0CA | 0x0CB | 0x0CC => some (.ops [0] 7)
    | 0x0CD | 0x0CE => some (.ops [0] 5)
    | 0x0CF => some (.ops [0] 15)
    | 0x106 => some (.ops [1] 7)
    | 0x120 | 0x121 | 0x122 | 0x123 | 0x124 | 0x125 | 0x126 | 0x127 => some (.ops [0] 4)
    | 0x140 | 0x142 => some (.ops [0] 3)
    | 0x141 => some ⟨[0], 7, 0, true, true, false, false⟩
    | 0x143 => some (.ops [0] 15)
    | 0x144 => some (.ops [0] 31)
    | 0x145 | 0x146 => some (.ops [0] 0)
    | 0x147 | 0x148 => some ⟨[0], 15, 0, false, true, false, false⟩
    | 0x149 => some ⟨[0], 15, 0, false, false, false, false⟩
    | 0x160 | 0x161 | 0x162 => some (.ops [0, 1] 31)
    | 0x163 => some (.ops [0, 1] 3)
    | 0x164 | 0x165 | 0x166 | 0x167 | 0x168 => some (.ops [0, 1] 28)
    | 0x169 => some ⟨[0], 7, 0, false, false, false, false⟩
    | 0x180 => some ⟨[0], 0, 0, false, true, true, false⟩
    | 0x181 => some ⟨[0], 0, 0, false, true, false, false⟩
    | 0x182 | 0x184 | 0x189 => some (.bare [0])
    | 0x183 => some ⟨[2], 0, 0x0000FFFFFFFFFF7F, true, true, true, true⟩
    | 0x185 | 0x186 => some ⟨[0], 31, 0, true, true, false, false⟩
    | 0x187 => some ⟨[0], 0, 0, true, false, false, false⟩
    | 0x188 => some ⟨[2], 0, 0xFFFFFFF7F, false, true, true, true⟩
    | 0x18A => some ⟨[0], 0, 0, false, true, true, false⟩
    | 0x1A0 => some ⟨[2], 0, 0xFFFF07F, true, true, true, true⟩
    | 0x1A1 => some ⟨[1], 0, 0, false, true, true, false⟩
    | 0x1A2 => some ⟨[0], 0, 0, false, true, true, false⟩
    | 0x1A3 => some ⟨[0], 0, 0, true, false, false, false⟩
    | 0x1A4 => some ⟨[2], 0, 0x7FFFF, true, true, true, true⟩
    | 0x1C0 => some ⟨[0], 0, 0, true, true, false, false⟩
    | 0x1C1 => some ⟨[0], 0, 0, false, true, true, false⟩
    | 0x1C2 => some ⟨[0], 0, 0, false, true, true, false⟩
    | _ => none

/-- The register fields of a word, with IMM32 in place of SB in a B96 word (R63). -/
def rawOps (r : Raw) (d a b c : Spec) : Ops :=
  { g := guardOf r.pred, d := d, a := .sp a, b := if r.len = 1 then .imm32 (BitVec.ofNat 32 r.imm) else .sp b, c := c }

/-- The instruction of a word other than a pairable operation's, from its decoded specifiers; none where a modifier, a field
value or a field's kind has no meaning. -/
def buildOther (r : Raw) (d a b c : Spec) : Option Instr :=
  let g := guardOf r.pred
  let o := rawOps r d a b c
  let n := bitAt r.m 0
  let rnd := rndOf (r.m % 4)
  let z := bitAt r.m 2
  let imm : Word := BitVec.ofNat 32 r.imm
  let row : BitVec 5 := BitVec.ofNat 5 r.m
  let bar : Fin 16 := Fin.ofNat 16 r.m
  match r.op with
  | 0x000 => some (.nop g) | 0x001 => some (.bra g imm) | 0x002 => some (.brx g row a)
  | 0x003 => some (.call g imm) | 0x004 => some (.ret g)
  | 0x005 => match d with | .c k => some (.loop g k imm) | _ => none
  | 0x006 => match d with | .c k => some (.next g k imm) | _ => none
  | 0x007 => some (.meet g imm) | 0x008 => some (.exit g) | 0x009 => some (.yield g) | 0x00A => some (.elect g d a)
  | 0x00B => some (.trap g a) | 0x00C => some (.bkpt g) | 0x00D => some (.bbhint g a) | 0x00E => some (.time g d)
  | 0x00F => some (.cyc g d)
  | 0x05B => some (.movi g d imm) | 0x05C => some (.pset o) | 0x05E => some (.iadd64 o) | 0x05F => some (.isub64 o)
  | 0x060 => some (.imad64 o) | 0x061 => some (.shl64 o) | 0x062 => some (.shr64 o n)
  | 0x063 => (cmpOf (r.m / 2 % 8)).map (fun k => .iset64 o k n)
  | 0x080 => some (.gadd o) | 0x081 => some (.gsub o) | 0x082 => some (.gmul o) | 0x083 => some (.gmad o)
  | 0x084 => some (.gand o) | 0x085 => some (.gor o) | 0x086 => some (.gxor o) | 0x087 => some (.gshl o)
  | 0x088 => some (.gshr o n) | 0x089 => some (.gmin o n) | 0x08A => some (.gmax o n)
  | 0x08B => (cmpOf (r.m / 2 % 8)).map (fun k => .gset o k n)
  | 0x08C => some (.gsel o) | 0x08D => some (.gmov o) | 0x08E => some (.gmovi g d imm) | 0x08F => some (.gld o)
  | 0x090 => some (.gst o) | 0x091 => some (.grd o)
  | 0x0CA => some (.dadd o rnd z) | 0x0CB => some (.dmul o rnd z) | 0x0CC => some (.dfma o rnd z)
  | 0x0CD => some (.dmin o n z) | 0x0CE => some (.dmax o n z) | 0x0CF => some (.dset o (fcmpOf (r.m % 8)) (bitAt r.m 3))
  | 0x106 => some (.ndot4 g d a b c imm rnd z)
  | 0x120 => some (.rcp o z) | 0x121 => some (.rsq o z) | 0x122 => some (.sqrt o z) | 0x123 => some (.exp2 o z)
  | 0x124 => some (.log2 o z) | 0x125 => some (.sin o z) | 0x126 => some (.cos o z) | 0x127 => some (.tanh o z)
  | 0x140 => some (.shfl o (shflOf (r.m % 4)))
  | 0x141 => match a with | .p k => some (.vote g d k (voteOf (r.m % 8))) | _ => none
  | 0x142 => some (.match_ o (matchOf (r.m % 4)))
  | 0x143 => (ropOf (r.m % 16)).map (fun k => .reduce o k)
  | 0x144 => (ropOf (r.m % 16)).map (fun k => .scan o k (bitAt r.m 4))
  | 0x145 => some (.hist o) | 0x146 => some (.merge o) | 0x147 => some (.bar g bar a) | 0x148 => some (.arrive g bar a)
  | 0x149 => some (.waitbar g bar)
  | 0x160 => (sizeOf (r.m / 4)).map (fun k => .ld o k (cbOf (r.m % 4)))
  | 0x161 => (sizeOf (r.m / 4)).map (fun k => .st o k (cbOf (r.m % 4)))
  | 0x162 => some (.atom o (aopOf (r.m / 4)) (cbOf (r.m % 4))) | 0x163 => some (.acas o (cbOf (r.m % 4)))
  | 0x164 => (sizeOf (r.m / 4)).map (fun k => .rld o k) | 0x165 => (sizeOf (r.m / 4)).map (fun k => .rst o k)
  | 0x166 => some (.ratom o (aopOf (r.m / 4))) | 0x167 => (sizeOf (r.m / 4)).map (fun k => .old o k)
  | 0x168 => (sizeOf (r.m / 4)).map (fun k => .ost o k) | 0x169 => (scopeOf (r.m % 8)).map (fun k => .fence g k)
  | 0x180 => some (.rsv g a b) | 0x181 => some (.rls g a) | 0x182 => some (.opfence g)
  | 0x183 => match c with
    | .v k =>
      let e : Option (Fin 32) → MmaExt := fun p =>
        { bcol := BitVec.ofNat 8 (r.ext / 2 ^ 40), bk := BitVec.ofNat 16 (r.ext / 2 ^ 24),
          ak := BitVec.ofNat 16 (r.ext / 2 ^ 8), new := bitAt r.ext 6, dprog := p }
      if r.ext % 64 = 63 then some (.mma g d a b k (e none))
      else if h : r.ext % 64 < 32 then some (.mma g d a b k (e (some ⟨r.ext % 64, h⟩))) else none
    | _ => none
  | 0x184 => some (.mmaw g) | 0x185 => some (.tmov g d a row) | 0x186 => some (.tset g d a row) | 0x187 => some (.tzero g d)
  | 0x188 =>
    if h : r.ext % 64 < 32 then
      some (.drain g a b c { cpitch := BitVec.ofNat 8 (r.ext / 2 ^ 28), rpitch := BitVec.ofNat 20 (r.ext / 2 ^ 8),
                             keep := bitAt r.ext 6, dprog := ⟨r.ext % 64, h⟩ })
    else none
  | 0x189 => some (.drainw g) | 0x18A => some (.dpld g a b)
  | 0x1A0 => match b with
    | .g k => match sysOf (r.ext / 16 % 8) with
      | some sys =>
        if h : r.ext / 4 % 4 < 3 then
          some (.copy g d a k c { off16 := BitVec.ofNat 16 (r.ext / 2 ^ 12), sys := sys, cn := ⟨r.ext / 4 % 4, h⟩,
                                  lk := bitAt r.ext 1, store := bitAt r.ext 0 })
        else none
      | none => none
    | _ => none
  | 0x1A1 => some (.waitc g a b imm) | 0x1A2 => some (.cntset g a b)
  | 0x1A3 => match d with | .g k => some (.fetch g k) | _ => none
  | 0x1A4 => match a with
    | .g k => match gopOf (r.ext % 16), sysOf (r.ext / 32 % 8), specOf (r.ext / 256 % 2048) with
      | some gop, some sys, some cmp => some (.fatom g d k b c { cmp := cmp, sys := sys, w64 := bitAt r.ext 4, op := gop })
      | _, _, _ => none
    | _ => none
  | 0x1C0 => some (.sread g d (BitVec.ofNat 11 r.a)) | 0x1C1 => some (.swrite g (BitVec.ofNat 11 r.a) b)
  | 0x1C2 => (rettOf r.b).map (fun k => .rett g a k)
  | _ => none

/-- The instruction of a word from its decoded specifiers. -/
def build (r : Raw) (d a b c : Spec) : Option Instr :=
  match popIndex r.op with
  | some i =>
    match popOf i r.m r.c with
    | some p => some (popInstr p (rawOps r d a b c))
    | none => none
  | none => buildOther r d a b c

/-- Whether SA (for SREAD and SWRITE) or SC (for CVT and CVTW) is a number and no specifier (R52, R73). -/
def rawA (op : Nat) : Bool := op == 0x1C0 || op == 0x1C1

def rawC (op : Nat) : Bool := op == 0x107 || op == 0x109

/-- The four specifiers of a word; none where a code raises ILLEGAL (R66). A field that is no specifier counts as zero. -/
def specsOf (r : Raw) : Option (Spec × Spec × Spec × Spec) :=
  match specOf r.d, specOf (if rawA r.op then zc else r.a), specOf r.b, specOf (if rawC r.op then zc else r.c) with
  | some d, some a, some b, some c => some (d, a, b, c)
  | _, _, _, _ => none

/-- Fields that the opcode does not use hold the zero code (R61), and SB does where IMM32 replaces it (R63). -/
def unusedOk (s : Shape) (r : Raw) : Bool :=
  (s.d || r.d == zc) && (s.a || r.a == zc) && (s.b || r.b == zc) && (s.c || r.c == zc) &&
    (!(r.len == 1 && s.b && s.lens == [0, 1]) || r.b == zc)

/-- Check 5 on the bits of a word (R61, R71 to R81). -/
def mbzWord (s : Shape) (r : Raw) : Bool :=
  r.m &&& s.mask == r.m && r.ext &&& s.ext == r.ext && (!(rawC r.op) || r.c < 256) &&
    (match r.op with
      | 0x001 | 0x003 | 0x006 | 0x007 => r.imm % 4 == 0 && r.imm < 2 ^ 24
      | 0x1A0 => bitAt r.ext 1 || r.ext / 2 ^ 12 % 2 ^ 16 == 0
      | _ => true)

/-- The type codes of a conversion, with a legal type in place of an illegal one (R73). -/
def legalTypes (op c : Nat) : Nat :=
  (if (tyOf (c % 16)).isSome then c % 16 else if op = 0x109 then 1 else 0) +
    16 * (if (tyOf (c / 16 % 16)).isSome then c / 16 % 16 else 2)

/-- The extension of COPY and FATOM with a legal value in place of each illegal one; CMP of FATOM is a specifier and stays (R80, R81). -/
def legalExt (op x : Nat) : Nat :=
  if op = 0x1A0 then x % 4 + 4 * (if x / 4 % 4 = 3 then 0 else x / 4 % 4) + 16 * 5
  else if op = 0x1A4 then (if (gopOf (x % 16)).isSome then x % 16 else 0) + 16 * (x / 16 % 2) + 32 * 5 + 256 * (x / 256 % 2048)
  else 0

/-- The fields with every modifier, type and extension field that has no meaning at a legal value: by these the specifiers and positions of
check 6 are judged, which comes before the field values of check 7 (R85). -/
def Raw.plain (r : Raw) : Raw :=
  { r with m := 0, c := if rawC r.op then legalTypes r.op r.c else r.c, ext := legalExt r.op r.ext }

/-- Where a word stands: its offset, and the number of the kernel's target tables (R71, R77). -/
structure Place where
  off : Nat
  ntab : Nat
  deriving DecidableEq, Repr

/-- The field values that depend on where the word stands: NEXT's target below its own offset, BRX's table (R71, R77). -/
def placeOk (p : Place) : Instr → Bool
  | .next _ _ t => t.toNat < p.off
  | .brx _ tab _ => tab.toNat < p.ntab
  | _ => true

/-- Checks 6 to 8 of an instruction that was built. -/
def judge (p : Place) (i : Instr) : Except Nat Instr :=
  if !i.posOk then .error 6 else if !(i.valOk && placeOk p i) then .error 7 else if !i.pairsOk then .error 8 else .ok i

/-- Checks 3 to 7 of a B64, B96 or B128 extended word (R85). The error is the detail. SIZE 111, a store of a sign-extending size, ESZ 11, a BRX table
number at or above the count and an unassigned special-register number are field values of check 7 (DESIGN CHOICE, log entry 117). -/
def decodeRaw (p : Place) (r : Raw) : Except Nat Instr :=
  match shapeOf r.op with
  | none => .error 3
  | some s =>
    if !s.lens.contains r.len then .error 4
    else if !mbzWord s r then .error 5
    else
      match build r .zero .zero .zero .zero with
      | some i => if !i.mbzOk then .error 5 else tail s
      | none => tail s
where
  tail (s : Shape) : Except Nat Instr :=
    if !unusedOk s r then .error 6
    else
      match specsOf r with
      | none => .error 6
      | some (d, a, b, c) =>
        match build r d a b c with
        | some i => if !i.mbzOk then .error 5 else judge p i
        | none =>
          match build r.plain d a b c with
          | some i => if !i.posOk then .error 6 else .error 7
          | none => .error 6

/-! ## The paired word (R65, R82, R83) -/

/-- The 58 bits of a slot, as the fields of the B64 form of its operation. -/
def slotRaw (s : Nat) : Raw :=
  { len := 0, op := popOpcode (s % 64), pred := bitsAt s 6 4, d := bitsAt s 10 11, a := bitsAt s 21 11, b := bitsAt s 32 11,
    c := bitsAt s 43 11, m := bitsAt s 54 4, imm := 0, ext := 0 }

/-- The 58 bits of a slot from its fields and its index. -/
def packSlot (idx : Nat) (r : Raw) : Nat :=
  idx + 2 ^ 6 * r.pred + 2 ^ 10 * r.d + 2 ^ 21 * r.a + 2 ^ 32 * r.b + 2 ^ 43 * r.c + 2 ^ 54 * r.m

/-- A slot under checks 5 to 7: its operation and fields, or the check it fails. -/
def decodeSlot (s : Nat) : Except Nat PairSlot :=
  let r := slotRaw s
  if 49 ≤ s % 64 then .error 7
  else if !(r.m &&& popMask (s % 64) == r.m && (!(rawC r.op) || r.c < 256)) then .error 5
  else
    match popOf (s % 64) r.m r.c with
    | some p =>
      if !p.mbzOk then .error 5
      else
        match specsOf r with
        | none => .error 6
        | some (d, a, b, c) =>
          if !p.posOk (rawOps r d a b c) false then .error 6
          else if !((guardOf r.pred).ok && p.valOk) then .error 7
          else .ok ⟨p, rawOps r d a b c⟩
    | none =>
      match specsOf r, popOf (s % 64) 0 r.plain.c with
      | some (d, a, b, c), some p => if !p.posOk (rawOps r d a b c) false then .error 6 else .error 7
      | _, _ => .error 6

/-- A paired word: the lower of the two slots' failed checks, then the pairing rules (R85). -/
def decodePair (w : Nat) : Except Nat Instr :=
  if bitAt w 127 then .error 4
  else
    match decodeSlot (bitsAt w 11 58), decodeSlot (bitsAt w 69 58) with
    | .ok x, .ok y => if pairOk x y then .ok (.pairedWord x y) else .error 8
    | .error m, .ok _ => .error m
    | .ok _, .error n => .error n
    | .error m, .error n => .error (min m n)

/-- The bytes of a word by its length bits (R58); 4 for a pad parcel. -/
def wordBytes (w : Nat) : Nat :=
  match w % 4 with
  | 0 => 8 | 1 => 12 | 2 => 16 | _ => 4

/-- Decodes the word in the low bits of `w` (R85, checks 3 to 8). Bits above the word's length are not read. -/
def decodeWord (p : Place) (w : Nat) : Except Nat Instr :=
  if w % 4 = 3 then .error 1
  else if bitsAt w 2 9 = 0x1F0 then (if w % 4 = 2 then decodePair w else .error 4)
  else decodeRaw p (unpackWord w)

/-! ## The encoder -/

/-- The fields of a word whose register fields are all in use. -/
def opsRaw (op m : Nat) (o : Ops) : Raw :=
  { len := match o.b with | .imm32 _ => 1 | _ => 0, op := op, pred := guardCode o.g, d := specCode o.d,
    a := specCode o.a.spec, b := specCode o.b.spec, c := specCode o.c, m := m,
    imm := match o.b with | .imm32 i => i.toNat | _ => 0, ext := 0 }

/-- The fields of a word with few fields in use. -/
def bareRaw (len op : Nat) (g : Guard) (d a b c : Nat) (m imm ext : Nat) : Raw :=
  { len := len, op := op, pred := guardCode g, d := d, a := a, b := b, c := c, m := m, imm := imm, ext := ext }

/-- The fields of a pairable operation's word; SC holds the type codes of a conversion (R73). -/
def popRaw (p : POp) (o : Ops) : Raw :=
  let r := opsRaw (popOpcode (popCode p).1) (popCode p).2.1 o
  match (popCode p).2.2 with
  | some sc => { r with c := sc }
  | none => r

/-- The fields of an instruction's word. -/
def rawOf (i : Instr) : Raw :=
  match i.pop with
  | some (p, o) => popRaw p o
  | none =>
    match i with
    | .nop g => bareRaw 0 0x000 g zc zc zc zc 0 0 0
    | .bra g t => bareRaw 1 0x001 g zc zc zc zc 0 t.toNat 0
    | .brx g tab a => bareRaw 0 0x002 g zc (specCode a) zc zc tab.toNat 0 0
    | .call g t => bareRaw 1 0x003 g zc zc zc zc 0 t.toNat 0
    | .ret g => bareRaw 0 0x004 g zc zc zc zc 0 0 0
    | .loop g c b => bareRaw 1 0x005 g (0x708 + c.val) zc zc zc 0 b.toNat 0
    | .next g c t => bareRaw 1 0x006 g (0x708 + c.val) zc zc zc 0 t.toNat 0
    | .meet g t => bareRaw 1 0x007 g zc zc zc zc 0 t.toNat 0
    | .exit g => bareRaw 0 0x008 g zc zc zc zc 0 0 0
    | .yield g => bareRaw 0 0x009 g zc zc zc zc 0 0 0
    | .elect g d a => bareRaw 0 0x00A g (specCode d) (specCode a) zc zc 0 0 0
    | .trap g a => bareRaw 0 0x00B g zc (specCode a) zc zc 0 0 0
    | .bkpt g => bareRaw 0 0x00C g zc zc zc zc 0 0 0
    | .bbhint g a => bareRaw 0 0x00D g zc (specCode a) zc zc 0 0 0
    | .time g d => bareRaw 0 0x00E g (specCode d) zc zc zc 0 0 0
    | .cyc g d => bareRaw 0 0x00F g (specCode d) zc zc zc 0 0 0
    | .movi g d v => bareRaw 1 0x05B g (specCode d) zc zc zc 0 v.toNat 0
    | .pset o => opsRaw 0x05C 0 o
    | .iadd64 o => opsRaw 0x05E 0 o | .isub64 o => opsRaw 0x05F 0 o | .imad64 o => opsRaw 0x060 0 o
    | .shl64 o => opsRaw 0x061 0 o | .shr64 o n => opsRaw 0x062 (bitNat n) o
    | .iset64 o c n => opsRaw 0x063 (2 * cmpCode c + bitNat n) o
    | .gadd o => opsRaw 0x080 0 o | .gsub o => opsRaw 0x081 0 o | .gmul o => opsRaw 0x082 0 o | .gmad o => opsRaw 0x083 0 o
    | .gand o => opsRaw 0x084 0 o | .gor o => opsRaw 0x085 0 o | .gxor o => opsRaw 0x086 0 o | .gshl o => opsRaw 0x087 0 o
    | .gshr o n => opsRaw 0x088 (bitNat n) o | .gmin o n => opsRaw 0x089 (bitNat n) o
    | .gmax o n => opsRaw 0x08A (bitNat n) o | .gset o c n => opsRaw 0x08B (2 * cmpCode c + bitNat n) o
    | .gsel o => opsRaw 0x08C 0 o | .gmov o => opsRaw 0x08D 0 o
    | .gmovi g d v => bareRaw 1 0x08E g (specCode d) zc zc zc 0 v.toNat 0
    | .gld o => opsRaw 0x08F 0 o | .gst o => opsRaw 0x090 0 o | .grd o => opsRaw 0x091 0 o
    | .dadd o r z => opsRaw 0x0CA (rndCode r + 4 * bitNat z) o | .dmul o r z => opsRaw 0x0CB (rndCode r + 4 * bitNat z) o
    | .dfma o r z => opsRaw 0x0CC (rndCode r + 4 * bitNat z) o | .dmin o p z => opsRaw 0x0CD (bitNat p + 4 * bitNat z) o
    | .dmax o p z => opsRaw 0x0CE (bitNat p + 4 * bitNat z) o | .dset o c z => opsRaw 0x0CF (fcmpCode c + 8 * bitNat z) o
    | .ndot4 g d a b c fmt r z =>
      bareRaw 1 0x106 g (specCode d) (specCode a) (specCode b) (specCode c) (rndCode r + 4 * bitNat z) fmt.toNat 0
    | .rcp o z => opsRaw 0x120 (4 * bitNat z) o | .rsq o z => opsRaw 0x121 (4 * bitNat z) o
    | .sqrt o z => opsRaw 0x122 (4 * bitNat z) o | .exp2 o z => opsRaw 0x123 (4 * bitNat z) o
    | .log2 o z => opsRaw 0x124 (4 * bitNat z) o | .sin o z => opsRaw 0x125 (4 * bitNat z) o
    | .cos o z => opsRaw 0x126 (4 * bitNat z) o | .tanh o z => opsRaw 0x127 (4 * bitNat z) o
    | .shfl o m => opsRaw 0x140 (shflCode m) o
    | .vote g d p m => bareRaw 0 0x141 g (specCode d) (0x700 + p.val) zc zc (voteCode m) 0 0
    | .match_ o m => opsRaw 0x142 (matchCode m) o
    | .reduce o k => opsRaw 0x143 (ropCode k) o | .scan o k x => opsRaw 0x144 (ropCode k + 16 * bitNat x) o
    | .hist o => opsRaw 0x145 0 o | .merge o => opsRaw 0x146 0 o
    | .bar g b n => bareRaw 0 0x147 g zc (specCode n) zc zc b.val 0 0
    | .arrive g b n => bareRaw 0 0x148 g zc (specCode n) zc zc b.val 0 0
    | .waitbar g b => bareRaw 0 0x149 g zc zc zc zc b.val 0 0
    | .ld o s cb => opsRaw 0x160 (4 * sizeCode s + cbCode cb) o | .st o s cb => opsRaw 0x161 (4 * sizeCode s + cbCode cb) o
    | .atom o a cb => opsRaw 0x162 (4 * aopCode a + cbCode cb) o | .acas o cb => opsRaw 0x163 (cbCode cb) o
    | .rld o s => opsRaw 0x164 (4 * sizeCode s) o | .rst o s => opsRaw 0x165 (4 * sizeCode s) o
    | .ratom o a => opsRaw 0x166 (4 * aopCode a) o | .old o s => opsRaw 0x167 (4 * sizeCode s) o
    | .ost o s => opsRaw 0x168 (4 * sizeCode s) o
    | .fence g s => bareRaw 0 0x169 g zc zc zc zc (scopeCode s) 0 0
    | .rsv g rid rec => bareRaw 0 0x180 g zc (specCode rid) (specCode rec) zc 0 0 0
    | .rls g rid => bareRaw 0 0x181 g zc (specCode rid) zc zc 0 0 0
    | .opfence g => bareRaw 0 0x182 g zc zc zc zc 0 0 0
    | .mma g tile ra rb vn e =>
      bareRaw 2 0x183 g (specCode tile) (specCode ra) (specCode rb) vn.val 0 0
        ((match e.dprog with | some p => p.val | none => 63) + 2 ^ 6 * bitNat e.new + 2 ^ 8 * e.ak.toNat + 2 ^ 24 * e.bk.toNat +
          2 ^ 40 * e.bcol.toNat)
    | .mmaw g => bareRaw 0 0x184 g zc zc zc zc 0 0 0
    | .tmov g d tile row => bareRaw 0 0x185 g (specCode d) (specCode tile) zc zc row.toNat 0 0
    | .tset g tile a row => bareRaw 0 0x186 g (specCode tile) (specCode a) zc zc row.toNat 0 0
    | .tzero g tile => bareRaw 0 0x187 g (specCode tile) zc zc zc 0 0 0
    | .drain g tile sb rid e =>
      bareRaw 2 0x188 g zc (specCode tile) (specCode sb) (specCode rid) 0 0
        (e.dprog.val + 2 ^ 6 * bitNat e.keep + 2 ^ 8 * e.rpitch.toNat + 2 ^ 28 * e.cpitch.toNat)
    | .drainw g => bareRaw 0 0x189 g zc zc zc zc 0 0 0
    | .dpld g prog addr => bareRaw 0 0x18A g zc (specCode prog) (specCode addr) zc 0 0 0
    | .copy g loc shape coord ctr e =>
      bareRaw 2 0x1A0 g (specCode loc) (specCode shape) (0x680 + coord.val) (specCode ctr) 0 0
        (bitNat e.store + 2 * bitNat e.lk + 4 * e.cn.val + 16 * sysCode e.sys + 2 ^ 12 * e.off16.toNat)
    | .waitc g ctr target b => bareRaw 1 0x1A1 g zc (specCode ctr) (specCode target) zc 0 b.toNat 0
    | .cntset g ctr v => bareRaw 0 0x1A2 g zc (specCode ctr) (specCode v) zc 0 0 0
    | .fetch g d => bareRaw 0 0x1A3 g (0x680 + d.val) zc zc zc 0 0 0
    | .fatom g od addr b ctr e =>
      bareRaw 2 0x1A4 g (specCode od) (0x680 + addr.val) (specCode b) (specCode ctr) 0 0
        (gopCode e.op + 16 * bitNat e.w64 + 32 * sysCode e.sys + 256 * specCode e.cmp)
    | .sread g d n => bareRaw 0 0x1C0 g (specCode d) n.toNat zc zc 0 0 0
    | .swrite g n a => bareRaw 0 0x1C1 g zc n.toNat (specCode a) zc 0 0 0
    | .rett g rec k => bareRaw 0 0x1C2 g zc (specCode rec) (rettCode k) zc 0 0 0
    | _ => bareRaw 0 0x1FF Guard.always zc zc zc zc 0 0 0

/-- The 58 bits of a slot. -/
def slotCode (s : PairSlot) : Nat := packSlot (popCode s.op).1 (popRaw s.op s.o)

/-- The word of a well-formed instruction. A step of the device has no word. -/
def encode : Instr → Nat
  | .pairedWord x y => 2 + 2 ^ 2 * 0x1F0 + 2 ^ 11 * slotCode x + 2 ^ 69 * slotCode y
  | i => packWord (rawOf i)

/-- The place the host's reading of a table word takes: an offset above every branch target and every table defined. -/
def anyPlace : Place := ⟨2 ^ 24, 32⟩

/-- The instruction that the decoder reads from a word whose low bits are `w`. -/
def decodeTableWord (nbits w : Nat) : Option Instr :=
  match decodeWord anyPlace (w % 2 ^ nbits) with
  | .ok i => some i
  | .error _ => none

end Sys2Proof
end

