-- ==== Sys2Proof/Machine/Flags.lean ====
section
/-! DEFINITION. The sticky floating-point flags (R95), the FP trap enable of a launch (R96), and the flags of S_FPFLAGS as a register
value (R51, R52). -/
namespace Sys2Proof.Machine

/-- The sticky flags of R95: NX 0, UF 1, OF 2, DZ 3, NV 4, SAT 5. -/
abbrev Flags := BitVec 6

def Flags.none : Flags := 0
def Flags.nx : Flags := 1
def Flags.uf : Flags := 2
def Flags.of : Flags := 4
def Flags.dz : Flags := 8
def Flags.nv : Flags := 16
def Flags.sat : Flags := 32

/-- `f` where the condition holds, else no flag. -/
def Flags.when (b : Bool) (f : Flags) : Flags := if b then f else 0

/-- The flags of `f` that the launch enables as traps: FPEN covers NX, UF, OF, DZ and NV in the places of S_FPFLAGS [4:0], and SAT
cannot be enabled (R96, R338). -/
def Flags.enabled (fpen : BitVec 5) (f : Flags) : Flags := f &&& fpen.setWidth 6

/-- S_FPFLAGS after an instruction that raised `f` (R95, R126): bits are only set. -/
def Flags.accrue (r : Word) (f : Flags) : Word := r ||| f.setWidth 32

/-- The value that SWRITE leaves in S_FPFLAGS: bits [31:6] read as 0 (R95). -/
def Flags.written (x : Word) : Word := x &&& 0x3F

end Sys2Proof.Machine
end

