-- ==== Sys2Proof/Machine/Table.lean ====
section
/-! DEFINITION. Reading and writing a sparse table in its canonical form. -/
namespace Sys2Proof.Tbl

/-- The value at key `k`; an unlisted key reads as `d`. -/
def get {α : Type} (d : α) : Tbl α → Nat → α
  | [], _ => d
  | (k', v) :: t, k => if k' = k then v else get d t k

/-- Removes every entry at key `k`. -/
def erase {α : Type} : Tbl α → Nat → Tbl α
  | [], _ => []
  | (k', v) :: t, k => if k' = k then erase t k else (k', v) :: erase t k

/-- Puts an entry in its place by ascending key. -/
def insert {α : Type} : Tbl α → Nat → α → Tbl α
  | [], k, v => [(k, v)]
  | (k', v') :: t, k, v => if k < k' then (k, v) :: (k', v') :: t else (k', v') :: insert t k v

/-- Writes `v` at key `k`. Writing the value that an unlisted key reads as removes the entry. -/
def put {α : Type} [DecidableEq α] (d : α) (t : Tbl α) (k : Nat) (v : α) : Tbl α :=
  if v = d then erase t k else insert (erase t k) k v

/-- Writes `v` at key `k`, listed whatever `v` is. -/
def set {α : Type} (t : Tbl α) (k : Nat) (v : α) : Tbl α := insert (erase t k) k v

/-- Applies `f` to the value at key `k`, and lists the result. -/
def mod {α : Type} (d : α) (t : Tbl α) (k : Nat) (f : α → α) : Tbl α := set t k (f (get d t k))

/-- Applies `f` to the value at each key of a list, and lists the results. -/
def modAll {α : Type} (d : α) (t : Tbl α) (ks : List Nat) (f : Nat → α → α) : Tbl α :=
  ks.foldl (fun t k => mod d t k (f k)) t

/-- Applies `f` to the value at key `k`. -/
def upd {α : Type} [DecidableEq α] (d : α) (t : Tbl α) (k : Nat) (f : α → α) : Tbl α :=
  put d t k (f (get d t k))

/-- Applies `f` at each key of a list. -/
def updAll {α : Type} [DecidableEq α] (d : α) (t : Tbl α) (ks : List Nat) (f : Nat → α → α) : Tbl α :=
  ks.foldl (fun t k => upd d t k (f k)) t

/-- Every key of a list is above `k`, and so on along the list. -/
def above {α : Type} : Nat → Tbl α → Bool
  | _, [] => true
  | k, (k', _) :: t => decide (k < k') && above k' t

/-- The canonical form: keys strictly rising, and no entry equal to the unlisted value `d`. -/
def wf {α : Type} [DecidableEq α] (d : α) : Tbl α → Bool
  | [] => true
  | (k, v) :: t => above k t && decide (v ≠ d) && t.all (fun e => decide (e.2 ≠ d))

end Sys2Proof.Tbl

namespace Sys2Proof

/-- Puts an element in its place in a sorted list. -/
def sortInto {α : Type} (le : α → α → Bool) (x : α) : List α → List α
  | [] => [x]
  | y :: ys => if le x y then x :: y :: ys else y :: sortInto le x ys

/-- Sorts a list; equal elements keep their order. -/
def sorted {α : Type} (le : α → α → Bool) : List α → List α
  | [] => []
  | x :: xs => sortInto le x (sorted le xs)

end Sys2Proof
end

