-- ==== Sys2Proof/Machine/CoreTypes.lean ====
section
/-! DEFINITION. The state of lanes, groups and their traps (03, 08, 09, 10, 22): plain data, one field for each piece that the spec
names. -/
namespace Sys2Proof.Machine

/-- The trap codes of R381. -/
inductive TrapCode where
  | illegal | limitLoop | limitDepth | limitWait | limitConflict | bounds | misalign | format | fp | drain | copyfault | priv
  | bkpt | soft | watch
  deriving DecidableEq, Repr

/-- The number of a trap code (R381). -/
def TrapCode.num : TrapCode → Nat
  | .illegal => 1 | .limitLoop => 2 | .limitDepth => 3 | .limitWait => 4 | .limitConflict => 5 | .bounds => 6
  | .misalign => 7 | .format => 8 | .fp => 9 | .drain => 10 | .copyfault => 11 | .priv => 12 | .bkpt => 13 | .soft => 14
  | .watch => 15

/-- Why a lane traps: the code, the DETAIL, the AUX and the PSLOT of its record (R381, R383). -/
structure Cause where
  code : TrapCode
  detail : Nat := 0
  aux : Word := 0
  pslot : Nat := 0
  deriving DecidableEq, Repr

/-- A trap record (R383). `pslot` is PSLOT. `viaReg` says that a breakpoint register raised a BKPT record (R390), `drain` names the
faulted drain of a DRAIN record (R322), `islot` is the issuing slot, which breaks ties (R387), and `claimed` says that an agent
has claimed the record (R450). -/
structure TrapRec where
  tick : Nat
  aux : Word
  mask : BitVec 32
  pc : Nat
  detail : Nat
  code : TrapCode
  pslot : Nat
  group : Nat
  teamx : Nat
  core : Nat
  qid : DWord
  viaReg : Bool := false
  drain : Option Nat := none
  islot : Nat := 0
  claimed : Bool := false
  deriving DecidableEq, Repr

/-- Whether a lane runs, is parked under a trap record, or has executed EXIT (R171). Held and deferred are read from the meeting
register and the deferral mark. -/
inductive LaneSt where
  | free | parked | exited
  deriving DecidableEq, Repr

/-- One lane (R45, R51, R149, R151, R152, R171). `rs` is the return stack, its top first; its depth is its length. `ysh` counts the shifts
of the last-result file, so that a result still in flight finds its entry (R48); `noWatch` is the watchpoint that a replay
leaves out (R390). -/
structure Lane where
  v : Tbl Word := []
  o : Tbl Word := []
  y0 : Word := 0
  y1 : Word := 0
  y2 : Word := 0
  y3 : Word := 0
  p : BitVec 8 := 1
  c : Tbl Word := []
  bnd : Tbl Word := []
  pc : Nat := 0
  meet : Option Nat := none
  rs : List Nat := []
  flags : Word := 0
  st : LaneSt := .free
  deferred : Bool := false
  ysh : Nat := 0
  noWatch : Option Nat := none
  deriving DecidableEq, Repr

/-- A resource that the scoreboard covers (R177); `flags` stands for a word of a lane that leaves no other entry, for which only a SREAD of S_FPFLAGS
waits (R143). -/
inductive Res where
  | v (n : Nat) | o (n : Nat) | y (n : Nat) | g (n : Nat) | p (n : Nat) | c (n : Nat) | t (n : Nat) | flags
  deriving DecidableEq, Repr

/-- A pending write: the resource, the cycle from which words may use it (R232; none where an event brings the result), the lanes of the word's
issue, and the serial number of the access that an event completes (R48, R177). -/
structure Pend where
  res : Res
  ready : Option Nat
  mask : BitVec 32
  tag : Nat := 0
  deriving DecidableEq, Repr

/-- What a waiting group waits for (R177). A wait that its word has not yet left keeps the lanes of `active` in `mask` and ends by
moving the lanes of `sub` past the word. -/
inductive WaitKind where
  /-- BAR or WAITBAR: the barrier and the phase that must pass (R198). -/
  | barrier (b : Nat) (ph : Nat)
  /-- Released by an opening and waiting for its wave (R181). -/
  | wave
  /-- FETCH: the g register of the tile record (R243). -/
  | fetch (d : Nat)
  /-- WAITC: counter, target, declared bound in ticks, the ticks already waited before the last restore, and the serial number that the core's
  next command had at its issue (R251, R400). -/
  | waitc (ctr : Nat) (target : Word) (bound : Nat) (waited : Nat) (before : Nat)
  /-- CNTSET: counter, value, and the serial numbers of the commands still awaited (R252). -/
  | cntset (ctr : Nat) (value : Word) (serials : List Nat)
  /-- FENCE of a scope, with the serial numbers of the commands it covers (R228, R274). -/
  | fence (scope : Scope) (serials : List Nat)
  /-- MMAW (R297). -/
  | mmaw
  /-- DRAINW: the context's count of matrix instructions at its issue (R320). -/
  | drainw (before : Nat)
  /-- DPLD: program, image address, and the context's count at its issue (R307). -/
  | dpld (prog addr before : Nat)
  /-- RSV: entry and record address (R293). -/
  | rsv (rid : Nat) (addr : Nat)
  /-- RLS: entry (R293). -/
  | rls (rid : Nat)
  deriving DecidableEq, Repr

/-- A wait: its kind, the tick-unit time at which it began, the lanes of the word's issue (`sub`) and of `active` (`mask`), the word's
offset and its length. -/
structure Wait where
  kind : WaitKind
  since : Nat
  sub : BitVec 32
  mask : BitVec 32
  pc : Nat
  len : Nat
  deriving DecidableEq, Repr

/-- One group (R45, R51, R165 to R180, R196, R243). `w` maps a barrier to its record plus 1, 0 for none. `bubble` is the first cycle after a
taken transfer's bubble, or from which a released group may issue (R181, R233); `issuedAt` is the cycle of its last issue, or of its end, plus 1. `cntMark` is the offset of
a CNTSET that is the selected word, with the number of the core's commands before the first cycle in which it was (R252). `obFence` is the team's count of
operand-buffer writes at its last OPFENCE (R277). -/
structure Group where
  slot : Nat := 0
  role : Nat := 0
  budget : Nat := 0
  g : Tbl Word := []
  lanes : Tbl Lane := []
  pend : List Pend := []
  wait : Option Wait := none
  w : Tbl Nat := []
  progress : Nat := 0
  waitCount : Nat := 0
  bubble : Nat := 0
  issuedAt : Nat := 0
  cntMark : Option (Nat × Nat) := none
  arrived : Bool := false
  ended : Bool := false
  obFence : Nat := 0
  deriving DecidableEq, Repr

/-- One barrier of a team (R196): A, E and ph. -/
structure Barrier where
  a : Nat := 0
  e : Nat := 0
  ph : Nat := 0
  deriving DecidableEq, Repr

/-- A reservation record (R223). -/
structure RsvRec where
  fmt : Word
  base16 : Nat
  pitch16 : Nat
  scl : Bool
  lblk : Nat
  kind : Nat
  size16 : Nat
  doff16 : Nat
  soff16 : Nat
  poff16 : Nat
  deriving DecidableEq, Repr

/-- A wave of released groups and the tick-unit time at which it goes (R181). -/
structure Wave where
  due : Nat
  groups : List Nat
  deriving DecidableEq, Repr

/-- One issue slot of a core: the first cycle in which it may issue again; for the team of each place the GTO claimant, a group that has just yielded and
the last issuer, since each team's policy applies within it; and the place that issued last (R176, R178, R180, R234). -/
structure Slot where
  busy : Nat := 0
  claim0 : Option Nat := none
  claim1 : Option Nat := none
  yielded0 : Option Nat := none
  yielded1 : Option Nat := none
  last0 : Option Nat := none
  last1 : Option Nat := none
  lastTeam : Option Nat := none
  deriving DecidableEq, Repr

/-- A breakpoint register DBG_BPn with the count of issues still to pass (R439). -/
structure BpReg where
  val : DWord := 0
  count : Nat := 0
  deriving DecidableEq, Repr

/-- The lane part of a remote access (R216 to R219): the issuing lane, the byte of the target window, the value it stores or
combines, and the last-result shift count of the lane when it issued. -/
structure RemoteLane where
  lane : Nat
  off : Nat
  val : BitVec 128
  ysh : Nat
  deriving DecidableEq, Repr

/-- What a remote access does (R219). -/
inductive RemoteOp where
  | ld (s : Size) | st (s : Size) | atom (a : Aop)
  deriving DecidableEq, Repr

/-- One part of the remote access `tag` in flight from one core to one destination core: issued by a group of place `tx`, entering the target at
cycle `entry` and ready at cycle `ready`. `results` holds what it read, by lane, once it has entered. -/
structure Remote where
  tag : Nat
  grid : Nat
  tx : Nat
  group : Nat
  target : Nat
  op : RemoteOp
  dst : Spec
  lanes : List RemoteLane
  entry : Nat
  ready : Nat
  entered : Bool
  results : List (Nat × BitVec 128)
  deriving DecidableEq, Repr

end Sys2Proof.Machine
end

