-- ==== Sys2Proof/Machine/EngineTypes.lean ====
section
/-! DEFINITION. The state of the engines, of translation, and of the views of global memory (13, 14). -/
namespace Sys2Proof.Machine

/-- A tensor shape record (R246). -/
structure ShapeRec where
  base : Nat
  elog : Nat
  ndim : Nat
  fill : Bool
  n : List Nat
  s : List Int
  b : List Nat
  lp : List Nat
  mbz : Bool
  deriving DecidableEq, Repr

/-- A region entry (R239). `at` lists, for each dimension, ax, ay, az and a0. -/
structure Region where
  dir : Nat
  ndim : Nat
  elog : Nat
  dk : Bool
  rid : Nat
  spoff : Nat
  arg : Nat
  bconst : Int
  e : List Nat
  s : List Int
  aff : List (List Int)
  mbz : Bool
  deriving DecidableEq, Repr

/-- A tile of the index space: its index and its coordinates (R242). -/
structure Tile where
  t : Nat
  x : Nat
  y : Nat
  z : Nat
  deriving DecidableEq, Repr

/-- What an engine command does (R240, R248, R253). A local place is a scratchpad byte, or with `ob` a byte of the operand-buffer
window; `base` is the first byte of a region's half, as its reservation stood at the team step. -/
inductive CmdKind where
  | copy (rec : ShapeRec) (coords : List Int) (store ob : Bool) (loc : Nat)
  | fatom (op : Gop) (w64 : Bool) (addr : Nat) (b cmp : DWord) (old : Option Nat)
  | stage (region : Nat) (half : Nat) (tile : Tile) (base : Nat)
  | wback (region : Nat) (half : Nat) (tile : Tile) (base : Nat)
  deriving DecidableEq, Repr

/-- A stamped write unit named by its origin and its stamp entry there (R267), with the holder that is its home (R237). -/
structure WriteId where
  origin : Nat
  seq : Nat
  home : Nat
  deriving DecidableEq, Repr

/-- Why an access faulted: the COPYFAULT detail of R384. -/
structure FaultInfo where
  detail : Nat
  va : Nat
  deriving DecidableEq, Repr

/-- How far a command has come: queued; working on element `n`; all elements performed and awaiting its completion condition; a FATOM
whose request is at its home, or whose old value is on its way back with the home's clock (R270); refused entry to a full
command log (R459). -/
inductive CmdSt where
  | queued
  | elem (n : Nat)
  | last
  | home
  | back (old : DWord) (clock : List Nat)
  | blocked (f : FaultInfo) (since retry : Nat)
  deriving DecidableEq, Repr

/-- An engine command (R248, R253, R256, R259, R274): its serial number on its core, its team's place, the issuing group and lanes, the
counter, the scope, the tick it was issued and the tick it owes, the writes it has stamped, whether host and peer writes
await a report, and the excused parked time. `clock` is the issuing die's clock that a FATOM carries, and `loc` the location at which the walk charged
a COPY or FATOM; `reached` lists the pages that it has reached (R460). -/
structure Cmd where
  serial : Nat
  tx : Nat
  group : Nat
  mask : BitVec 32
  kind : CmdKind
  ctr : Option Nat
  sys : Bool
  issued : Nat
  owed : Nat
  st : CmdSt := .queued
  writes : List WriteId := []
  pendingHost : Nat := 0
  pendingPeer : Nat := 0
  excused : Nat := 0
  clock : List Nat := []
  replayed : Bool := false
  loc : Option Nat := none
  reached : List Nat := []
  pc : Nat := 0
  deriving DecidableEq, Repr

/-- What a group's fences still have to see of a command (R274, R275): kept from its issue until every condition of .SYS holds. -/
structure Issued where
  serial : Nat
  group : Nat
  mask : BitVec 32
  wback : Bool
  store : Bool
  done : Bool
  incremented : Bool
  ctr : Option Nat
  owed : Nat
  writes : List WriteId
  pendingHost : Nat
  pendingPeer : Nat
  deriving DecidableEq, Repr

/-- An entry of a die's command log (R256, R459): the parked command, its core, the fault, the ticks of parking and of the next check. -/
structure LogEntry where
  core : Nat
  cmd : Cmd
  fault : FaultInfo
  since : Nat
  check : Nat
  deriving DecidableEq, Repr

/-- A translation (R237), as an entry of the tree and as a TLB entry. -/
structure Pte where
  v : Bool
  tgt : Nat
  key : Nat
  at_ : Bool
  wr : Bool
  rd : Bool
  ps : Nat
  frame : Nat
  pin : Bool
  leaf : Bool
  mbz : Bool
  deriving DecidableEq, Repr

/-- A TLB entry: interface, 64 KiB page number, and the leaf with the level it stands at (R255). -/
structure TlbEntry where
  vi : Nat
  page : Nat
  pte : Pte
  level : Nat
  deriving DecidableEq, Repr

/-- A pending walk of a die's translation unit (R255): for a command of a core, with the tick at which it started, if it has. -/
structure Walk where
  vi : Nat
  page : Nat
  core : Nat
  serial : Nat
  started : Option Nat
  deriving DecidableEq, Repr

/-- A write unit on its way to the holders (R266 to R268): its origin, its stamp, the bytes it sets by physical byte, the tick of its stamp, and the
ticks by which a late repair has extended its bound (R272, R410). -/
structure GWrite where
  origin : Nat
  stamp : List Nat
  cells : List (Nat × Byte)
  tick : Nat
  late : Nat := 0
  deriving DecidableEq, Repr

/-- The view of one die or hub (R266 to R269): its vector clock, its bytes, the stamp (origin and entries) that last set each byte, the
writes that have arrived and wait, and the writes on their way to it; `reads` lists the bytes, as first byte and number, that the die's engines have read in tick
`readTick` less 1 (R281). -/
structure View where
  vc : List Nat := List.replicate 10 0
  bytes : Tbl Byte := []
  stamps : Tbl (Option (Nat × List Nat)) := []
  held : List GWrite := []
  flight : List GWrite := []
  readTick : Nat := 0
  reads : List (Nat × Nat) := []
  deriving DecidableEq, Repr

/-- A page migration (R257): to or from the capacity tier, with the interface and page, its size, the new place, and the hub whose engine moves it:
the one that holds the half of the tier with the page's slot (R9). -/
structure Migration where
  vi : Nat
  va : Nat
  size : Nat
  toTier : Bool
  target : Nat
  hub : Nat
  start : Nat
  deriving DecidableEq, Repr

end Sys2Proof.Machine
end

