-- ==== Sys2Proof/Machine/MatrixTypes.lean ====
section
/-! DEFINITION. The state of a pair's matrix unit and of its drains (15, 16). -/
namespace Sys2Proof.Machine

/-- How far an MMA has come (R287), with the cycle at which the next stage may be entered. -/
inductive MmaSt where
  | gathering (done : Nat)
  | gathered
  | capturing (done retire : Nat)
  | captured (retire : Nat)
  | retired
  deriving DecidableEq, Repr

/-- An MMA from its issue until it has retired and the group's next MMAW has completed (R287, R296, R278). `rows` are the 64 A lines; `recA` and
`recB` the records that the entries `ridA` and `ridB` held; `fence` and `obNo` the team's counts of operand-buffer writes at the group's last
OPFENCE and at the issue (R277); `latch` the operand bytes that the gather collected, by window byte; `dirty` the operand bytes written after
its issue; `seq` its place in the context's issue order (R289); `settled` the elements of its pair that a later TSET has written since it retired, which a
late write no longer makes undefined (R278). -/
structure Mma where
  seq : Nat
  group : Nat
  pair : Nat
  ridA : Nat
  ridB : Nat
  recA : RsvRec
  recB : RsvRec
  rows : List Nat
  ak : Nat
  bk : Nat
  bcol : Nat
  k : Nat
  fence : Nat
  obNo : Nat
  st : MmaSt
  latch : Tbl Byte := []
  dirty : List Nat := []
  waited : Bool := false
  settled : List Nat := []
  deriving DecidableEq, Repr

/-- A TMOV or TSET that waits for the per-tile interlock (R289, R299): `set` holds the values of a TSET by lane; a TMOV delivers to `dst`,
and `lanes` gives its lanes with their last-result shift counts, `tag` its scoreboard entries. -/
structure TileOp where
  seq : Nat
  group : Nat
  pair : Nat
  row : Nat
  set : Option (List (Nat × Word))
  dst : Spec
  lanes : List (Nat × Nat)
  tag : Nat
  deriving DecidableEq, Repr

/-- One half of a drain: waiting, streaming with row 0 taken to enter in cycle `start`, stopped, resumed and waiting for its pipeline, or with
its last row committed (R316, R317, R322, R323). -/
inductive HalfSt where
  | waiting | running (start : Nat) | stopped | resumed | done
  deriving DecidableEq, Repr

/-- The program a drain copied when it started: micro-ops, constants, and the MLUT tables by program number (R306, R317), with the tile as it
stands while the drain reads it (R289). -/
structure DrainImage where
  words : List Word
  tables : List (Nat × List Word)
  tile : Tbl Word
  deriving DecidableEq, Repr

/-- A store of a row: whether it goes to the operand buffer, its first byte, and its bytes (R313). -/
structure RowStore where
  ob : Bool
  at_ : Nat
  bytes : List Byte
  deriving DecidableEq, Repr

/-- A drain (R317 to R323). `copies` are the entries copied at its issue, `next0` and `next1` its first uncommitted rows, `fault` the detail of
R321; `dirty` lists operand bytes written since its issue and `made` the stores of its committed rows, which such a write may make undefined (R324);
`pbmax0` and `pbmax1` are PBMAX of its halves, formed when they stop (R323). -/
structure Drain where
  seq : Nat
  group : Nat
  pc : Nat
  pair : Nat
  prog : Nat
  sb : Nat
  sc : Option Nat
  rpitch : Nat
  cpitch : Nat
  keep : Bool
  copies : List (Nat × RsvRec)
  image : Option DrainImage := none
  half0 : HalfSt := .waiting
  half1 : HalfSt := .waiting
  next0 : Nat := 0
  next1 : Nat := 0
  fault : Option Nat := none
  dirty : List Nat := []
  made : List (Nat × List RowStore) := []
  pbmax0 : List Word := []
  pbmax1 : List Word := []
  deriving DecidableEq, Repr

/-- One context of a pair's matrix unit (R282, R283, R290). `home` is its core and place; `tiles` holds the elements of each physical
pair by 32·i + j; `gatherEnd` is the end of the last gather. -/
structure Ctx where
  home : Option (Nat × Nat) := none
  names : Tbl (Option Nat) := []
  tiles : Tbl (Tbl Word) := []
  mmas : List Mma := []
  ops : List TileOp := []
  drains : List Drain := []
  gatherEnd : Nat := 0
  seq : Nat := 0
  deriving DecidableEq, Repr

/-- One drain pipeline of a pair: the first cycle in which its first stage is free, and the context of its last start (R317). -/
structure DrainPipe where
  free : Nat := 0
  last : Nat := 1
  deriving DecidableEq, Repr

/-- The matrix unit of a core pair: two contexts, the context of the last capture, the first cycle in which the arrays are free, and the
drain pipelines of the even and the odd core (R287, R317). -/
structure PairUnit where
  c0 : Ctx := {}
  c1 : Ctx := {}
  lastCapture : Nat := 1
  arraysFree : Nat := 0
  pipe0 : DrainPipe := {}
  pipe1 : DrainPipe := {}
  deriving DecidableEq, Repr

end Sys2Proof.Machine
end

