-- ==== Sys2Proof/Machine/TeamTypes.lean ====
section
/-! DEFINITION. The state of teams and cores (09, 11, 13, 16, 22, 26). -/
namespace Sys2Proof.Machine

/-- One team (R51, R165, R196, R207, R222, R242 to R244, R305, R392 to R394). `sp` and `ob` are the windows; `rsvReady` holds, for an entry
validated by RSV, the cycle from which it is usable (R293); `slots` maps a program number to its drain-store slot plus 1;
`stepping` says that a team step has started its write-back and waits for the next tile, and `claim` is the half for which a claim of a
tile waits to be served, with the first local byte of each region's half (R242, R330); `issued` lists commands that fences may
still cover; `regionFault` marks a region check that failed at a step (R241), and `openedAt` is the cycle of the last barrier opening plus 1 (R178).
`order` is how many teams had been placed on its cluster before it in the tick of its placement (R428); `tileTick` is the tick at which the current tile was handed out, and
`tileExcused` the grid's excused time then (R395). `obNo` counts operand-buffer writes, and `obOld` keeps what a byte held before, with the number of the write that replaced it (R277). -/
structure Team where
  grid : Nat := 0
  index : Nat := 0
  ctx : Option Nat := none
  groups : Tbl Group := []
  ngroups : Nat := 0
  stile : Word := 0xFFFFFFFF
  sp : Tbl Byte := []
  ob : Tbl Byte := []
  rsv : Tbl (Option RsvRec) := []
  rsvReady : Tbl Nat := []
  bars : Tbl Barrier := []
  waves : List Wave := []
  current : Option (Tile × Nat) := none
  next : Option (Tile × Nat) := none
  claim : Option (Nat × List Nat) := none
  handed : Nat := 0
  tileTick : Nat := 0
  tileExcused : Nat := 0
  done : Bool := false
  first : Bool := true
  stepping : Bool := false
  jobs : List Cmd := []
  slots : Tbl Nat := []
  issued : List Issued := []
  stopped : Bool := false
  preempt : Option Nat := none
  saving : Option Nat := none
  retiring : Bool := false
  regionFault : Bool := false
  startCycle : Nat := 0
  order : Nat := 0
  openedAt : Nat := 0
  obNo : Nat := 0
  obOld : Tbl (List (Nat × Byte)) := []
  deriving DecidableEq, Repr

/-- One core, where `remoteNo` numbers its remote accesses (R11, R158, R169, R217, R248, R259, R305, R383, R439, R440, R450). `teams` has the places 0 and 1 (TEAMX) and, as place 2, the
firmware agent in the privileged group slot (R176). `serialAt` is the number of its commands at the start of the present cycle (R252), and `hostReads` lists the reads that await the host, each by its grid (R405).
`padCyc` is the cycle of the last cluster or engine access of the scratchpad plus 1 and `padClass` its class in the
order of R209. -/
structure Core where
  teams : Tbl (Option Team) := []
  slots : Tbl Slot := []
  copyq : List Cmd := []
  serial : Nat := 0
  serialAt : Nat := 0
  hostReads : List Nat := []
  owedC : Nat := 0
  owedS : Nat := 0
  remotes : List Remote := []
  remoteNo : Nat := 0
  drainStore : Tbl (List Word) := []
  traps : Tbl (Option TrapRec) := []
  bbcache : List (Nat × Nat × Nat) := []
  bp : Tbl BpReg := []
  wp : Tbl DWord := []
  fwRegs : Tbl Word := []
  ticket : Option (Nat × Nat) := none
  padCyc : Nat := 0
  padClass : Nat := 0
  deriving DecidableEq, Repr

end Sys2Proof.Machine
end

