-- ==== Sys2Proof/Machine/LaunchTypes.lean ====
section
/-! DEFINITION. The state of queues, kernels, quotations, grids and predictions (18, 20, 22). -/
namespace Sys2Proof.Machine

/-- Issue policies (R178, R337). -/
inductive Policy where
  | urg | gto | rr
  deriving DecidableEq, Repr

/-- A kernel as an image holds it (R337), with what the quote engine keeps beside it: the charged b and p of each COPY by the offset of its
word (R457), the charged MMA figure (R458), the place of each page that the walk charges at a location (R460), and whether it holds
matrix instructions (R282) and remote accesses (R220). `text` is a list of 32-bit parcels; `progs` maps a program number to its 32
words. -/
structure Kernel where
  text : List Word
  data : List Byte
  regions : List Region
  tables : List (List Nat)
  progs : List (Nat × List Word)
  argMask : DWord
  args8 : Nat
  pure_ : Bool
  issue : Policy
  depth : Nat
  cgroups : Nat
  cbudget : Nat
  pgroups : Nat
  pbudget : Nat
  hash : Nat
  copyCharge : List (Nat × Nat × Nat)
  mmaCharge : Nat
  places : List (Nat × Nat)
  matrix : Bool
  remote : Bool
  deriving DecidableEq, Repr

/-- A launch descriptor (R338). -/
structure Descr where
  lstart : Nat
  lenergy : Nat
  ltime : Nat
  accby : Nat
  bblen : Nat
  bbbase : Nat
  plim : Nat
  slice : Nat
  defw : Bool
  sign : Bool
  debug : Bool
  fpen : BitVec 5
  nr : Nat
  wo16 : Nat
  ws64 : Nat
  bws : Nat
  bwc : Nat
  prio : Nat
  loose : Bool
  floor : Nat
  dies : Nat
  cores : Nat
  x : Nat
  y : Nat
  z : Nat
  args : Nat
  image : Nat
  mbz : Bool
  deriving DecidableEq, Repr

/-- A queue descriptor (R331). -/
structure QDescr where
  vec : Nat
  eidx : Nat
  ebase : Nat
  cticks : Nat
  ccount : Nat
  ballast : Bool
  elog : Nat
  clog : Nat
  cbase : Nat
  mbz : Bool
  deriving DecidableEq, Repr

/-- A command packet (R335). -/
structure Packet where
  opc : Nat
  tag : Nat
  arg : DWord
  qrec : Nat
  srec : Nat
  mbz : Bool
  deriving DecidableEq, Repr

/-- The terms of a walk (R342). -/
structure WalkTerms where
  t : Nat
  st : Nat
  wb : Nat
  wct : Nat
  wce : Nat
  launch : Nat
  deriving DecidableEq, Repr

/-- A quotation (R344 to R346). `pairs` are the granted core pairs, `h` the refresh factors of the grant's dies in hundredths, and `rate` the CL_SLOPE rate
that the walk took (R182). -/
structure Quotation where
  qid : DWord
  vi : Nat
  q : Nat
  slot : Nat
  tag : Nat
  status : Nat
  detail : Nat
  offset : Nat
  qtick : Nat
  est : Nat
  accby : Nat
  floor : Nat
  dies : Nat
  pairs : List Nat
  power16 : Nat
  h : List (Nat × Nat)
  rate : Nat
  terms : WalkTerms
  descr : Descr
  kernel : Option Kernel
  argBlock : List DWord
  taken : Bool
  dead : Bool
  clock : List Nat
  deriving DecidableEq, Repr

/-- A reservation of a bound grid (R347): pairs, point, shares, power, its worst-case end, the quoted rate of each cluster (R182), and the pages pinned
and the ranges declared for it (R238). -/
structure Reservation where
  qid : DWord
  vi : Nat
  pairs : List Nat
  cores : List Nat
  point : Nat
  bwc : Nat
  bws : Nat
  power16 : Nat
  accepted : Nat
  endTick : Nat
  rates : List (Nat × Nat)
  pinned : List Nat
  declared : List (Nat × Nat)
  deriving DecidableEq, Repr

/-- Whom the first named event blames (R351). -/
inductive Blame where
  | none | caller | device | host
  deriving DecidableEq, Repr

/-- A named event of a grid: its tick and whom it blames (R351). `hold` marks the host time of lanes that are held for kyal, which names the host only
where the grid ends DONE (R157, R382) (log entry 124). -/
structure BlameEv where
  tick : Nat
  blame : Blame
  hold : Bool := false
  deriving DecidableEq, Repr

/-- How a grid ends, or that it has not (R349, R388, R395, R396). -/
inductive GridSt where
  | waiting | running | terminating (deadline : Nat) (status : Nat) | saving | saved | stopped | finished
  deriving DecidableEq, Repr

/-- A saved team: its core, whether its save was forced, its state, its engine commands in issue order, its trap records, its
matrix context and its drain programs, the groups that hold a GTO claim, and the bytes of its save area (R397, R399). -/
structure SavedTeam where
  core : Nat
  tx : Nat
  forced : Bool
  team : Team
  cmds : List Cmd
  traps : List TrapRec
  ctx : Option Ctx
  progs : List (Nat × List Word)
  claims : List Nat
  size : Nat
  deriving DecidableEq, Repr

/-- A grid (R165, R238, R242, R347 to R349, R392, R396). `admitted` lists admitted pages and `declared` the bounding ranges; `events` the named events of R351; `excused` is in
ticks; `pj` and `pjJudged` are its engine energy in tenths of a pJ, at the figures of R261 and as EOVR judges it (R460); `energy0` the energy counters of its clusters since its cores last changed, and `coreNj` what they had
grown by before, times the grid's cores in each (R352); `need` the clock of every write it had stamped when
its last team retired, with the reports of host and peer writes still owed to each core (R273); `est` and `accepted` its earliest start and its acceptance
(R347); `remapped` the pages that its claim has remapped (R371); `readyAt` the tick from which it would run but for the comparison of a prediction, which lies inside its launch
term (R370). -/
structure Grid where
  vi : Nat
  q : Nat
  qid : DWord
  tag : Nat
  kernel : Kernel
  descr : Descr
  argBlock : List DWord
  loose : Bool
  terms : WalkTerms
  floor : Nat
  st : GridSt
  cores : List Nat
  started : Nat
  nextTile : Nat
  admitted : List Nat
  declared : List (Nat × Nat)
  traps : List TrapRec
  tcount : Nat
  events : List BlameEv
  excused : Nat
  pj : Nat
  pjJudged : Nat
  energy0 : List (Nat × Nat)
  coreNj : Nat
  saved : List SavedTeam
  clock : List Nat
  req : Option Nat
  hostReq : Bool
  sliceEnd : Option Nat
  pred : Option Nat
  claimed : Bool
  droop0 : List (Nat × Nat)
  retired : Nat
  remapped : Option Nat
  need : List Nat
  owedHost : Tbl Nat
  owedPeer : Tbl Nat
  est : Nat
  accepted : Nat
  qdescr : Option QDescr
  readyAt : Option Nat := none
  deriving DecidableEq, Repr

/-- A history entry of a queue (R360). -/
structure HistEntry where
  kernel : Kernel
  descr : Descr
  argBlock : List DWord
  eligible : Bool
  deriving DecidableEq, Repr

/-- A record waiting to be written to an event ring (R349, R350): the record of a grid that has not completed is not `ready`. -/
structure EvRec where
  status : Nat
  tag : Nat
  qid : DWord
  grid : Option Nat
  blame : Blame := .none
  tovr : Bool := false
  eovr : Bool := false
  claimed : Bool := false
  start : Nat := 0
  end_ : Nat := 0
  qtime : Nat := 0
  qenergy : Nat := 0
  aenergy : Nat := 0
  ready : Bool := true
  trap : Nat := 0
  detail : Nat := 0
  tcore : Nat := 0
  tpc : Nat := 0
  tcount : Nat := 0
  excused : Nat := 0
  deriving DecidableEq, Repr

/-- A registered queue (R331 to R334, R350, R360): its descriptor, its slot, the producer and consumer indices, the event ring's write index and how many records its reader has
taken, the unsignalled records with the tick of the oldest, its records still to write, its history, and the command in processing, with whether that command's
record waits to be written (`posted`); `predicted` says that the launch
after the last bound one has been predicted (R364). -/
structure Queue where
  descr : QDescr
  slot : Option Nat
  prod : Nat
  cons : Nat
  lastSignal : Nat
  processing : Option Packet
  posted : Bool
  evIdx : Nat
  taken : Nat
  unsig : Nat
  oldest : Nat
  pending : List EvRec
  history : List HistEntry
  lastBound : Option Nat
  predicted : Bool
  wants : Bool := false
  deriving DecidableEq, Repr

/-- An entry of a prediction's read set: granule, and its generation at the first read (R368). -/
structure ReadEntry where
  vi : Nat
  va : Nat
  granule : Nat
  gen : Nat
  deriving DecidableEq, Repr

/-- A shadow page in the Fly (R366): virtual page, its size in bytes, the old and the new physical byte key; `clock` covers the stamps of the writes
that the bytes filled into it reflect (R270). -/
structure Shadow where
  vi : Nat
  va : Nat
  size : Nat
  orig : Nat
  frame : Nat
  clock : List Nat := []
  deriving DecidableEq, Repr

/-- A prediction in flight, by the number of its grid (R362 to R374): `finished` the tick its run finished, `launch` the grid number of the
matching launch with its binding tick, `checked` that the comparison of R370 has passed. -/
structure Prediction where
  vi : Nat
  q : Nat
  grid : Nat
  readSet : List ReadEntry
  shadows : List Shadow
  power16 : Nat
  finished : Option Nat
  adopted : Bool
  launch : Option (Nat × Nat)
  checked : Bool
  deriving DecidableEq, Repr

end Sys2Proof.Machine
end

