-- ==== Sys2Proof/Machine/DeviceTypes.lean ====
section
/-! DEFINITION. The state of clusters, dies, hubs, ports, interfaces and bring-up (24 to 27). -/
namespace Sys2Proof.Machine

/-- How far a change of point has come (R424): slewing up to a target, a frequency switch ordered, or slewing down. -/
inductive Change where
  | none | slewUp (target due : Nat) | switch (target due : Nat) | slewDown (target due : Nat)
  deriving DecidableEq, Repr

/-- The throttle of a cluster (R431): running, stopped until a tick, or held at P5 until a tick; `off` after a trip (R430). -/
inductive Throttle where
  | run | stopped (due : Nat) | hold (due : Nat) | off
  deriving DecidableEq, Repr

/-- One cluster (R159, R423 to R434). `mv2` is the core voltage in units of 0.5 mV; `cycBase` cycles had passed at time unit `cycTime`; the cycles from `stretchFrom` to `stretchTo` are stretched, and the barred window goes on to `barredTo`; `before` is the point and `sensor` the sensor
of a throttle; `sampleCyc` is the cycle of the governor's last sample, `stallIdle` its cycles with a team and no issue, and `lastIssue` the cycle of the
last issue plus 1; `limit` is the fastest point that the power controller allows (R433); `nj` is the energy counter (R352); `throttled` says that a throttle has taken the cluster
below its point and that it has not come back (R403), and `stopAt` is the time at which the throttle stopped the clock (R431); `placed` teams have been placed on the cluster in tick `placedAt` less 1 (R428). -/
structure Cluster where
  cur : Nat := 5
  held : Nat := 7
  ceil : Nat := 0
  mode : Bool := false
  req : Nat := 0
  change : Change := .none
  mv2 : Nat := 960
  ratio : Nat := 0
  slope : Nat := 2400
  droopMv : Nat := 30
  droopCount : Nat := 0
  stretchFrom : Nat := 0
  stretchTo : Nat := 0
  barredTo : Nat := 0
  throttle : Throttle := .run
  cycBase : Nat := 0
  cycTime : Nat := 0
  before : Nat := 5
  sensor : Nat := 0
  sampleCyc : Nat := 0
  stallIdle : Nat := 0
  lastIssue : Nat := 0
  sampleDue : Nat := 10000
  limit : Nat := 0
  nj : Nat := 0
  throttled : Bool := false
  stopAt : Nat := 0
  placedAt : Nat := 0
  placed : Nat := 0
  deriving DecidableEq, Repr

/-- One HBM stack (R432, R451): `tempDue` and `ecntDue` are the ticks of the next reading of its temperature and of the next gather of its counts. -/
structure Stack where
  rfsh : Nat := 0
  temp : Byte := 0
  held : Bool := false
  ce : Nat := 0
  ue : Nat := 0
  wbank : Nat := 0
  wcnt : Nat := 0
  tempDue : Nat := 32000
  ecntDue : Nat := 32000
  deriving DecidableEq, Repr

/-- One trigger unit (R437, R438): `armed` holds the tick of arming. -/
structure Trigger where
  tstart : DWord := 0
  tstop : DWord := 0
  cls : BitVec 5 := 0
  armed : Option Nat := none
  open_ : Bool := false
  deriving DecidableEq, Repr

/-- DATA of a trace record by its class (R436): a word that issues, with its lanes; an engine's command, with its kind and owed tick; a trap; a
sensor's reading; a team that takes or leaves a place; a trigger unit's mark. The spec gives no bit places inside DATA but for issue. -/
inductive TraceData where
  | issue (word : DWord) (lanes : BitVec 32)
  | engine (kind owed : Nat)
  | trap (code detail : Nat) (mask : BitVec 32)
  | thermal (sensor : Nat) (reading : BitVec 16)
  | scheduler (taken : Bool)
  | mark (unit : Nat) (opened : Bool)
  deriving DecidableEq, Repr

/-- CLASS of a trace record (R436). -/
def TraceData.cls : TraceData → Nat
  | .issue _ _ => 0
  | .engine _ _ => 1
  | .trap _ _ _ => 2
  | .thermal _ _ => 3
  | .scheduler _ => 4
  | .mark _ _ => 5

/-- A trace record (R436). -/
structure TraceRec where
  tick : Nat
  cyc : Word
  pc : Nat
  core : Nat
  group : Nat
  slot : Nat
  data : TraceData
  deriving DecidableEq, Repr

/-- One compute die (R255, R256, R258, R368, R429, R430, R436, R451): `fixed` counts the errors that were corrected in place, by stage; `sensorDue` is the tick of the next reading of the sensors (R429); `recent` holds the records of the present tick, which a trigger that opens in it
captures. -/
structure Die where
  tlb : List TlbEntry := []
  walks : List Walk := []
  log : List LogEntry := []
  temps : Tbl (BitVec 16) := []
  hbmStacks : Tbl Stack := []
  poison : Tbl Bool := []
  fixed : Tbl Nat := []
  gens : Tbl Nat := []
  tripped : Option Nat := none
  overNow : Nat := 0
  sensorDue : Nat := 10
  trace : List TraceRec := []
  recent : List TraceRec := []
  drop : Nat := 0
  trig : Tbl Trigger := []
  deriving DecidableEq, Repr

/-- What an entry of a work ring is about (R450): the command at a queue's consumer index, the start of a grid, or the resolution of a COPYFAULT of a core's
command. -/
inductive Work where
  | command (q n : Nat) | launch (grid : Nat) | fault (core serial : Nat)
  deriving DecidableEq, Repr

/-- An entry of a hub's work ring that is not marked done (R450): its number, which the ticket names, the core that drew it, with the tick, and the work. -/
structure WorkEntry where
  ticket : Nat
  core : Option Nat
  drawn : Nat
  work : Work
  deriving DecidableEq, Repr

/-- One hub (R332, R333, R413, R436, R450): `posted` is the number of the next entry of its work ring, `tickets` its ticket counter and `serve` its serve counter;
`lastDraw` holds the tick plus 1 and the core of the last draw. -/
structure Hub where
  slots : Tbl (Option (Nat × Nat)) := []
  waiting : List (Nat × Nat × DWord) := []
  idleTimeout : DWord := 1000000
  ring : List WorkEntry := []
  posted : Nat := 0
  tickets : Nat := 0
  serve : Nat := 0
  lastDraw : Nat × Nat := (0, 0)
  shed : Bool := true
  trace : List TraceRec := []
  drop : Nat := 0
  deriving DecidableEq, Repr

/-- A port's state (R410, R413). -/
inductive PortSt where
  | up | shed | retraining (due : Nat) | down
  deriving DecidableEq, Repr

/-- One fabric port (R409 to R413): `seq` is the next number to send, `expect` the next to accept; `resend` counts the buffered flits still to be sent
again, `asked` says that a replay has been asked for; `txq` and `ctl` hold what waits to be sent, `received` the payloads delivered; what `replay` and `txq`
hold stands with its peer device; `errs` holds the ticks of the errors of each lane in the last 1,000,000 ticks; `told` lists the lanes that the far end drops,
`repairing` the lanes under repair and the ticks by which each ends; `lowSince` is the tick since which `txq` has held at most 2, and `highSince` the tick plus 1
at which the queue of a shed port passed 8; `sent` is the flit last sent, and `busyTo` the time at which it has left. -/
structure Port where
  seq : Nat := 0
  expect : Nat := 0
  replay : List (Nat × Flit) := []
  resend : Nat := 0
  asked : Bool := false
  txq : List (Nat × List Byte) := []
  ctl : List Flit := []
  replays : Nat := 0
  crcErr : Nat := 0
  ethr : Nat := 64
  good : BitVec 4 := 0xF
  used : BitVec 4 := 0xF
  st : PortSt := .up
  errs : Tbl (List Nat) := []
  told : List Nat := []
  repairing : List (Nat × Nat) := []
  lowSince : Nat := 0
  highSince : Nat := 0
  received : List (BitVec 1984) := []
  sent : Option Flit := none
  busyTo : Nat := 0
  deriving DecidableEq, Repr

/-- VI_VIOL_ADDR (R417). -/
structure Violation where
  valid : Bool := false
  cause : Nat := 0
  addr : Nat := 0
  deriving DecidableEq, Repr

/-- One virtual interface (R331, R396, R416 to R418, R421). `reply` holds what the last host read returned; none for Unsupported
Request. -/
structure Vi where
  root : DWord := 0
  qtable : Tbl DWord := []
  ctxqid : DWord := 0
  ctxstate : Nat := 0
  viol : Violation := {}
  keysel : DWord := 0
  keybytes : List Byte := []
  reply : Option (List Byte) := none
  vectors : List Nat := []
  deriving DecidableEq, Repr

/-- One key slot (R418): its owner, and its keys where they are loaded. -/
structure KeySlot where
  owner : Option Nat := none
  keys : Option (List Byte) := none
  deriving DecidableEq, Repr

/-- Bring-up, recovery, attestation and debug unlock (R421, R444 to R449). `recovery` says that the device is in recovery and `recImage` that a recovery
image runs; `flash` is the flash content and `image` the running image, none for the one that the part is delivered with; `rcvCommit` says that the command in
progress is COMMIT; `mailbox` is the image that VERIFY has read; `chal` is the number of the challenge last read; `attest` lists the reports to sign: the interface (64 for the PF) and the
buffer's address. -/
structure Boot where
  recovery : Bool := false
  recImage : Bool := false
  debugUnlocked : Bool := false
  flash : Option (List Byte) := none
  image : Option (List Byte) := none
  fuseSvn : Nat := 0
  rcvAddr : DWord := 0
  rcvLen : Nat := 0
  rcvStatus : Nat := 0
  rcvCommit : Bool := false
  mailbox : List Byte := []
  chal : Option Nat := none
  unlockAddr : DWord := 0
  unlockStatus : Nat := 0
  attest : List (Nat × Nat) := []
  deriving DecidableEq, Repr

end Sys2Proof.Machine
end

