-- ==== Sys2Proof/Machine/State.lean ====
section
/-! DEFINITION. The state of the Skelum KY8: everything the spec gives the machine, as plain data, and the state right after device
reset. -/
namespace Sys2Proof.Machine

/-- Why the machine stops with a fault. No step of this model stops so: every trap of R381 is a next state. -/
inductive Fault where
  /-- Raised by no step: a name kept for an access to storage that the spec says does not exist. Safe. -/
  | noSuchStorage
  deriving DecidableEq, Repr

/-- Why an instruction is refused. -/
inductive Refusal where
  /-- Raised by an arm of `exec` whose instruction has no meaning yet. Safe: nothing can be proved about a run through it. -/
  | notModelled (mnemonic : String)
  deriving DecidableEq, Repr

/-- The issuing context of a word: the core, the place of its team, the group, the lanes for which the word issues, its offset and its length
in bytes. Set by `step`; the model's own. -/
structure Cur where
  core : Nat := 0
  tx : Nat := 0
  group : Nat := 0
  lanes : BitVec 32 := 0
  pc : Nat := 0
  len : Nat := 8
  deriving DecidableEq, Repr

/-- What comes from outside: a word of a firmware agent as its bits, in its issuing context, or an input of the host, the PF, a link partner or a
measurement (log entry 81). -/
inductive Input where
  | word (at_ : Cur) (bits : BitVec 128)
  | outside (i : Instr)
  deriving DecidableEq, Repr

/-- The machine. `time` is in units of 1/2,520 tick; `freeNo` numbers the free values, `inbox` lists the inputs from outside not yet
taken, and `stage` says how far the end of the present tick has come: all three are the model's own (log entry 2). `seals` says for each block of 16 bytes of HBM and
the tier under which keys it was last written, as 0 for key slot 0 and else the keys plus 1 (R419) (log entry 40). `burn` is the
duty of toggle burn in sixteenths (R433), `currentDue` and `powerDue` are the ticks of the next measurements of the current and of the package power (R428, R433), and `dips`
lists droops of the core voltage that are to come: the time, the cluster, and how far below the setpoint in mV (R426) (log entry 133). `stoppedAt` is
the time at which the clocks stopped (R441). -/
structure State where
  time : Nat := 0
  freeNo : Nat := 0
  stage : Nat := 0
  cur : Cur := {}
  inbox : List Input := []
  cores : Tbl Core := []
  pairs : Tbl PairUnit := []
  clusters : Tbl Cluster := []
  dies : Tbl Die := []
  hubs : Tbl Hub := []
  views : Tbl View := []
  seals : Tbl Nat := []
  ports : Tbl Port := []
  peers : Tbl (BitVec 48) := []
  peerDown : Tbl Nat := []
  vis : Tbl Vi := []
  keys : Tbl KeySlot := []
  queues : Tbl (Option Queue) := []
  quotes : List Quotation := []
  reservations : List Reservation := []
  grids : Tbl (Option Grid) := []
  preds : Tbl (Option Prediction) := []
  prio : Tbl (List Nat) := []
  nextQid : DWord := 1
  nextGrid : Nat := 0
  overruns : Nat := 0
  prdHold : Nat := 10000
  prdEn : Bool := true
  prdCounts : Tbl Nat := []
  prdEnergy : Nat := 0
  flySize : Nat := 16
  flyWrite : Option DWord := none
  flyFrames : Tbl Nat := []
  migrations : List Migration := []
  ballastSet : BitVec 16 := 0
  pwrPkg : BitVec 16 := 0
  ballastOn : Bool := false
  denyCount : Nat := 0
  denyCause : Nat := 0
  denyCluster : Nat := 0
  overPkg : Nat := 0
  burn : Nat := 0
  currentDue : Nat := 1000
  powerDue : Nat := 10000
  dips : List (Nat × Nat × Nat) := []
  pfInts : Nat := 0
  stopTick : DWord := 0
  stopped : Bool := false
  stoppedAt : Nat := 0
  boot : Boot := {}
  deriving DecidableEq, Repr

/-- The state right after device reset (R4, R45, R266, R333, R351, R375 to R377, R396, R413, R434, R441, R447, R449): every register at the value the
spec gives, else at the value log entry 3 names, and memory with nothing listed. -/
def State.reset : State := {}

end Sys2Proof.Machine
end

