-- ==== Sys2Proof/Machine/Ops.lean ====
section
/-! DEFINITION. The named operations over the state: places of cores, teams, groups and lanes; registers; windows of memory; the next PC;
taking a trap; the return from one. -/
namespace Sys2Proof.Machine

/-! ## Places -/

/-- The core of a package core number (R10). -/
def getCore (s : State) (k : Nat) : Core := Tbl.get {} s.cores k

def modCore (s : State) (k : Nat) (f : Core → Core) : State := { s with cores := Tbl.mod {} s.cores k f }

/-- The team in a place of a core. -/
def teamAt (c : Core) (tx : Nat) : Option Team := Tbl.get none c.teams tx

def getTeam (s : State) (k tx : Nat) : Team := (teamAt (getCore s k) tx).getD {}

def setTeam (c : Core) (tx : Nat) (t : Team) : Core := { c with teams := Tbl.set c.teams tx (some t) }

def modTeam (s : State) (k tx : Nat) (f : Team → Team) : State :=
  modCore s k fun c => setTeam c tx (f ((teamAt c tx).getD {}))

def groupAt (t : Team) (g : Nat) : Group := Tbl.get {} t.groups g

def getGroup (s : State) (k tx g : Nat) : Group := groupAt (getTeam s k tx) g

def modGroupIn (t : Team) (g : Nat) (f : Group → Group) : Team := { t with groups := Tbl.mod {} t.groups g f }

def modGroup (s : State) (k tx g : Nat) (f : Group → Group) : State := modTeam s k tx fun t => modGroupIn t g f

/-- The lane of a group. -/
def laneAt (g : Group) (l : Nat) : Lane := Tbl.get {} g.lanes l

def modLane (g : Group) (l : Nat) (f : Lane → Lane) : Group := { g with lanes := Tbl.mod {} g.lanes l f }

/-- Applies `f` to every lane of a list. -/
def modLanes (g : Group) (ls : List Nat) (f : Nat → Lane → Lane) : Group :=
  { g with lanes := Tbl.modAll {} g.lanes ls f }

/-- The lanes of a mask, in ascending order. -/
def lanesOf (m : BitVec 32) : List Nat := (List.range 32).filter fun l => m.getLsbD l

/-- The mask of a list of lanes. -/
def maskOf (ls : List Nat) : BitVec 32 := ls.foldl (fun m l => m ||| BitVec.twoPow 32 l) 0

/-- Every lane of a group. -/
def allLanes : List Nat := List.range 32

/-- The issuing core, team and group. -/
def curCore (s : State) : Core := getCore s s.cur.core
def curTeam (s : State) : Team := getTeam s s.cur.core s.cur.tx
def curGroup (s : State) : Group := getGroup s s.cur.core s.cur.tx s.cur.group
def onCore (s : State) (f : Core → Core) : State := modCore s s.cur.core f
def onTeam (s : State) (f : Team → Team) : State := modTeam s s.cur.core s.cur.tx f
def onGroup (s : State) (f : Group → Group) : State := modGroup s s.cur.core s.cur.tx s.cur.group f

/-- The lanes for which the word issues. -/
def subLanes (s : State) : List Nat := lanesOf s.cur.lanes

/-- Whether the word issues in the firmware agent's group slot (R70, R176). -/
def inAgent (s : State) : Bool := s.cur.tx == 2

def getGrid (s : State) (i : Nat) : Option Grid := Tbl.get none s.grids i

def modGrid (s : State) (i : Nat) (f : Grid → Grid) : State :=
  match getGrid s i with
  | some g => { s with grids := Tbl.set s.grids i (some (f g)) }
  | none => s

/-- The grid of a team; none for the firmware agent. -/
def teamGrid (s : State) (t : Team) : Option Grid := getGrid s t.grid

def curGrid (s : State) : Option Grid := if inAgent s then none else teamGrid s (curTeam s)

/-- The text of the issuing team's kernel. -/
def curText (s : State) : List Word := match curGrid s with | some g => g.kernel.text | none => []

/-! ## Numbers of the hierarchy (R10, R216) -/

def dieOf (k : Nat) : Nat := k / 108

/-- The cluster index on the die. -/
def clusterOnDie (k : Nat) : Nat := 3 * (k % 108 / 12 / 3) + k % 12 / 4

/-- The cluster of the package, 0 to 71 (R434). -/
def clusterOf (k : Nat) : Nat := 9 * dieOf k + clusterOnDie k

/-- The cluster-local index (R216). -/
def localIndex (k : Nat) : Nat := 4 * (k % 108 / 12 % 3) + k % 12 % 4

/-- The core of a cluster-local index in the cluster of core `k`. -/
def coreInCluster (k i : Nat) : Nat :=
  let w0 := k % 108 / 12 / 3 * 3
  let c0 := k % 12 / 4 * 4
  108 * dieOf k + 12 * (w0 + i / 4) + (c0 + i % 4)

/-- The hop count between two cluster-local indices (R216). -/
def hops (i j : Nat) : Nat :=
  let d := fun (a b : Nat) => if a ≤ b then b - a else a - b
  d (i % 4) (j % 4) + d (i / 4) (j / 4)

/-- The pair of a core, and the other core of it (R10, R282). -/
def pairOf (k : Nat) : Nat := k / 2
def partner (k : Nat) : Nat := if k % 2 = 0 then k + 1 else k - 1

/-! ## Time (R4, R12, R159, R423, R426) -/

/-- Time units of a tick. -/
def tickUnits : Nat := 2520

/-- The global tick (R4). -/
def tick (s : State) : Nat := s.time / tickUnits

/-- The clock period of a point in time units: 2,520 over the frequency in GHz (R423). -/
def period (p : Nat) : Nat :=
  match p with
  | 0 => 1050 | 1 => 1200 | 2 => 1400 | 3 => 1680 | 4 => 2100 | _ => 2800

def getCluster (s : State) (cl : Nat) : Cluster := Tbl.get {} s.clusters cl

def modCluster (s : State) (cl : Nat) (f : Cluster → Cluster) : State := { s with clusters := Tbl.mod {} s.clusters cl f }

/-- Whether a cluster's clock is stopped (R430, R431). -/
def clockStopped (c : Cluster) : Bool := match c.throttle with | .stopped _ | .off => true | _ => false

/-- The cycles of a count that come before the stretched ones, and the stretched ones (R426). -/
def stretchAhead (c : Cluster) : Nat := c.stretchFrom - c.cycBase
def stretchLeft (c : Cluster) : Nat := c.stretchTo - max c.stretchFrom c.cycBase

/-- The cycle count of a cluster's cores at a time: each stretched cycle lasts two periods and counts once (R159, R426). -/
def cyclesAt (c : Cluster) (time : Nat) : Nat :=
  if clockStopped c then c.cycBase
  else
    let n := (time - c.cycTime) / period c.cur
    let a := stretchAhead c
    let k := stretchLeft c
    c.cycBase + (if n < a then n else if n < a + 2 * k then a + (n - a) / 2 else n - k)

/-- The time that the clocks of the device have seen: it stands once they are gated (R441). -/
def clockTime (s : State) : Nat := if s.stopped then s.stoppedAt else s.time

/-- The cycle count of a core (CYC, R159). -/
def cyc (s : State) (k : Nat) : Nat := cyclesAt (getCluster s (clusterOf k)) (clockTime s)

/-- The cycle count by which a core's scratchpad is reached: the cluster network and the engines go on while a throttle has stopped the cluster's clock
(R431). -/
def netCyc (s : State) (k : Nat) : Nat :=
  let c := getCluster s (clusterOf k)
  if clockStopped c then c.cycBase + (clockTime s - c.stopAt) / period c.cur else cyc s k

/-! ## Issue slots (R178, R180) -/

/-- The GTO claimant of the team of a place on a slot. -/
def Slot.claimOf (sl : Slot) (tx : Nat) : Option Nat := if tx = 0 then sl.claim0 else sl.claim1

def Slot.setClaim (sl : Slot) (tx : Nat) (g : Option Nat) : Slot := if tx = 0 then { sl with claim0 := g } else { sl with claim1 := g }

/-- The group of a place that has just yielded on a slot. -/
def Slot.yieldedOf (sl : Slot) (tx : Nat) : Option Nat := if tx = 0 then sl.yielded0 else sl.yielded1

def Slot.setYielded (sl : Slot) (tx : Nat) (g : Option Nat) : Slot := if tx = 0 then { sl with yielded0 := g } else { sl with yielded1 := g }

/-- The group of a place that issued last on a slot. -/
def Slot.lastOf (sl : Slot) (tx : Nat) : Option Nat := if tx = 0 then sl.last0 else sl.last1

def Slot.setLast (sl : Slot) (tx : Nat) (g : Option Nat) : Slot := if tx = 0 then { sl with last0 := g } else { sl with last1 := g }

/-- A slot whose place starts anew: no claimant, no yielder and no last issuer of that place (R234). -/
def Slot.clear (sl : Slot) (tx : Nat) : Slot := ((sl.setClaim tx none).setYielded tx none).setLast tx none

/-- Whether a slot of a core may issue in the present cycle, and the slot held for that cycle (R176). -/
def slotFree (s : State) (k n : Nat) : Bool := decide ((Tbl.get {} (getCore s k).slots n).busy ≤ cyc s k)

def holdSlot (s : State) (k n : Nat) : State :=
  let now := cyc s k
  modCore s k fun c => { c with slots := Tbl.mod {} c.slots n fun sl => { sl with busy := now + 1 } }

/-! ## Free values -/

/-- Takes the next free word. -/
def takeFree (s : State) : Word × State := (Config.freeWord s.freeNo, { s with freeNo := s.freeNo + 1 })

/-! ## Windows of memory (R1, R207) -/

/-- The little-endian value of `n` bytes at `a`. -/
def readBytes (m : Tbl Byte) (a : Nat) : Nat → Nat
  | 0 => 0
  | n + 1 => (Tbl.get 0 m a).toNat + 256 * readBytes m (a + 1) n

/-- Writes the `n` low bytes of `v` at `a`, little-endian. -/
def writeBytes (m : Tbl Byte) (a : Nat) (v : Nat) : Nat → Tbl Byte
  | 0 => m
  | n + 1 => writeBytes (Tbl.put 0 m a (BitVec.ofNat 8 v)) (a + 1) (v / 256) n

/-- Writes a list of bytes at `a`. -/
def writeList (m : Tbl Byte) (a : Nat) : List Byte → Tbl Byte
  | [] => m
  | b :: t => writeList (Tbl.put 0 m a b) (a + 1) t

/-- The bytes of `n` cells from `a`. -/
def readList (m : Tbl Byte) (a : Nat) : Nat → List Byte
  | 0 => []
  | n + 1 => Tbl.get 0 m a :: readList m (a + 1) n

/-- The descriptor of a team's launch. -/
def teamDescr (s : State) (t : Team) : Option Descr := (teamGrid s t).map (·.descr)

/-- WS, the scratchpad window in bytes (R207). -/
def descrWS (d : Descr) : Nat := if d.defw then 2097152 else d.ws64 * 65536

/-- WO, the operand-buffer window in bytes (R207). -/
def descrWO (d : Descr) : Nat := if d.defw then 524288 else d.wo16 * 16384

/-- NR, the reservation count (R207). -/
def descrNR (d : Descr) : Nat := if d.defw then 16 else d.nr

def curWS (s : State) : Nat := match curGrid s with | some g => descrWS g.descr | none => 0
def curWO (s : State) : Nat := match curGrid s with | some g => descrWO g.descr | none => 0
def curNR (s : State) : Nat := match curGrid s with | some g => descrNR g.descr | none => 0

/-! ## The PC (R53, R58, R59) -/

/-- The parcel at a byte offset. -/
def parcelAt (text : List Word) (pc : Nat) : Word := text.getD (pc / 4) 0

/-- The bytes of `.text`. -/
def textBytes (text : List Word) : Nat := 4 * text.length

/-- A run of pad parcels from `pc` to the end of its 32-byte block (R59). -/
def padRun (text : List Word) (pc : Nat) : Bool :=
  (List.range ((32 - pc % 32) / 4)).all fun i => parcelAt text (pc + 4 * i) == 3

/-- Whether the parcel at `pc` is a pad, legal or not. -/
def isPad (text : List Word) (pc : Nat) : Bool := decide (pc < textBytes text) && parcelAt text pc % 4 == 3

/-- Steps over legal pad parcels to the start of the following block (R53, R59). -/
def skipPads (text : List Word) : Nat → Nat → Nat
  | 0, pc => pc
  | n + 1, pc => if isPad text pc && padRun text pc then skipPads text n ((pc / 32 + 1) * 32) else pc

/-- The next PC after a word of `len` bytes at `pc` (R53). -/
def nextPc (text : List Word) (pc len : Nat) : Nat := skipPads text (text.length / 8 + 1) (pc + len)

/-- The next PC of the issuing word. -/
def curNext (s : State) : Nat := nextPc (curText s) s.cur.pc s.cur.len

/-- Whether a transfer target is inside `.text` and on no pad parcel (R145). -/
def targetLegal (text : List Word) (t : Nat) : Bool := decide (t < textBytes text) && !(parcelAt text t % 4 == 3)

/-! ## Registers (R45, R47, R48, R66, R110) -/

/-- A guard in a lane (R62). -/
def guardIn (g : Guard) (ln : Lane) : Bool := ln.p.getLsbD g.p != g.neg

/-- The lanes of `active`: those for which the word issues and whose guard holds (R6). -/
def activeIn (g : Guard) (grp : Group) (sub : List Nat) : List Nat := sub.filter fun l => guardIn g (laneAt grp l)

def active (s : State) (g : Guard) : List Nat := activeIn g (curGroup s) (subLanes s)

/-- A 32-bit source of lane `l` (R110). -/
def readSpec (grp : Group) (l : Nat) (sp : Spec) : Word :=
  match sp with
  | .v n => Tbl.get 0 (laneAt grp l).v n
  | .o n => Tbl.get 0 (laneAt grp l).o n
  | .y n => if n = 0 then (laneAt grp l).y0 else if n = 1 then (laneAt grp l).y1 else if n = 2 then (laneAt grp l).y2
            else (laneAt grp l).y3
  | .g n => Tbl.get 0 grp.g n
  | .c n => Tbl.get 0 (laneAt grp l).c n
  | .p n => if (laneAt grp l).p.getLsbD n then 1 else 0
  | .imm i => i.signExtend 32
  | .t _ | .zero => 0

def readSrc (grp : Group) (l : Nat) : Src → Word
  | .sp sp => readSpec grp l sp
  | .imm32 i => i

/-- A predicate source. -/
def readPred (grp : Group) (l : Nat) (sp : Spec) : Bool :=
  match sp with
  | .p n => (laneAt grp l).p.getLsbD n
  | _ => false

/-- The register `d` further than `sp` in its file (R50, R212). -/
def specPlus (sp : Spec) (d : Nat) : Spec :=
  match sp with
  | .v n => .v (Fin.ofNat 1536 (n + d))
  | .o n => .o (Fin.ofNat 32 (n + d))
  | .g n => .g (Fin.ofNat 128 (n + d))
  | x => x

/-- A 64-bit source: a pair with the low word in the even register, or a sign-extended small immediate (R50, R110). -/
def readPair (grp : Group) (l : Nat) (sp : Spec) : DWord :=
  match sp with
  | .imm i => i.signExtend 64
  | .zero => 0
  | sp => readSpec grp l (specPlus sp 1) ++ readSpec grp l sp

def srcPair (grp : Group) (l : Nat) : Src → DWord
  | .sp sp => readPair grp l sp
  | .imm32 i => i.signExtend 64

/-- A 128-bit source: four registers in ascending address order (R212). -/
def readQuad (grp : Group) (l : Nat) (sp : Spec) : BitVec 128 :=
  readPair grp l (specPlus sp 2) ++ readPair grp l sp

/-- A write of a per-lane 32-bit register; the zero code discards (R66). -/
def writeSpec (ln : Lane) (sp : Spec) (x : Word) : Lane :=
  match sp with
  | .v n => { ln with v := Tbl.put 0 ln.v n x }
  | .o n => { ln with o := Tbl.put 0 ln.o n x }
  | _ => ln

/-- A write of a pair (R50). -/
def writePair (ln : Lane) (sp : Spec) (x : DWord) : Lane :=
  writeSpec (writeSpec ln sp (x.setWidth 32)) (specPlus sp 1) (x.extractLsb' 32 32)

/-- A write of four registers (R212). -/
def writeQuad (ln : Lane) (sp : Spec) (x : BitVec 128) : Lane :=
  writePair (writePair ln sp (x.setWidth 64)) (specPlus sp 2) (x.extractLsb' 64 64)

/-- A write of a predicate; a write to p0 is discarded (R45). -/
def writePred (ln : Lane) (sp : Spec) (b : Bool) : Lane :=
  match sp with
  | .p n => if n = 0 then ln else
      { ln with p := if b then ln.p ||| BitVec.twoPow 8 n else ln.p &&& ~~~BitVec.twoPow 8 n }
  | _ => ln

/-- A write of a uniform register; the zero code discards. -/
def writeG (grp : Group) (sp : Spec) (x : Word) : Group :=
  match sp with
  | .g n => { grp with g := Tbl.put 0 grp.g n x }
  | _ => grp

/-- A write of an even pair of uniform registers (R50). -/
def writeGPair (grp : Group) (sp : Spec) (x : DWord) : Group :=
  writeG (writeG grp sp (x.setWidth 32)) (specPlus sp 1) (x.extractLsb' 32 32)

/-- The shift of the last-result file (R48). -/
def shiftY (ln : Lane) (x : Word) : Lane :=
  { ln with y3 := ln.y2, y2 := ln.y1, y1 := ln.y0, y0 := x, ysh := ln.ysh + 1 }

/-- The value that a v or o destination holds in a lane; 0 for the zero code (R48). -/
def heldIn (ln : Lane) (sp : Spec) : Word :=
  match sp with
  | .v n => Tbl.get 0 ln.v n
  | .o n => Tbl.get 0 ln.o n
  | _ => 0

/-- A write to an entry of the last-result file whose shift happened when the count was `ysh`; an entry that has left the file is gone (R48). -/
def writeYAt (ln : Lane) (ysh : Nat) (x : Word) : Lane :=
  match ln.ysh - ysh with
  | 0 => { ln with y0 := x }
  | 1 => { ln with y1 := x }
  | 2 => { ln with y2 := x }
  | 3 => { ln with y3 := x }
  | _ => ln

/-! ## Taking a trap (R381, R383, R385) -/

/-- One lane's trap: the lane and its cause. -/
structure LaneTrap where
  lane : Nat
  cause : Cause
  deriving DecidableEq, Repr

/-- The first code, in the order of R381, among the lanes' causes. -/
def firstCode : List LaneTrap → Option TrapCode
  | [] => none
  | t :: ts =>
    match firstCode ts with
    | none => some t.cause.code
    | some c => some (if t.cause.code.num ≤ c.num then t.cause.code else c)

/-- The lowest free index of a core's trap table (R384). -/
def freeTrap (c : Core) : Option Nat := (List.range 512).find? fun i => (Tbl.get none c.traps i).isNone

/-- The free indices of a core's trap table. -/
def freeTraps (c : Core) : Nat := ((List.range 512).filter fun i => (Tbl.get none c.traps i).isNone).length

/-- The records that a group holds (R384). -/
def recordsOf (c : Core) (tx g : Nat) : Nat :=
  (c.traps.filter fun e => match e.2 with | some r => r.teamx == tx && r.group == g | none => false).length

/-- Whether a group can take one more record: a trap that comes without an issue waits for room, as an issue does (R384) (log entry 125). -/
def trapRoom (s : State) (k tx g : Nat) : Bool := (freeTrap (getCore s k)).isSome && decide (recordsOf (getCore s k) tx g < 16)

/-- The record of one issue's traps (R383): the code of `firstCode`, with the DETAIL, AUX and PSLOT of the lowest lane that has it; an FP
record's DETAIL is the OR over the lanes. -/
def trapRecord (s : State) (k tx g pc : Nat) (ts : List LaneTrap) (code : TrapCode) : TrapRec :=
  let same := ts.filter fun t => t.cause.code == code
  let first := same.head?.getD ⟨0, ⟨code, 0, 0, 0⟩⟩
  { tick := tick s, aux := first.cause.aux, mask := maskOf (ts.map (·.lane)), pc := pc,
    detail := if code = .fp then (same.foldl (fun m t => m ||| t.cause.detail) 0) else first.cause.detail,
    code := code, pslot := first.cause.pslot, group := g, teamx := tx, core := k,
    qid := match teamGrid s (getTeam s k tx) with | some gr => gr.qid | none => 0,
    islot := (getGroup s k tx g).slot }

/-- The 32 bytes of a record (R383). -/
def trapBits (r : TrapRec) : BitVec 256 :=
  BitVec.ofNat 64 r.tick ++ r.aux ++ r.mask ++ BitVec.ofNat 24 r.pc ++ BitVec.ofNat 8 r.detail ++ BitVec.ofNat 8 r.code.num ++ BitVec.ofNat 2 r.pslot ++
    BitVec.ofNat 4 r.group ++ BitVec.ofNat 1 r.teamx ++ BitVec.ofNat 10 r.core ++ (0 : BitVec 7) ++ r.qid

/-- Whom a trap blames (R381, R382); a LIMIT_WAIT that finds a command overdue also names the device (R251). -/
def TrapCode.blame : TrapCode → Blame
  | .bkpt | .watch => .none
  | .soft => .device
  | _ => .caller

/-- Whether the lanes of a trap are held for kyal (R387). -/
def TrapCode.held (c : TrapCode) (debug : Bool) : Bool :=
  match c with
  | .bkpt | .watch => true
  | .fp | .drain => debug
  | _ => false

/-- The named events of a grid after a trap: the trap's own, and host time where its lanes are held for kyal (R157, R351, R382). -/
def trapEvents (s : State) (code : TrapCode) (debug : Bool) (es : List BlameEv) : List BlameEv :=
  let own : List BlameEv := if code.blame = .none then [] else [{ tick := tick s, blame := code.blame }]
  es ++ own ++ (if code.held debug then [{ tick := tick s, blame := .host, hold := true }] else [])

/-- Writes a record into the core's trap table, and counts it for its grid (R349, R387). -/
def pushTrap (s : State) (k : Nat) (r : TrapRec) : State :=
  match freeTrap (getCore s k) with
  | none => s
  | some i =>
    let s := modCore s k fun c => { c with traps := Tbl.set c.traps i (some r) }
    if r.teamx = 2 then s
    else modGrid s (getTeam s k r.teamx).grid fun g =>
      { g with traps := g.traps ++ [r], tcount := g.tcount + 1, events := trapEvents s r.code g.descr.debug g.events }

/-- Lanes that trap leave their group as a parked sub-group under one record (R383, R385). Their PC stays at the word. -/
def trapAt (s : State) (k tx g pc : Nat) (ts : List LaneTrap) : State :=
  match firstCode ts with
  | none => s
  | some code =>
    let r := trapRecord s k tx g pc ts code
    let s := modGroup s k tx g fun grp => modLanes grp (ts.map (·.lane)) fun _ ln => { ln with st := .parked }
    pushTrap s k r

/-- Traps of the issuing word. -/
def trapLanes (s : State) (ts : List LaneTrap) : State := trapAt s s.cur.core s.cur.tx s.cur.group s.cur.pc ts

/-- One cause for every lane of a list. -/
def trapAll (s : State) (ls : List Nat) (c : Cause) : State := trapLanes s (ls.map fun l => ⟨l, c⟩)

/-! ## The return from a trap (R390) -/

/-- What RETT does to one lane of a record (R390): REPLAY leaves the PC, except after a BKPT instruction; SKIP moves it past the word; END treats
the lane as having executed EXIT. -/
def returnLane (act : RettAct) (r : TrapRec) (next : Nat) (ln : Lane) : Lane :=
  match act with
  | .replay =>
    if r.code = .bkpt && !r.viaReg then { ln with st := .free, pc := next }
    else if r.code = .watch then { ln with st := .free, noWatch := some r.detail }
    else { ln with st := .free }
  | .skip => { ln with st := .free, pc := next }
  | .end_ => { ln with st := .exited }

/-! ## Moving on -/

/-- Moves lanes to a PC. -/
def setPc (grp : Group) (ls : List Nat) (pc : Nat) : Group := modLanes grp ls fun _ ln => { ln with pc := pc }

/-- The issuing lanes go on to the next PC. -/
def advance (s : State) : State :=
  let next := curNext s
  onGroup s fun grp => setPc grp (subLanes s) next

/-- The issuing lanes outside `active` go on to the next PC, and the lanes of `active` trap (R86, R381). -/
def trapActive (s : State) (act : List Nat) (c : Cause) : State :=
  let next := curNext s
  let rest := (subLanes s).filter fun l => !act.contains l
  trapAll (onGroup s fun grp => setPc grp rest next) act c

/-- A word that acts once for the group when `active` is not empty, and otherwise does nothing beyond its issue cycle. -/
def groupWord (s : State) (g : Guard) (f : List Nat → State) : State :=
  match active s g with
  | [] => advance s
  | act => f act

/-- A watchpoint exemption lasts for one issue (R390). -/
def clearWatch (grp : Group) (ls : List Nat) : Group :=
  modLanes grp ls fun _ ln => if ln.noWatch.isSome then { ln with noWatch := none } else ln

/-- Runs a lane function over the issuing lanes of a group: a lane that answers an error keeps its state and traps; the others commit
(R86, R111). -/
def runLanes (grp : Group) (f : Nat → Lane → Except Cause Lane) : List Nat → Group × List LaneTrap
  | [] => (grp, [])
  | l :: ls =>
    let (grp', ts) := runLanes grp f ls
    match f l (laneAt grp l) with
    | .ok ln => (modLane grp' l fun _ => ln, ts)
    | .error c => (grp', ⟨l, c⟩ :: ts)

/-- A word that acts lane by lane: `f` sees the group before the word, so every source is read before any destination is written (R47). Lanes
that commit go on to the next PC. -/
def laneWord (s : State) (f : Group → Nat → Lane → Except Cause Lane) : State :=
  let grp := curGroup s
  let next := curNext s
  let r := runLanes grp (fun l ln => (f grp l ln).map fun ln => { ln with pc := next }) (subLanes s)
  trapLanes (onGroup s fun _ => r.1) r.2

end Sys2Proof.Machine
end

