-- ==== Sys2Proof/Machine/Fetch.lean ====
section
/-! DEFINITION. Fetching a word of `.text`: its bytes, the pad and block rules, and decode (R53, R58 to R60, R85, R87). -/
namespace Sys2Proof.Machine

/-- The number that `n` parcels from `i` make, the first the least significant (R58). -/
def parcels (text : List Word) (i : Nat) : Nat → Nat
  | 0 => 0
  | n + 1 => (text.getD i 0).toNat + 2 ^ 32 * parcels text (i + 1) n

/-- The bits of the word at a byte offset. -/
def wordAt (text : List Word) (pc : Nat) : Nat := parcels text (pc / 4) (wordBytes (parcelAt text pc).toNat / 4)

/-- The instruction at a byte offset with its length, or the detail of its ILLEGAL (R53, R59, R60, R85) (log entry 8). R60's inequality decides where a word
may start, also for a 128-bit word at block offset 4, 8 or 12 (log entry 118). A PC stands on a pad parcel only where the run is illegal: `nextPc` and
`firstPc` pass over a legal one. -/
def fetchAt (text : List Word) (ntab pc : Nat) : Except Nat (Instr × Nat) :=
  if textBytes text ≤ pc then .error 11
  else
    let n := wordBytes (parcelAt text pc).toNat
    if isPad text pc then .error 1
    else if 32 < pc % 32 + n then .error 2
    else (decodeWord ⟨pc, ntab⟩ (wordAt text pc)).map fun i => (i, n)

/-- The length of the word at an offset, 4 for a parcel that starts none. -/
def lengthAt (text : List Word) (pc : Nat) : Nat := wordBytes (parcelAt text pc).toNat

/-- The linear sweep of `.text` (R87): each word's offset, and the word or the detail of its failure. -/
def sweepFrom (text : List Word) (ntab : Nat) : Nat → Nat → List (Nat × Except Nat (Instr × Nat))
  | 0, _ => []
  | fuel + 1, pc =>
    if textBytes text ≤ pc then []
    else if isPad text pc then
      if padRun text pc then sweepFrom text ntab fuel ((pc / 32 + 1) * 32) else [(pc, .error 1)]
    else (pc, fetchAt text ntab pc) :: sweepFrom text ntab fuel (pc + lengthAt text pc)

def sweep (text : List Word) (ntab : Nat) : List (Nat × Except Nat (Instr × Nat)) := sweepFrom text ntab (text.length + 1) 0

/-- The words that the sweep decodes. -/
def sweepWords (text : List Word) (ntab : Nat) : List (Nat × Instr) :=
  (sweep text ntab).filterMap fun e => match e.2 with | .ok x => some (e.1, x.1) | .error _ => none

/-- Whether a word is a matrix instruction (R282). -/
def isMatrix : Instr → Bool
  | .rsv _ _ _ | .rls _ _ | .opfence _ | .mma _ _ _ _ _ _ | .mmaw _ | .tmov _ _ _ _ | .tset _ _ _ _ | .tzero _ _
  | .drain _ _ _ _ _ | .drainw _ | .dpld _ _ _ => true
  | _ => false

/-- Whether a word is a remote access (R220). -/
def isRemote : Instr → Bool
  | .rld _ _ | .rst _ _ | .ratom _ _ => true
  | _ => false

end Sys2Proof.Machine
end

