-- ==== Sys2Proof/Machine/Aes.lean ====
section
/-! DEFINITION. AES-256 and XTS, by which pages are encrypted in HBM and in the capacity tier (R418, R419). The algorithms are the public standards that
the spec names. -/
namespace Sys2Proof.Aes

/-! ## The field of 256 elements -/

/-- Twice an element. -/
def twice (b : Byte) : Byte := (b <<< 1) ^^^ (if b.getLsbD 7 then 0x1B else 0)

/-- The product of two elements: bit `i` of the first counts the second doubled `i` times. -/
def times (a b : Byte) : Byte :=
  ((List.range 8).foldl (fun (x : Byte × Byte) i => (if a.getLsbD i then x.1 ^^^ x.2 else x.1, twice x.2)) (0, b)).1

/-- The inverse of an element, as its power 254; 0 for 0. -/
def inverse (b : Byte) : Byte := (List.range 6).foldl (fun x _ => times (times x x) b) b |> fun x => times x x

/-- The substitution of a byte, and its inverse. -/
def subst (b : Byte) : Byte :=
  let x := inverse b
  x ^^^ x.rotateLeft 1 ^^^ x.rotateLeft 2 ^^^ x.rotateLeft 3 ^^^ x.rotateLeft 4 ^^^ 0x63
def unsubst (b : Byte) : Byte := inverse (b.rotateLeft 1 ^^^ b.rotateLeft 3 ^^^ b.rotateLeft 6 ^^^ 0x05)

/-! ## Blocks of 16 bytes, column by column -/

def xorBytes (a b : List Byte) : List Byte := List.zipWith (· ^^^ ·) a b

/-- Moves row `r` by `r` columns: left, or right with `back`. -/
def shiftRows (back : Bool) (s : List Byte) : List Byte :=
  (List.range 16).map fun i => s.getD (i % 4 + 4 * ((i / 4 + (if back then 4 - i % 4 else i % 4)) % 4)) 0

/-- Multiplies each column by a circulant matrix with the given first row. -/
def mixColumns (row : List Byte) (s : List Byte) : List Byte :=
  (List.range 16).map fun i =>
    (List.range 4).foldl (fun x j => x ^^^ times (row.getD ((j + 4 - i % 4) % 4) 0) (s.getD (i / 4 * 4 + j) 0)) 0

/-! ## The key schedule -/

/-- The round constant of number `n`. -/
def roundConst : Nat → Byte
  | 0 => 1
  | n + 1 => twice (roundConst n)

/-- `n` words more of the key schedule, newest first. -/
def expand : Nat → List (List Byte) → List (List Byte)
  | 0, w => w
  | n + 1, w =>
    let i := w.length
    let last := w.getD 0 []
    let t :=
      if i % 8 = 0 then xorBytes (((last.drop 1 ++ last.take 1).map subst)) [roundConst (i / 8 - 1), 0, 0, 0]
      else if i % 8 = 4 then last.map subst else last
    expand n (xorBytes (w.getD 7 []) t :: w)

/-- The 15 round keys of a key of 32 bytes. -/
def roundKeys (key : List Byte) : List (List Byte) :=
  let w := (expand 52 ((List.range 8).map fun i => (key.drop (4 * i)).take 4).reverse).reverse
  (List.range 15).map fun r => ((w.drop (4 * r)).take 4).flatten

/-! ## A block under a key -/

/-- The encryption of a block (AES-256). -/
def encrypt (key block : List Byte) : List Byte :=
  let ks := roundKeys key
  let s := (List.range 13).foldl (fun s r => xorBytes (mixColumns [2, 3, 1, 1] (shiftRows false (s.map subst))) (ks.getD (r + 1) []))
    (xorBytes block (ks.getD 0 []))
  xorBytes (shiftRows false (s.map subst)) (ks.getD 14 [])

/-- The decryption of a block. -/
def decrypt (key block : List Byte) : List Byte :=
  let ks := roundKeys key
  let s := (List.range 13).foldl (fun s r =>
      mixColumns [14, 11, 13, 9] (xorBytes ((shiftRows true s).map unsubst) (ks.getD (13 - r) [])))
    (xorBytes block (ks.getD 14 []))
  xorBytes ((shiftRows true s).map unsubst) (ks.getD 0 [])

/-! ## XTS (R418, R419) -/

/-- The tweak of block `j` of a data unit, from that of its first block: each step doubles it in the field of 2^128 elements. -/
def tweakAt (t : BitVec 128) : Nat → BitVec 128
  | 0 => t
  | j + 1 => let x := tweakAt t j; (x <<< 1) ^^^ (if x.getLsbD 127 then 0x87 else 0)

/-- The bytes of a number, the lowest first. -/
def lowFirst (v : BitVec 128) : List Byte := (List.range 16).map fun i => (v >>> (8 * i)).setWidth 8

/-- The number that 16 bytes hold, the lowest first. -/
def ofLowFirst (bs : List Byte) : BitVec 128 := bs.foldr (fun b n => (n <<< 8) ||| b.setWidth 128) 0

/-- The tweak of block `j` of a data unit under the second half of a pair of keys (log entry 40). -/
def tweak (keys : List Byte) (unit j : Nat) : List Byte :=
  lowFirst (tweakAt (ofLowFirst (encrypt (keys.drop 32) (lowFirst (BitVec.ofNat 128 unit)))) j)

/-- Block `j` of a data unit, encrypted and decrypted under a pair of keys of 64 bytes. -/
def sealBlock (keys : List Byte) (unit j : Nat) (block : List Byte) : List Byte :=
  let t := tweak keys unit j
  xorBytes (encrypt (keys.take 32) (xorBytes block t)) t
def unsealBlock (keys : List Byte) (unit j : Nat) (block : List Byte) : List Byte :=
  let t := tweak keys unit j
  xorBytes (decrypt (keys.take 32) (xorBytes block t)) t

end Sys2Proof.Aes
end

