-- ==== Sys2Proof/Machine/Global.lean ====
section
/-! DEFINITION. Global memory: stamped writes and the views of the dies and hubs (R266 to R272), the translation tree (R236, R237), and what an
engine access meets (R255, R256). -/
namespace Sys2Proof.Machine

/-! ## Views and stamps -/

/-- The dies and hubs: dies 0 to 7, then hubs 0 and 1 (R266). -/
def holders : List Nat := List.range 10

/-- Hub 0 as a holder. -/
def hub0 : Nat := 8

def getView (s : State) (d : Nat) : View := Tbl.get {} s.views d

def modView (s : State) (d : Nat) (f : View → View) : State := { s with views := Tbl.mod {} s.views d f }

/-- The physical byte of a target and an address there (R237). -/
def physKey (tgt addr : Nat) : Nat := tgt * 2 ^ 48 + addr

/-- The target of a physical byte. -/
def keyTgt (key : Nat) : Nat := key / 2 ^ 48

/-- The 64 KiB frame or granule of a physical byte of HBM. -/
def keyFrame (key : Nat) : Nat := key % 2 ^ 48 / 65536

/-- The stack that takes a frame where the stacks hold the given numbers of frames: the one meant for it, or the first after it that is not full with its
64 GiB (R13). -/
def stackIn (held : List Nat) (frame : Nat) : Nat :=
  let w := Config.stackFor frame % 16
  (((List.range 16).map fun i => (w + i) % 16).find? fun i => decide (held.getD i 0 < 2 ^ 20)).getD w

/-- The frames that each of the 16 stacks holds of the first `n`. -/
def stacksHold : Nat → List Nat
  | 0 => List.replicate 16 0
  | n + 1 => let h := stacksHold n; let i := stackIn h n; h.set i (h.getD i 0 + 1)

/-- The stack that holds an HBM frame (R13, R237) (log entry 22). -/
def stackOf (frame : Nat) : Nat := stackIn (stacksHold frame) frame

/-- The die whose stacks hold an HBM frame: two stacks stand at each die (R6, R237). -/
def homeDie (frame : Nat) : Nat := stackOf frame / 2 % 8

/-- The holder that is home to a physical byte: the home die of HBM, hub 0 for host and peer pages (R237). -/
def homeOf (key : Nat) : Nat := if keyTgt key = 0 then homeDie (keyFrame key) else hub0

/-- Whether every entry of a clock is at least that of another. -/
def dominates (a b : List Nat) : Bool := (List.zip a b).all fun e => e.2 ≤ e.1

/-- A byte of a view. -/
def viewByte (s : State) (d key : Nat) : Byte := Tbl.get 0 (getView s d).bytes key

/-- Whether a write that sets a byte last set by `old` gives it its value: a causal successor does; of two concurrent writes the larger sum of
stamp entries does, then the lower origin (R269). -/
def wins (old : Option (Nat × List Nat)) (origin : Nat) (stamp : List Nat) : Bool :=
  match old with
  | none => true
  | some (o, st) => dominates stamp st || decide (st.sum < stamp.sum) || (st.sum == stamp.sum && decide (origin < o))

/-- One byte of an applied write (R269). -/
def applyCell (v : View) (origin : Nat) (stamp : List Nat) (c : Nat × Byte) : View :=
  if wins (Tbl.get none v.stamps c.1) origin stamp then
    { v with bytes := Tbl.put 0 v.bytes c.1 c.2, stamps := Tbl.set v.stamps c.1 (some (origin, stamp)) }
  else v

/-- A view after a write is applied (R268). -/
def applyTo (v : View) (w : GWrite) : View :=
  let v := w.cells.foldl (fun v c => applyCell v w.origin w.stamp c) v
  { v with vc := v.vc.set w.origin (w.stamp.getD w.origin 0) }

/-- The HBM granules that a write touches. -/
def granules (w : GWrite) : List Nat := ((w.cells.filter fun c => keyTgt c.1 == 0).map fun c => keyFrame c.1).eraseDups

/-- A holder applies a write; a home die counts the generation of each granule that it touches (R368). -/
def applyWrite (s : State) (d : Nat) (w : GWrite) : State :=
  let s := modView s d fun v => applyTo v w
  let mine := (granules w).filter fun f => homeDie f == d
  if mine.isEmpty then s
  else { s with dies := Tbl.mod {} s.dies d fun di =>
    { di with gens := mine.foldl (fun t f => Tbl.upd 0 t f fun n => (n + 1) % 2 ^ 48) di.gens } }

/-- Whether a holder may apply a write: its stamp follows the origin's last, and its predecessors are all applied (R268). -/
def canApply (vc : List Nat) (w : GWrite) : Bool :=
  (vc.getD w.origin 0 + 1 == w.stamp.getD w.origin 0) &&
    holders.all fun k => k == w.origin || decide (w.stamp.getD k 0 ≤ vc.getD k 0)

/-- An origin stamps a write unit, applies it to its own view, and sends it to every other holder (R267, R268). -/
def stampWrite (s : State) (origin : Nat) (cells : List (Nat × Byte)) : State × WriteId :=
  let vc := (getView s origin).vc
  let n := vc.getD origin 0 + 1
  let w : GWrite := { origin := origin, stamp := vc.set origin n, cells := cells, tick := tick s }
  let s := applyWrite s origin w
  let s := (holders.filter (· != origin)).foldl (fun s d => modView s d fun v => { v with flight := v.flight ++ [w] }) s
  (s, ⟨origin, n, match cells with | c :: _ => homeOf c.1 | [] => origin⟩)

/-- Whether a holder has applied a write (log entry 37). -/
def appliedAt (s : State) (d : Nat) (w : WriteId) : Bool := decide (w.seq ≤ (getView s d).vc.getD w.origin 0)

/-- Whether every die and hub has applied a write (R272). -/
def appliedAll (s : State) (w : WriteId) : Bool := holders.all fun d => appliedAt s d w

/-- A write arrives at a holder, where it waits in arrival order (R268). -/
def execWriteArrive (holder i : Nat) (s : State) : Host.Outcome State Fault Refusal :=
  .next (match (getView s holder).flight[i]? with
    | some w => modView s holder fun v => { v with flight := v.flight.eraseIdx i, held := v.held ++ [w] }
    | none => s)

/-- A holder applies a waiting write whose predecessors it has applied (R268, R269). -/
def execWriteApply (holder i : Nat) (s : State) : Host.Outcome State Fault Refusal :=
  .next (match (getView s holder).held[i]? with
    | some w =>
      if canApply (getView s holder).vc w then
        applyWrite (modView s holder fun v => { v with held := v.held.eraseIdx i }) holder w
      else s
    | none => s)

/-- The little-endian value of `n` bytes of a view from a physical byte. -/
def viewNat (s : State) (d key : Nat) : Nat → Nat
  | 0 => 0
  | n + 1 => (viewByte s d key).toNat + 256 * viewNat s d (key + 1) n

/-- The cells of a value written at a physical byte. -/
def cellsAt (key v : Nat) : Nat → List (Nat × Byte)
  | 0 => []
  | n + 1 => (key, BitVec.ofNat 8 v) :: cellsAt (key + 1) (v / 256) n

/-! ## Translation -/

/-- The fields of a translation entry (R237). -/
def pteOf (w : Nat) : Pte :=
  let b := fun (i : Nat) => w / 2 ^ i % 2 == 1
  { v := b 63, tgt := w / 2 ^ 61 % 4, key := w / 2 ^ 53 % 256, at_ := b 52, wr := b 51, rd := b 50, ps := w / 2 ^ 48 % 4,
    frame := w / 2 ^ 16 % 2 ^ 32, pin := b 2, leaf := b 1,
    mbz := w / 8 % 2 ^ 13 != 0 || b 0 ||
      (!(b 1) && (w / 2 ^ 48 % 2 ^ 15 != 0 || b 2)) }

/-- The lowest address bit that a level indexes (R236). -/
def levelShift (lv : Nat) : Nat := match lv with | 0 => 16 | 1 => 21 | 2 => 30 | 3 => 39 | _ => 48

/-- The bytes of a page that a leaf of a level maps. -/
def pageSize (lv : Nat) : Nat := 2 ^ levelShift lv

/-- The index of an address in a table of a level. -/
def levelIndex (lv va : Nat) : Nat := va / 2 ^ levelShift lv % (if lv = 0 then 32 else 512)

/-- The physical byte of the entry of a table. -/
def entryKey (frame lv va : Nat) : Nat := physKey 0 (frame * 65536 + 8 * levelIndex lv va)

/-- A leaf with the level it stands at and the physical byte of its entry. -/
structure Leaf where
  pte : Pte
  level : Nat
  entry : Nat
  deriving DecidableEq, Repr

/-- Whether frames exist: HBM has 1 TiB and the tier 4 TiB (R13); host memory and peer devices are not the package's (log entry 120). -/
def framesExist (tgt frame n : Nat) : Bool :=
  match tgt with
  | 0 => decide (frame + n ≤ 2 ^ 24)
  | 1 => decide (frame + n ≤ 2 ^ 26)
  | _ => true

/-- Whether an entry is valid at its level (R237): what it names exists (log entry 120). -/
def pteValid (e : Pte) (lv : Nat) : Bool :=
  e.v && !e.mbz && (if e.leaf then decide (lv ≤ 2) && e.ps == lv && framesExist e.tgt e.frame (pageSize lv / 65536)
    else decide (0 < lv) && framesExist 0 e.frame 1)

/-- The entry of a table that an address selects at a level, through hub 0's view (R236). -/
def entryAt (s : State) (va frame lv : Nat) : Leaf :=
  let key := entryKey frame lv va
  ⟨pteOf (viewNat s hub0 key 8), lv, key⟩

/-- The walk of the tree from a table (R236). -/
def walkFrom (s : State) (va frame : Nat) : Nat → Option Leaf
  | 0 => let e := entryAt s va frame 0; if pteValid e.pte 0 && e.pte.leaf then some e else none
  | lv + 1 =>
    let e := entryAt s va frame (lv + 1)
    if !pteValid e.pte (lv + 1) then none
    else if e.pte.leaf then some e
    else walkFrom s va e.pte.frame lv

def getVi (s : State) (vi : Nat) : Vi := Tbl.get {} s.vis vi

def modVi (s : State) (vi : Nat) (f : Vi → Vi) : State := { s with vis := Tbl.mod {} s.vis vi f }

/-- The leaf of an address of an interface, none where no page is valid. -/
def walkTree (s : State) (vi va : Nat) : Option Leaf :=
  let root := (getVi s vi).root.toNat / 2 ^ 16 % 2 ^ 32
  if 2 ^ 57 ≤ va || !(framesExist 0 root 1) then none else walkFrom s va root 4

/-- The physical byte of an address under a leaf. -/
def leafKey (l : Leaf) (va : Nat) : Nat := physKey l.pte.tgt (l.pte.frame * 65536 + va % pageSize l.level)

/-- The virtual address at which a leaf's page starts. -/
def pageBase (l : Leaf) (va : Nat) : Nat := va / pageSize l.level * pageSize l.level

def getDie (s : State) (d : Nat) : Die := Tbl.get {} s.dies d

def modDie (s : State) (d : Nat) (f : Die → Die) : State := { s with dies := Tbl.mod {} s.dies d f }

/-- What an engine wants of a page. -/
inductive Use where
  | read | write | atomic
  deriving DecidableEq, Repr

/-- What an access meets: a page not in the TLB, whose walk it waits for; a stack that takes no traffic or a peer out of reach (R412,
R432); a fault (R256, R384); or a physical
byte. -/
inductive Meets where
  | miss
  | hold
  | fault (f : FaultInfo)
  | at_ (key : Nat) (l : Leaf)
  deriving DecidableEq, Repr

/-- Whether a die's TLB holds a page's translation as the tree now has it (R255). -/
def tlbHolds (s : State) (die vi va : Nat) (l : Leaf) : Bool :=
  (getDie s die).tlb.any fun e =>
    e.vi == vi && e.level == l.level && e.pte == l.pte && e.page / (pageSize l.level / 65536) == va / pageSize l.level

/-- Whether a page is moving to or from the capacity tier (R257). -/
def migrating (s : State) (vi va : Nat) (l : Leaf) : Bool :=
  s.migrations.any fun m => m.vi == vi && m.va / pageSize l.level == va / pageSize l.level

/-- Whether a page meets one of a list of bounding ranges (R238). -/
def meetsRange (rs : List (Nat × Nat)) (l : Leaf) (va : Nat) : Bool :=
  rs.any fun r => r.1 < pageBase l va + pageSize l.level && pageBase l va ≤ r.2

/-- Whether a page meets a bounding range of its grid (R238). -/
def declared (g : Grid) (l : Leaf) (va : Nat) : Bool := meetsRange g.declared l va

/-- Whether a key slot serves a page: slot 0 is firmware's; any other must be loaded and the interface's own; host and peer pages
take no key (R237, R418, R419) (log entries 40 and 90). -/
def keyOk (s : State) (vi : Nat) (p : Pte) : Bool :=
  if 2 ≤ p.tgt then p.key == 0
  else p.key == 0 ||
    (let k : KeySlot := Tbl.get {} s.keys p.key
     k.keys.isSome && k.owner == some vi)

/-- The number that a list of bytes holds, the lowest first. -/
def natOf : List Byte → Nat
  | [] => 0
  | b :: t => b.toNat + 256 * natOf t

/-- The seal of a block that no slot serves. -/
def lostSeal : Nat := 2 ^ 512 + 1

/-- The seal of a page's blocks of 16 bytes in HBM and in the tier: 0 under key slot 0, else the keys that are loaded in its slot plus 1, and `lostSeal` where
the slot does not serve the page (R418, R419). -/
def sealOf (s : State) (vi : Nat) (p : Pte) : Nat :=
  if p.key = 0 then 0
  else if keyOk s vi p then (match (Tbl.get ({} : KeySlot) s.keys p.key).keys with | some k => natOf k + 1 | none => lostSeal)
  else lostSeal

/-- The keys of a seal. -/
def sealKeys (sl : Nat) : List Byte := if sl = 0 then Config.firmwareKeys else (List.range 64).map fun i => BitVec.ofNat 8 ((sl - 1) / 256 ^ i)

/-- Whether a byte of HBM or of the tier reads as it was written: under the keys of its block's last write (R419). -/
def opens (s : State) (sl key : Nat) : Bool := sl != lostSeal && Tbl.get 0 s.seals (key / 16) == sl

/-- What a byte reads as whose block was written under other keys: its block is decrypted under the new ones from what the old ones encrypted, in the data
unit of its frame address (R419) (log entry 40). -/
def otherByte (s : State) (d old new key : Nat) : Byte :=
  let unit := key % 2 ^ 48 / 4096
  let j := key % 4096 / 16
  let block := (List.range 16).map fun i => viewByte s d (key / 16 * 16 + i)
  (Aes.unsealBlock (sealKeys new) unit j (Aes.sealBlock (sealKeys old) unit j block)).getD (key % 16) 0

/-- A byte of HBM or of the tier as a holder reads it under a seal; none where no key serves it (R419). -/
def readSealed (s : State) (d sl key : Nat) : Option Byte :=
  let old := Tbl.get 0 s.seals (key / 16)
  if sl = lostSeal || old = lostSeal then none else if old = sl then some (viewByte s d key) else some (otherByte s d old sl key)

/-- The blocks that a write of `n` bytes touches. -/
def sealedBlocks (key n : Nat) : List Nat := (List.range ((key + n + 15) / 16 - key / 16)).map (key / 16 + ·)

/-- What the rest of the blocks holds of which a write under other keys changes a part: what it reads as under the new keys; where no key serves it, free
values (R419) (log entry 40). -/
def restOfBlocks (s : State) (d sl key n : Nat) : List (Nat × Byte) :=
  if 2 ≤ keyTgt key then []
  else ((sealedBlocks key n).filter fun b => Tbl.get 0 s.seals b != sl).flatMap fun b =>
    ((List.range 16).map (b * 16 + ·)).filterMap fun k =>
      if key ≤ k && decide (k < key + n) then none else some (k, (readSealed s d sl k).getD (Config.hostByte (s.freeNo + k % 32)))

/-- The blocks of a write take its seal (R419). -/
def sealBytes (s : State) (sl key n : Nat) : State :=
  if 2 ≤ keyTgt key then s
  else { s with seals := (sealedBlocks key n).foldl (fun t b => Tbl.put 0 t b sl) s.seals }

/-- A write of `n` bytes under a seal: its blocks take the seal, and the cells of their rest go with it. -/
def sealWrite (s : State) (d sl key n : Nat) : State × List (Nat × Byte) :=
  let rest := restOfBlocks s d sl key n
  ({ (sealBytes s sl key n) with freeNo := if rest.isEmpty then s.freeNo else s.freeNo + 32 }, rest)

/-- Whether a page allows a use (R237, R253). -/
def allows (p : Pte) : Use → Bool
  | .read => p.rd
  | .write => p.wr
  | .atomic => p.rd && p.wr && p.at_

/-- The fault of an access to a page that is mapped, if it has one (R256). A fault on a pinned declared page has its own detail (R384). -/
def pageFault (s : State) (g : Grid) (va : Nat) (u : Use) (l : Leaf) : Option Nat :=
  let own := declared g l va
  let soft := if l.pte.pin && own then 5 else 2
  if l.pte.tgt = 1 || migrating s g.vi va l then some soft
  else if !own && !g.admitted.contains (pageBase l va) then some 1
  else if !allows l.pte u then some 3
  else if !keyOk s g.vi l.pte then some 4
  else none

/-- Whether the stack that holds an HBM byte takes no engine traffic (R432). -/
def stackHeld (s : State) (key : Nat) : Bool :=
  keyTgt key == 0 && (Tbl.get {} (getDie s (homeOf key)).hbmStacks (stackOf (keyFrame key) % 2)).held

/-! ## The ports that reach a peer device (R407, R412) -/

def getPort (s : State) (p : Nat) : Port := Tbl.get {} s.ports p

def modPort (s : State) (p : Nat) (f : Port → Port) : State := { s with ports := Tbl.mod {} s.ports p f }

/-- Whether a port carries flits (R410, R413). -/
def portCarries (p : Port) : Bool :=
  match p.st with
  | .up | .shed => true
  | _ => false

/-- The peer device of a physical byte of a peer page (R237). -/
def keyPeer (key : Nat) : Nat := key % 2 ^ 48 / 2 ^ 40

/-- The ports of a peer's set that are up. -/
def peerPorts (s : State) (dev : Nat) : List Nat :=
  (List.range 48).filter fun p => (Tbl.get 0 s.peers dev).getLsbD p && portCarries (getPort s p)

/-- Notes since when the set of each written peer entry has been empty (R412). -/
def notePeers (s : State) : State :=
  { s with peerDown := s.peers.foldl (fun t e =>
      if (peerPorts s e.1).isEmpty then (if Tbl.get 0 t e.1 = 0 then Tbl.put 0 t e.1 (tick s + 1) else t) else Tbl.put 0 t e.1 0) s.peerDown }

/-- Whether the way to a physical byte is closed for now: its stack takes no traffic, or no port of its peer is up (R412, R432). -/
def wayHeld (s : State) (key : Nat) : Bool := stackHeld s key || (keyTgt key == 3 && (peerPorts s (keyPeer key)).isEmpty)

/-- A port with another transmit queue: since when it has held at most 2 flits, and, of a shed port, when it passed 8 (R411). -/
def withTxq (p : Port) (l : List (Nat × List Byte)) (now : Nat) : Port :=
  { p with txq := l, lowSince := if 2 < p.txq.length && l.length ≤ 2 then now else p.lowSince,
           highSince := if p.st == .shed && 8 < l.length && p.highSince == 0 then now + 1 else p.highSince }

/-- Queues a transaction for a peer on one of the ports of its set that are up; the spec gives no layout of a transaction, so its bytes are free values
(R408, R412) (log entry 82). -/
def sendPeer (s : State) (dev : Nat) : State :=
  match peerPorts s dev with
  | [] => s
  | p :: ps =>
    let n := (p :: ps).getD (Config.choose s.freeNo % (ps.length + 1)) p
    let data := (List.range 248).map fun i => Config.peerByte (s.freeNo + 1 + i)
    let now := tick s
    modPort { s with freeNo := s.freeNo + 249 } n fun x => withTxq x (x.txq ++ [(dev, data)]) now

/-- An engine access of a grid from a die to a virtual address (R255, R256) (log entry 141). -/
def meets (s : State) (die : Nat) (g : Grid) (va : Int) (u : Use) : Meets :=
  if va < 0 || 2 ^ 57 ≤ va then .fault ⟨1, va.toNat⟩
  else
    let va := va.toNat
    match walkTree s g.vi va with
    | none => .fault ⟨1, va⟩
    | some l =>
      if !tlbHolds s die g.vi va l then .miss
      else match pageFault s g va u l with
        | some d => .fault ⟨d, va⟩
        | none => if wayHeld s (leafKey l va) then .hold else .at_ (leafKey l va) l

end Sys2Proof.Machine
end

