-- ==== Sys2Proof/Machine/Float.lean ====
section
/-! DEFINITION. Number formats (05): the IEEE formats of R90, exact values, the one rounding of R91 with the flags of R95
and R456, the flush of R92, sums and products (R93, R107), and ordering (R94, R128). -/
namespace Sys2Proof.Machine

/-- An IEEE 754 binary format: exponent bits, fraction bits (R90). -/
structure FFmt where
  ew : Nat
  fw : Nat
  deriving DecidableEq, Repr

def FFmt.f16 : FFmt := ⟨5, 10⟩
def FFmt.bf16 : FFmt := ⟨8, 7⟩
def FFmt.f32 : FFmt := ⟨8, 23⟩
def FFmt.f64 : FFmt := ⟨11, 52⟩

/-- The bias. -/
def FFmt.bias (f : FFmt) : Nat := 2 ^ (f.ew - 1) - 1

/-- The exponent of the smallest normal magnitude. -/
def FFmt.emin (f : FFmt) : Int := 1 - (f.bias : Int)

/-- The magnitude bits of infinity; every magnitude below them is finite. -/
def FFmt.infMag (f : FFmt) : Nat := (2 ^ f.ew - 1) * 2 ^ f.fw

/-- The sign bit. -/
def FFmt.signBit (f : FFmt) : Nat := 2 ^ (f.ew + f.fw)

/-- The default NaN (R90). -/
def FFmt.nan (f : FFmt) : Nat := f.infMag + 2 ^ (f.fw - 1)

/-- Bits of a sign and a magnitude. -/
def FFmt.pack (f : FFmt) (neg : Bool) (mag : Nat) : Nat := (if neg then f.signBit else 0) + mag

/-- An exact value: a NaN, an infinity, or (−1)^neg · mag · 2^exp. A zero keeps its sign. -/
inductive Num where
  | nan (sig : Bool)
  | inf (neg : Bool)
  | fin (neg : Bool) (mag : Nat) (exp : Int)
  deriving DecidableEq, Repr

/-- The value of the bits `x` in format `f`. -/
def FFmt.num (f : FFmt) (x : Nat) : Num :=
  let neg := x / f.signBit % 2 == 1
  let mag := x % f.signBit
  let e := mag / 2 ^ f.fw
  let m := mag % 2 ^ f.fw
  if f.infMag < mag then .nan (m < 2 ^ (f.fw - 1))
  else if mag = f.infMag then .inf neg
  else if e = 0 then .fin neg m (f.emin - f.fw)
  else .fin neg (2 ^ f.fw + m) (f.emin - f.fw + (e - 1 : Nat))

/-- A subnormal input read as a zero of its sign under FTZ (R92). -/
def FFmt.flushIn (f : FFmt) (ftz : Bool) (x : Nat) : Nat :=
  if ftz && x % f.signBit < 2 ^ f.fw then x / f.signBit % 2 * f.signBit else x

/-- The number of bits of `n`. -/
def bitLen (n : Nat) : Nat := if n = 0 then 0 else Nat.log2 n + 1

/-- Whether a quotient `n` with remainder `rem` out of `2^k`, and something below it where `sticky`, is rounded up in
magnitude (R91). -/
def roundsUp (r : Rnd) (neg : Bool) (n rem k : Nat) (sticky : Bool) : Bool :=
  let inexact := rem != 0 || sticky
  match r with
  | .rn => decide (2 ^ k < 2 * rem) || (2 * rem == 2 ^ k && (k != 0) && (sticky || n % 2 == 1))
  | .rz => false
  | .rd => neg && inexact
  | .ru => !neg && inexact

/-- A magnitude rounded to a multiple of 2^q: the multiple, and whether the result is inexact. Where `sticky`, the exact
magnitude lies strictly between mag · 2^e and (mag + 1) · 2^e. -/
def quantize (r : Rnd) (neg : Bool) (mag : Nat) (e : Int) (sticky : Bool) (q : Int) : Nat × Bool :=
  if q ≤ e then
    let n := mag * 2 ^ (e - q).toNat
    (n + (if roundsUp r neg n 0 0 sticky then 1 else 0), sticky)
  else
    let k := (q - e).toNat
    let n := mag / 2 ^ k
    let rem := mag % 2 ^ k
    (n + (if roundsUp r neg n rem k sticky then 1 else 0), rem != 0 || sticky)

/-- Bits and flags. -/
abbrev FRes := Nat × Flags

/-- The overflow result of R91: infinity, or the largest finite value. -/
def FFmt.overflow (f : FFmt) (r : Rnd) (neg : Bool) : Nat :=
  let inf := match r with | .rn => true | .rz => false | .rd => neg | .ru => !neg
  f.pack neg (if inf then f.infMag else f.infMag - 1)

/-- Rounds a non-zero exact magnitude once into format `f` (R91), with tininess after rounding (R456) and the flush of R92. -/
def FFmt.round (f : FFmt) (r : Rnd) (ftz : Bool) (neg : Bool) (mag : Nat) (e : Int) (sticky : Bool) : FRes :=
  let top : Int := e + bitLen mag - 1
  if top > f.emin + 2 ^ f.ew then (f.overflow r neg, Flags.of ||| Flags.nx)
  else
    let base : Int := f.emin - f.fw
    let (mag, e, sticky) : Nat × Int × Bool := if top < base - 4 then (1, base - 4, true) else (mag, e, sticky)
    let top : Int := e + bitLen mag - 1
    let q : Int := max (top - f.fw) base
    let (n, inexact) := quantize r neg mag e sticky q
    let bits := (q - base).toNat * 2 ^ f.fw + n
    let tiny := decide (top < f.emin) &&
      !(top + 1 == f.emin && (quantize r neg mag e sticky (top - f.fw)).1 == 2 ^ (f.fw + 1))
    if f.infMag ≤ bits then (f.overflow r neg, Flags.of ||| Flags.nx)
    else if ftz && bits != 0 && bits < 2 ^ f.fw then (f.pack neg 0, Flags.uf ||| Flags.nx)
    else (f.pack neg bits, Flags.when inexact Flags.nx ||| Flags.when (inexact && tiny) Flags.uf)

/-- The result of an exact value in format `f`: rounded, or the default NaN. -/
def FFmt.ofNum (f : FFmt) (r : Rnd) (ftz : Bool) : Num → FRes
  | .nan _ => (f.nan, 0)
  | .inf neg => (f.pack neg f.infMag, 0)
  | .fin neg 0 _ => (f.pack neg 0, 0)
  | .fin neg mag e => f.round r ftz neg mag e false

def Num.isNan : Num → Bool
  | .nan _ => true
  | _ => false

def Num.isSig : Num → Bool
  | .nan true => true
  | _ => false

def Num.isZero : Num → Bool
  | .fin _ 0 _ => true
  | _ => false

def Num.isInf : Num → Bool
  | .inf _ => true
  | _ => false

def Num.neg? : Num → Bool
  | .nan _ => false
  | .inf n => n
  | .fin n _ _ => n

/-- The value with its sign changed. -/
def Num.negate : Num → Num
  | .nan s => .nan s
  | .inf n => .inf (!n)
  | .fin n m e => .fin (!n) m e

/-- The exact product; 0 × ∞ is a NaN, and is invalid even beside a NaN elsewhere (R93). -/
def Num.mul (a b : Num) : Num × Bool :=
  match a, b with
  | .nan s, .nan t => (.nan (s || t), false)
  | .nan s, _ => (.nan s, false)
  | _, .nan s => (.nan s, false)
  | .inf n, .inf m => (.inf (n != m), false)
  | .inf n, .fin m k _ => if k = 0 then (.nan false, true) else (.inf (n != m), false)
  | .fin m k _, .inf n => if k = 0 then (.nan false, true) else (.inf (n != m), false)
  | .fin n x e, .fin m y d => (.fin (n != m) (x * y) (e + d), false)

/-- The least exponent among finite values. -/
def minExp : List Num → Int
  | [] => 0
  | [.fin _ _ e] => e
  | .fin _ _ e :: t => min e (minExp t)
  | _ :: t => minExp t

/-- The exact sum of finite values in units of 2^base. -/
def sumFin (base : Int) : List Num → Int
  | [] => 0
  | .fin neg m e :: t =>
    let x : Int := m * 2 ^ (e - base).toNat
    (if neg then -x else x) + sumFin base t
  | _ :: t => sumFin base t

/-- The exact sum of several terms: its value and whether infinities of opposite sign meet. An exact zero takes the sign that
all terms share where all are zero, else −0 under RD and +0 otherwise: R127 states it for FADD, FSUB and FFMA; for FDOT2, NDOT4 and the sums of R107 it
is the model's choice (DESIGN CHOICE, log entry 131). -/
def sumNum (r : Rnd) (ts : List Num) : Num × Bool :=
  let pos := ts.any (fun t => t == .inf false)
  let neg := ts.any (fun t => t == .inf true)
  if pos && neg then (.nan false, true)
  else if ts.any Num.isNan then (.nan false, false)
  else if pos then (.inf false, false)
  else if neg then (.inf true, false)
  else
    let base := minExp ts
    let s := sumFin base ts
    if s = 0 then
      if ts.all (fun t => t.isZero && t.neg?) then (.fin true 0 0, false)
      else if ts.all (fun t => t.isZero && !t.neg?) then (.fin false 0 0, false)
      else (.fin (r == .rd) 0 0, false)
    else (.fin (decide (s < 0)) s.natAbs base, false)

/-- The rounded sum of products and terms in format `f`, with the NV rules of R93. `ps` are the products. -/
def FFmt.sumOf (f : FFmt) (r : Rnd) (ftz : Bool) (ps : List (Num × Num)) (ts : List Num) : FRes :=
  let prods := ps.map (fun p => p.1.mul p.2)
  let sig := ts.any Num.isSig || ps.any (fun p => p.1.isSig || p.2.isSig)
  let (v, opp) := sumNum r (prods.map (·.1) ++ ts)
  let (x, fl) := f.ofNum r ftz v
  (x, fl ||| Flags.when (sig || opp || prods.any (·.2)) Flags.nv)

/-- a + b. -/
def FFmt.add (f : FFmt) (r : Rnd) (ftz : Bool) (a b : Nat) : FRes :=
  f.sumOf r ftz [] [f.num (f.flushIn ftz a), f.num (f.flushIn ftz b)]

/-- a − b. -/
def FFmt.sub (f : FFmt) (r : Rnd) (ftz : Bool) (a b : Nat) : FRes :=
  f.sumOf r ftz [] [f.num (f.flushIn ftz a), (f.num (f.flushIn ftz b)).negate]

/-- a × b. -/
def FFmt.mul (f : FFmt) (r : Rnd) (ftz : Bool) (a b : Nat) : FRes :=
  f.sumOf r ftz [(f.num (f.flushIn ftz a), f.num (f.flushIn ftz b))] []

/-- a × b + c with the product unrounded. -/
def FFmt.fma (f : FFmt) (r : Rnd) (ftz : Bool) (a b c : Nat) : FRes :=
  f.sumOf r ftz [(f.num (f.flushIn ftz a), f.num (f.flushIn ftz b))] [f.num (f.flushIn ftz c)]

/-- A key that orders non-NaN bits with −0 below +0 (R94). -/
def FFmt.key (f : FFmt) (x : Nat) : Int :=
  let mag : Int := (x % f.signBit : Nat)
  if x / f.signBit % 2 = 1 then -mag - 1 else mag

/-- A key that orders non-NaN bits with −0 equal to +0 (R128). -/
def FFmt.numKey (f : FFmt) (x : Nat) : Int :=
  let mag : Int := (x % f.signBit : Nat)
  if x / f.signBit % 2 = 1 then -mag else mag

/-- The smaller (or the larger) of two by R94. -/
def FFmt.minmax (f : FFmt) (larger prop ftz : Bool) (a b : Nat) : FRes :=
  let a := f.flushIn ftz a
  let b := f.flushIn ftz b
  let na := f.num a
  let nb := f.num b
  let fl := Flags.when (na.isSig || nb.isSig) Flags.nv
  if na.isNan && nb.isNan then (f.nan, fl)
  else if na.isNan then (if prop then f.nan else b, fl)
  else if nb.isNan then (if prop then f.nan else a, fl)
  else if larger then (if f.key a < f.key b then b else a, fl)
  else (if f.key b < f.key a then b else a, fl)

/-- The comparison of R128. -/
def FFmt.compare (f : FFmt) (c : FCmp) (ftz : Bool) (a b : Nat) : Bool × Flags :=
  let a := f.flushIn ftz a
  let b := f.flushIn ftz b
  let un := (f.num a).isNan || (f.num b).isNan
  let fl := Flags.when ((f.num a).isSig || (f.num b).isSig) Flags.nv
  let x := f.numKey a
  let y := f.numKey b
  let r := match c with
    | .eq => !un && x == y
    | .ne => un || x != y
    | .lt => !un && decide (x < y)
    | .le => !un && decide (x ≤ y)
    | .gt => !un && decide (y < x)
    | .ge => !un && decide (y ≤ x)
    | .num => !un
    | .nan => un
  (r, fl)

/-- The class of R129 as a bit number. -/
def FFmt.classBit (f : FFmt) (x : Nat) : Nat :=
  match f.num x with
  | .nan sig => if sig then 8 else 9
  | .inf neg => if neg then 0 else 7
  | .fin neg m _ =>
    if m = 0 then (if neg then 3 else 4)
    else if x % f.signBit < 2 ^ f.fw then (if neg then 2 else 5)
    else if neg then 1 else 6

/-- The value rounded to an integral value in the RND direction; no NX (R127). -/
def FFmt.integral (f : FFmt) (r : Rnd) (ftz : Bool) (x : Nat) : FRes :=
  match f.num (f.flushIn ftz x) with
  | .nan sig => (f.nan, Flags.when sig Flags.nv)
  | .inf neg => (f.pack neg f.infMag, 0)
  | .fin neg 0 _ => (f.pack neg 0, 0)
  | .fin neg mag e =>
    if 0 ≤ e then (f.flushIn ftz x, 0)
    else
      let n := (quantize r neg mag e false 0).1
      if n = 0 then (f.pack neg 0, 0) else ((f.round .rz false neg n 0 false).1, 0)

/-- a × 2^n, with n clamped to ±300 (R127, R142; the clamp holds for F32). -/
def FFmt.scale (f : FFmt) (r : Rnd) (ftz : Bool) (x : Nat) (n : Int) : FRes :=
  let n := max (-300) (min 300 n)
  match f.num (f.flushIn ftz x) with
  | .nan sig => (f.nan, Flags.when sig Flags.nv)
  | .inf neg => (f.pack neg f.infMag, 0)
  | .fin neg 0 _ => (f.pack neg 0, 0)
  | .fin neg mag e => f.round r ftz neg mag (e + n) false

end Sys2Proof.Machine
end

