-- ==== Sys2Proof/Machine/Convert.lean ====
section
/-! DEFINITION. Conversions among integers and IEEE formats (R97, R135), narrow formats (R98 to R101, R133, R137), and the element
moves of R138. -/
namespace Sys2Proof.Machine

/-- The IEEE format of a type code; none for an integer type (R73). -/
def tyFmt : Ty → Option FFmt
  | .f16 => some .f16 | .bf16 => some .bf16 | .f32 => some .f32 | .f64 => some .f64
  | _ => none

/-- The width of an integer type and whether it is signed. -/
def tyInt : Ty → Nat × Bool
  | .i8 => (8, true) | .i16 => (16, true) | .i32 => (32, true) | .n8 => (8, false) | .n16 => (16, false) | _ => (32, false)

/-- The low `w` bits of `x`, read as two's complement where `signed`. -/
def readInt (w : Nat) (signed : Bool) (x : Nat) : Int :=
  let m := x % 2 ^ w
  if signed && 2 ^ (w - 1) ≤ m then (m : Int) - 2 ^ w else m

/-- The least and the greatest value of an integer type. -/
def intRange (w : Nat) (signed : Bool) : Int × Int :=
  if signed then (-(2 ^ (w - 1)), 2 ^ (w - 1) - 1) else (0, 2 ^ w - 1)

/-- An integer as the 32 bits of a register: wrapped to its type, and extended (R135). -/
def writeInt (w : Nat) (signed : Bool) (v : Int) : Nat := (readInt w signed (v % 2 ^ w).toNat % 2 ^ 32).toNat

/-- The indefinite value of R97. -/
def indefinite (w : Nat) (signed : Bool) : Int := if signed then -(2 ^ (w - 1)) else 2 ^ w - 1

/-- The integral magnitude of a finite value in the RND direction, and whether rounding changed it. The exponent of a value far
above every integer type is cut. -/
def toInteger (r : Rnd) (neg : Bool) (mag : Nat) (e : Int) : Int × Bool :=
  let (n, inexact) := quantize r neg mag (min e 80) false 0
  (if neg then -(n : Int) else n, inexact)

/-- A float converted to an integer type (R97). -/
def floatToInt (w : Nat) (signed sat : Bool) (r : Rnd) (v : Num) : Nat × Flags :=
  let (lo, hi) := intRange w signed
  let out := fun (x : Int) => writeInt w signed x
  match v with
  | .nan _ => (out (if sat then 0 else indefinite w signed), Flags.nv)
  | .inf neg => if sat then (out (if neg then lo else hi), Flags.sat) else (out (indefinite w signed), Flags.nv)
  | .fin neg mag e =>
    let (x, inexact) := toInteger r neg mag e
    if lo ≤ x && x ≤ hi then (out x, Flags.when inexact Flags.nx)
    else if sat then (out (if x < lo then lo else hi), Flags.sat ||| Flags.nx)
    else (out (indefinite w signed), Flags.nv)

/-- An integer converted to a float: rounded by R91. -/
def intToFloat (f : FFmt) (r : Rnd) (ftz : Bool) (v : Int) : FRes := f.ofNum r ftz (.fin (decide (v < 0)) v.natAbs 0)

/-- A float converted to a float (R135). Whatever the widths, the exact value is rounded by R91; a value the destination holds is
delivered exactly (log entry 137). -/
def floatToFloat (dst : FFmt) (sat : Bool) (r : Rnd) (ftz : Bool) (v : Num) : FRes :=
  let (x, fl) := dst.ofNum r ftz v
  let fl := fl ||| Flags.when v.isSig Flags.nv
  if sat && !v.isInf && fl &&& Flags.of != 0 then
    (dst.pack v.neg? (dst.infMag - 1), (fl &&& ~~~Flags.of) ||| Flags.sat ||| Flags.nx)
  else (x, fl)

/-- CVT of the source bits (R135). -/
def cvtBits (dst src : Ty) (sat ftz : Bool) (r : Rnd) (x : Nat) : FRes :=
  match tyFmt src, tyFmt dst with
  | none, none =>
    let v := readInt (tyInt src).1 (tyInt src).2 x
    let (w, sg) := tyInt dst
    let (lo, hi) := intRange w sg
    if sat && (v < lo || hi < v) then (writeInt w sg (if v < lo then lo else hi), Flags.sat) else (writeInt w sg v, 0)
  | none, some f => intToFloat f r ftz (readInt (tyInt src).1 (tyInt src).2 x)
  | some f, none =>
    let x := x % (2 * f.signBit)
    floatToInt (tyInt dst).1 (tyInt dst).2 sat r (f.num (f.flushIn ftz x))
  | some f, some d =>
    let x := x % (2 * f.signBit)
    floatToFloat d sat r ftz (f.num (f.flushIn ftz x))

/-- CVTW: two conversions into the halves of one register (R136). -/
def cvtwBits (dst src : Ty) (sat ftz : Bool) (r : Rnd) (a b : Nat) : FRes :=
  let (x, f) := cvtBits dst src sat ftz r a
  let (y, g) := cvtBits dst src sat ftz r b
  (x % 2 ^ 16 + 2 ^ 16 * (y % 2 ^ 16), f ||| g)

/-- Special values of a narrow format (R98). -/
inductive NSpec where
  | fin | nan1 | ieee
  deriving DecidableEq, Repr

/-- A narrow-format descriptor (R98). -/
structure NFmt where
  satc : Bool
  width : Nat
  spec : NSpec
  bias : Nat
  m : Nat
  e : Nat
  s : Bool
  deriving DecidableEq, Repr

/-- The descriptor of a 32-bit value; none where R99 makes it illegal. -/
def nfmtOf (w : Nat) : Option NFmt :=
  let width := w / 2 ^ 17 % 4
  let spec := w / 2 ^ 15 % 4
  let d : NFmt :=
    { satc := w / 2 ^ 19 % 2 == 1, width := if width = 0 then 4 else if width = 1 then 6 else 8,
      spec := if spec = 0 then .fin else if spec = 1 then .nan1 else .ieee,
      bias := w / 2 ^ 7 % 2 ^ 8, m := w / 2 ^ 4 % 8, e := w / 2 % 8, s := w % 2 == 1 }
  if width = 3 || spec = 3 || 2 ^ 20 ≤ w % 2 ^ 32 || (if d.s then 1 else 0) + d.e + d.m ≠ d.width ||
      (d.e = 0 && (d.bias ≠ 0 || d.spec ≠ .fin)) then none
  else some d

/-- The value of an element code (R100). A narrow NaN is quiet: it has no signalling kind (R133). -/
def NFmt.num (d : NFmt) (x : Nat) : Num :=
  let x := x % 2 ^ d.width
  let neg := d.s && x / 2 ^ (d.width - 1) == 1
  if d.e = 0 then
    let v := readInt d.width d.s x
    .fin (decide (v < 0)) v.natAbs 0
  else
    let e := x / 2 ^ d.m % 2 ^ d.e
    let m := x % 2 ^ d.m
    let emax := 2 ^ d.e - 1
    if d.spec = .nan1 && e = emax && m = 2 ^ d.m - 1 then .nan false
    else if d.spec = .ieee && e = emax then (if m = 0 then .inf neg else .nan false)
    else if e = 0 then .fin neg m (1 - (d.bias : Int) - d.m)
    else .fin neg (2 ^ d.m + m) ((e : Int) - d.bias - d.m)

/-- The magnitude code of the largest finite value, for E ≥ 1. -/
def NFmt.maxFin (d : NFmt) : Nat :=
  match d.spec with
  | .fin => 2 ^ (d.e + d.m) - 1
  | .nan1 => 2 ^ (d.e + d.m) - 2
  | .ieee => (2 ^ d.e - 1) * 2 ^ d.m - 1

/-- The canonical NaN, where the format has one (R100). -/
def NFmt.canonNan (d : NFmt) : Option Nat :=
  match d.spec with
  | .fin => none
  | .nan1 => some (2 ^ (d.e + d.m) - 1)
  | .ieee => if 1 ≤ d.m then some ((2 ^ d.e - 1) * 2 ^ d.m + 2 ^ (d.m - 1)) else none

/-- The code of a sign and a magnitude code. -/
def NFmt.pack (d : NFmt) (neg : Bool) (mag : Nat) : Nat := (if d.s && neg then 2 ^ (d.width - 1) else 0) + mag

/-- Rounds a finite magnitude to a magnitude code, however large: the code, whether it is inexact, and whether the value is tiny. -/
def NFmt.roundMag (d : NFmt) (r : Rnd) (neg : Bool) (mag : Nat) (e : Int) : Nat × Bool × Bool :=
  let emin : Int := 1 - (d.bias : Int)
  let base : Int := emin - d.m
  let top : Int := e + bitLen mag - 1
  let q : Int := max (top - d.m) base
  let (n, inexact) := quantize r neg mag e false q
  let tiny := decide (top < emin) &&
    !(top + 1 == emin && (quantize r neg mag e false (top - d.m)).1 == 2 ^ (d.m + 1))
  ((q - base).toNat * 2 ^ d.m + n, inexact, tiny)

/-- Encodes a value into a narrow format (R101). `sat` is SATC or the instruction's SAT bit. A source of −0.0 counts as negative (DESIGN CHOICE, log
entry 130). -/
def NFmt.encode (d : NFmt) (r : Rnd) (sat : Bool) (v : Num) : Nat × Flags :=
  let sat := sat || d.satc
  if d.e = 0 then
    match v with
    | .nan _ => (0, Flags.nv)
    | v => 
      let (x, fl) := floatToInt d.width d.s sat r v
      (x % 2 ^ d.width, fl)
  else
    let toNan := match d.canonNan with | some c => c | none => 0
    let inf := (2 ^ d.e - 1) * 2 ^ d.m
    match v with
    | .nan _ => (toNan, Flags.when d.canonNan.isNone Flags.nv)
    | .inf neg =>
      if neg && !d.s then (if sat then (0, Flags.sat) else (toNan, Flags.nv))
      else if sat then (d.pack neg d.maxFin, Flags.sat)
      else match d.spec with
        | .ieee => (d.pack neg inf, 0)
        | .nan1 => (toNan, Flags.nv)
        | .fin => (d.pack neg d.maxFin, Flags.nv)
    | .fin neg mag e =>
      if mag = 0 then (d.pack neg 0, 0)
      else
        let (code, inexact, tiny) := d.roundMag r neg mag e
        if code = 0 then
          (d.pack neg 0, Flags.when inexact Flags.nx ||| Flags.when (inexact && tiny) Flags.uf)
        else if neg && !d.s then
          (if sat then (0, Flags.sat ||| Flags.nx) else (toNan, Flags.nv))
        else if code ≤ d.maxFin then
          (d.pack neg code, Flags.when inexact Flags.nx ||| Flags.when (inexact && tiny) Flags.uf)
        else if sat then (d.pack neg d.maxFin, Flags.sat ||| Flags.nx)
        else
          let outside := match r with | .rn => true | .rz => false | .rd => neg | .ru => !neg
          match d.spec with
          | .ieee => (d.pack neg (if outside then inf else d.maxFin), Flags.of ||| Flags.nx)
          | .nan1 => (toNan, Flags.of ||| Flags.nx)
          | .fin => (d.pack neg d.maxFin, Flags.of ||| Flags.nx)

/-- Element `j` of a register under a narrow format (R104). -/
def NFmt.element (d : NFmt) (x j : Nat) : Num :=
  if d.width = 4 then d.num (x / 2 ^ (4 * j)) else d.num (x / 2 ^ (8 * j))

/-- CVTN (R137); none for FORMAT. -/
def cvtnBits (from_ sat : Bool) (r : Rnd) (x fmt : Nat) : Option FRes :=
  (nfmtOf fmt).map fun d =>
    if from_ then FFmt.f32.ofNum r false (d.num x)
    else
      let v := FFmt.f32.num x
      let (c, fl) := d.encode r sat v
      (c, fl ||| Flags.when v.isSig Flags.nv)

/-- NDOT4 (R133); none for FORMAT. Its zero sums have the signs of `sumNum`, where a product of a zero and a negative integer element is −0 (DESIGN
CHOICE, log entry 131). -/
def ndot4Bits (r : Rnd) (ftz : Bool) (a b c fmt : Nat) : Option FRes :=
  (nfmtOf fmt).map fun d =>
    FFmt.f32.sumOf r ftz ([0, 1, 2, 3].map fun j => (d.element a j, d.element b j))
      [FFmt.f32.num (FFmt.f32.flushIn ftz c)]

/-- The halves of a packed register in a 16-bit format. -/
def halfOf (x j : Nat) : Nat := x / 2 ^ (16 * j) % 2 ^ 16

/-- A packed operation: each half on its own, flags combined with OR (R91, R131). -/
def packed (h : Nat → FRes) : FRes :=
  let (x, f) := h 0
  let (y, g) := h 1
  (x % 2 ^ 16 + 2 ^ 16 * (y % 2 ^ 16), f ||| g)

/-- The half format of BF. -/
def halfFmt (bf : Bool) : FFmt := if bf then .bf16 else .f16

/-- FDOT2 (R132). -/
def fdot2Bits (bf : Bool) (r : Rnd) (ftz : Bool) (a b c : Nat) : FRes :=
  let h := halfFmt bf
  let v := fun (x j : Nat) => h.num (h.flushIn ftz (halfOf x j))
  FFmt.f32.sumOf r ftz [(v a 0, v b 0), (v a 1, v b 1)] [FFmt.f32.num (FFmt.f32.flushIn ftz c)]

/-- The width of an element (R138). -/
def eszBits : Esz → Nat
  | .w4 => 4 | .w8 => 8 | .w16 => 16

/-- PACK (R138). -/
def packBits (e : Esz) (sat : Bool) (a j c : Nat) : FRes :=
  let w := eszBits e
  let k := j % (32 / w)
  let s := readInt 32 true a
  let lo : Int := -(2 ^ (w - 1))
  let hi : Int := 2 ^ (w - 1) - 1
  let clamp := sat && (s < lo || hi < s)
  let v := if clamp then ((if s < lo then lo else hi) % 2 ^ w).toNat else a % 2 ^ w
  let old := c / 2 ^ (w * k) % 2 ^ w
  (c - old * 2 ^ (w * k) + v * 2 ^ (w * k), Flags.when clamp Flags.sat)

/-- UNPACK (R138). -/
def unpackBits (e : Esz) (a j : Nat) : Nat :=
  let w := eszBits e
  a / 2 ^ (w * (j % (32 / w))) % 2 ^ w

end Sys2Proof.Machine
end

