-- ==== Sys2Proof/Machine/Lines.lean ====
section
/-! DEFINITION. Reservation records and the operand lines that an MMA reads through them (R102, R103, R105, R223, R224, R284, R285), and what a
write of the operand buffer does to outstanding MMAs (R277, R278). -/
namespace Sys2Proof.Machine

/-! ## Records (R223, R224) -/

/-- A reservation record (R223). -/
def rsvRec (w : Nat) : RsvRec :=
  { fmt := BitVec.ofNat 32 w, base16 := w / 2 ^ 32 % 2 ^ 15, pitch16 := w / 2 ^ 47 % 2 ^ 12, scl := w / 2 ^ 59 % 2 == 1,
    lblk := w / 2 ^ 60 % 4, kind := w / 2 ^ 62 % 4, size16 := w / 2 ^ 64 % 2 ^ 16, doff16 := w / 2 ^ 80 % 2 ^ 16,
    soff16 := w / 2 ^ 96 % 2 ^ 16, poff16 := w / 2 ^ 112 % 2 ^ 16 }

/-- The narrow format of a record of kind 00. -/
def RsvRec.nfmt (r : RsvRec) : Option NFmt := if r.kind = 0 then nfmtOf r.fmt.toNat else none

/-- Whether a record holds 6-bit elements. -/
def RsvRec.six (r : RsvRec) : Bool := match r.nfmt with | some d => d.width == 6 | none => false

/-- The check of R224 in a window of `wo` bytes. -/
def RsvRec.check (r : RsvRec) (wo : Nat) : Option TrapCode :=
  if (if r.kind = 0 then r.nfmt.isNone else r.fmt != 0) || (r.scl && r.kind != 0) || (!r.scl && r.lblk != 0) ||
      (r.poff16 != 0 && !r.six) then some .format
  else if r.size16 = 0 || 32768 < r.size16 || wo < 16 * (r.base16 + r.size16) || r.size16 ≤ r.doff16 ||
      (r.scl && r.size16 ≤ r.soff16) || (r.six && r.size16 ≤ r.poff16) then some .bounds
  else none

/-! ## Lines (R285) -/

/-- The width of a record's elements. -/
def RsvRec.width (r : RsvRec) : Nat := match r.nfmt with | some d => d.width | none => 16

/-- The line length P (R285). -/
def RsvRec.lineLen (r : RsvRec) : Nat := r.pitch16 * (if r.width = 16 then 8 else if r.width = 8 then 16 else 32)

/-- The first byte of the elements or nibbles, of the 2-bit plane and of the scales; and the end of the range. -/
def RsvRec.data (r : RsvRec) : Nat := 16 * (r.base16 + r.doff16)
def RsvRec.plane (r : RsvRec) : Nat := 16 * (r.base16 + r.poff16)
def RsvRec.scales (r : RsvRec) : Nat := 16 * (r.base16 + r.soff16)
def RsvRec.limit (r : RsvRec) : Nat := 16 * (r.base16 + r.size16)

/-- The scale block length L; 32 where a record has no scales (R105). -/
def RsvRec.block (r : RsvRec) : Nat := if r.scl then 8 * 2 ^ r.lblk else 32

/-- ⌈a/b⌉. -/
def ceilDiv (a b : Nat) : Nat := (a + b - 1) / b

/-- The byte of the scale of element `k` of line `q` (R105, R285). -/
def RsvRec.scaleByte (r : RsvRec) (q k : Nat) : Nat := r.scales + q * ceilDiv r.lineLen r.block + k / r.block

/-- The byte of element `e` in the data, and in the 2-bit plane (R102, R103). -/
def RsvRec.dataByte (r : RsvRec) (e : Nat) : Nat :=
  r.data + (if r.width = 16 then 2 * e else if r.width = 8 then e else e / 2)
def RsvRec.planeByte (r : RsvRec) (e : Nat) : Nat := r.plane + e / 4

/-- The runs of bytes, first and past the last, that elements `k0` to `k0 + n − 1` of line `q` read: data, 2-bit plane, scales (R285). -/
def RsvRec.spans (r : RsvRec) (q k0 n : Nat) : List (Nat × Nat) :=
  let e0 := q * r.lineLen + k0
  let e1 := e0 + n - 1
  [(r.dataByte e0, r.dataByte e1 + (if r.width = 16 then 2 else 1))] ++
    (if r.six then [(r.planeByte e0, r.planeByte e1 + 1)] else []) ++
    (if r.scl then [(r.scaleByte q k0, r.scaleByte q (k0 + n - 1) + 1)] else [])

/-- Whether a line is valid (R285). -/
def RsvRec.lineOk (r : RsvRec) (q k0 n : Nat) : Bool :=
  decide (k0 + n ≤ r.lineLen) && (r.spans q k0 n).all fun sp => decide (sp.2 ≤ r.limit)

/-- Whether elements of a line read a byte, or read it in two planes (R103). -/
def inSpan (b : Nat) (sp : Nat × Nat) : Bool := decide (sp.1 ≤ b) && decide (b < sp.2)
def RsvRec.reads (r : RsvRec) (q k0 n b : Nat) : Bool := (r.spans q k0 n).any (inSpan b)

/-- The code of element `e`, from bytes of the window (R102, R103). -/
def RsvRec.code (r : RsvRec) (rd : Nat → Byte) (e : Nat) : Nat :=
  let b := (rd (r.dataByte e)).toNat
  if r.width = 16 then b + 256 * (rd (r.dataByte e + 1)).toNat
  else if r.width = 8 then b
  else
    let h := b / 16 ^ (e % 2) % 16
    if r.width = 4 then h else 4 * h + (rd (r.planeByte e)).toNat / 4 ^ (e % 4) % 4

/-- The value of a code (R100, R223). -/
def RsvRec.value (r : RsvRec) (x : Nat) : Num :=
  match r.nfmt with
  | some d => d.num x
  | none => if r.kind = 1 then FFmt.f16.num x else FFmt.bf16.num x

/-- The scale of element `k` of line `q` (R105). -/
def RsvRec.scale (r : RsvRec) (rd : Nat → Byte) (q k : Nat) : Num :=
  if r.scl then
    let e := (rd (r.scaleByte q k)).toNat
    if e = 255 then .nan false else .fin false 1 ((e : Int) - 127)
  else .fin false 1 0

/-! ## The operands of an MMA (R284, R286) -/

/-- K for a pairing of records; none for FORMAT (R284). -/
def pairingK (a b : RsvRec) : Option Nat :=
  if a.kind = 3 || b.kind = 3 then none
  else if a.width = 16 || b.width = 16 then (if a.width = b.width then some 32 else none)
  else if a.width = 4 || b.width = 4 then (if a.width = b.width then some 128 else none)
  else some 64

/-- The R301 figure of a pairing in pJ. -/
def pairingPj (a b : RsvRec) : Nat :=
  if a.width = 16 then 8200 else if a.width = 4 then 6800 else if a.width = 6 && b.width = 6 then 5600 else 6400

/-- The 32 B lines of an MMA (R286). -/
def bLines (bcol : Nat) : List Nat := (List.range 32).map (32 * bcol + ·)

/-- The runs of window bytes that an MMA reads. -/
def Mma.spans (m : Mma) : List (Nat × Nat) :=
  (m.rows.flatMap fun q => m.recA.spans q m.ak m.k) ++ (bLines m.bcol).flatMap fun q => m.recB.spans q m.bk m.k

/-- Whether element (i, j) of the product uses a byte of a list. -/
def Mma.uses (m : Mma) (bytes : List Nat) (i j : Nat) : Bool :=
  bytes.any fun b => m.recA.reads (m.rows.getD i 0) m.ak m.k b || m.recB.reads (32 * m.bcol + j) m.bk m.k b

/-- The common bytes of two runs, if any. -/
def meetSpans (a b : Nat × Nat) : Option (Nat × Nat) := if max a.1 b.1 < min a.2 b.2 then some (max a.1 b.1, min a.2 b.2) else none

/-- The bytes that lie in the nibble plane and in the 2-bit plane of 6-bit lines 0 to the highest of a list (R103) (log entry 42). -/
def overlapOf (r : RsvRec) (qs : List Nat) : Option (Nat × Nat) :=
  if r.six then
    let n := (qs.foldl max 0 + 1) * r.lineLen
    meetSpans (r.data, r.dataByte n) (r.plane, r.planeByte n)
  else none

/-- The elements of a product that overlapping planes leave undefined (R103). -/
def Mma.blurred (m : Mma) : List (Nat × Nat) :=
  let oa := overlapOf m.recA m.rows
  let ob := overlapOf m.recB (bLines m.bcol)
  let hit := fun (o : Option (Nat × Nat)) (r : RsvRec) (q k0 : Nat) => o.any fun o => ((r.spans q k0 m.k).take 2).any fun sp => (meetSpans sp o).isSome
  if oa.isNone && ob.isNone then []
  else (List.range 64).flatMap fun i => ((List.range 32).filter fun j =>
    hit oa m.recA (m.rows.getD i 0) m.ak || hit ob m.recB (32 * m.bcol + j) m.bk).map fun j => (i, j)

/-! ## The matrix unit of a pair -/

def getPair (s : State) (p : Nat) : PairUnit := Tbl.get {} s.pairs p
def modPair (s : State) (p : Nat) (f : PairUnit → PairUnit) : State := { s with pairs := Tbl.mod {} s.pairs p f }
def ctxAt (u : PairUnit) (n : Nat) : Ctx := if n = 0 then u.c0 else u.c1
def getCtx (s : State) (p n : Nat) : Ctx := ctxAt (getPair s p) n
def modCtx (s : State) (p n : Nat) (f : Ctx → Ctx) : State :=
  modPair s p fun u => if n = 0 then { u with c0 := f u.c0 } else { u with c1 := f u.c1 }

/-- The number of an element of a tile. -/
def elemKey (i j : Nat) : Nat := 32 * i + j

/-- The tile that a physical pair holds, and a change of it. -/
def tileOfPair (c : Ctx) (p : Nat) : Tbl Word := Tbl.get [] c.tiles p
def modTile (c : Ctx) (p : Nat) (f : Tbl Word → Tbl Word) : Ctx := { c with tiles := Tbl.mod [] c.tiles p f }

/-- The elements of a product that use a byte of a list. -/
def Mma.undefined (m : Mma) (bytes : List Nat) : List (Nat × Nat) :=
  if bytes.isEmpty then []
  else (List.range 64).flatMap fun i => ((List.range 32).filter fun j => m.uses bytes i j).map fun j => (i, j)

/-- Elements of a tile that hold undefined values: free ones, numbered from `n` (R5, R278). -/
def freeElems (t : Tbl Word) (n : Nat) (es : List (Nat × Nat)) : Tbl Word :=
  es.foldl (fun t e => Tbl.put 0 t (elemKey e.1 e.2) (Config.freeWord (n + elemKey e.1 e.2))) t

/-! ## Writes of the operand buffer -/

/-- Adds the value that a byte held before write `n` to what it may still be seen to hold (R277). -/
def keepOld (t : Team) (n b : Nat) : Team :=
  let x := Tbl.get 0 t.ob b
  let l := (Tbl.get [] t.obOld b).filter fun e => e.2 != x
  { t with obOld := Tbl.set t.obOld b (l ++ [(n, x)]) }

/-- The write number of the next operand-buffer write, and the older values of its bytes. -/
def keepOlds (t : Team) (bytes : List Nat) : Team :=
  let n := t.obNo + 1
  bytes.foldl (fun t b => keepOld t n b) { t with obNo := n }

/-- An outstanding MMA after a write of operand-buffer bytes: elements that use such a byte are undefined. Where it has retired already, its tile shows
that at once, but for the elements that a later TSET has written (R278) (log entry 43). -/
def dirtyMma (bytes : List Nat) (free : Nat) (c : Ctx) (m : Mma) : Ctx :=
  let bs := bytes.filter fun b => m.spans.any (inSpan b)
  if m.waited || bs.isEmpty then { c with mmas := c.mmas ++ [m] }
  else
    let c := { c with mmas := c.mmas ++ [{ m with dirty := m.dirty ++ bs }] }
    if m.st = .retired then
      modTile c m.pair fun t => freeElems t free ((m.undefined bs).filter fun e => !(m.settled.contains (elemKey e.1 e.2)))
    else c

/-- Notes that a TSET has written elements of a pair, for the MMAs that have retired there (R278, R289). -/
def markSet (c : Ctx) (pair : Nat) (keys : List Nat) : Ctx :=
  { c with mmas := c.mmas.map fun m => if m.pair = pair && m.st == .retired then { m with settled := m.settled ++ keys } else m }

end Sys2Proof.Machine
end

