-- ==== Sys2Proof/Machine/Special.lean ====
section
/-! DEFINITION. The special functions of R139 and R140, correctly rounded to nearest-even F32. A transcendental value is
computed as a fixed-point number with `fxBits` fraction bits together with a bound on its error in units of the last place, and both
ends of the enclosure are rounded. -/
namespace Sys2Proof.Machine

/-- Fraction bits of the fixed-point values. -/
def fxBits : Nat := 512

/-- The fixed-point value 1. -/
def fxOne : Int := 2 ^ fxBits

/-- A fixed-point product, rounded down. -/
def fxMul (a b : Int) : Int := a * b / fxOne

/-- The integer square root of `n`, bit by bit from 2^(k-1) down. -/
def isqrtGo (n : Nat) : Nat → Nat → Nat
  | 0, r => r
  | k + 1, r => if (r + 2 ^ k) * (r + 2 ^ k) ≤ n then isqrtGo n k (r + 2 ^ k) else isqrtGo n k r

def isqrt (n : Nat) : Nat := isqrtGo n (bitLen n / 2 + 1) 0

/-- A result between `lo` and `lo + 1` units of 2^e: exact where `exact`. -/
def f32Of (neg : Bool) (lo : Nat) (e : Int) (exact : Bool) : FRes := FFmt.f32.round .rn false neg lo e (!exact)

/-- 1/x of a non-zero magnitude. -/
def rcpMag (neg : Bool) (mag : Nat) (e : Int) : FRes :=
  let k : Nat := bitLen mag + 60
  f32Of neg (2 ^ k / mag) (-e - k) (2 ^ k % mag == 0)

/-- √x of a positive magnitude. -/
def sqrtMag (mag : Nat) (e : Int) : FRes :=
  let m := if e % 2 = 0 then mag * 2 ^ 60 else mag * 2 ^ 61
  let r := isqrt m
  f32Of false r ((if e % 2 = 0 then e - 60 else e - 61) / 2) (r * r == m)

/-- 1/√x of a positive magnitude. -/
def rsqMag (mag : Nat) (e : Int) : FRes :=
  let m := if e % 2 = 0 then mag else mag * 2
  let e' := if e % 2 = 0 then e else e - 1
  let k : Nat := 120
  let r := isqrt (2 ^ (2 * k) / m)
  f32Of false r (-(e' / 2) - k) (r * r * m == 2 ^ (2 * k))

/-- The sum of a series whose term `t` becomes `next n t`, for `fuel` terms. -/
def series (next : Nat → Int → Int) : Nat → Nat → Int → Int
  | 0, _, _ => 0
  | k + 1, n, t => t + series next k (n + 1) (next n t)

/-- arctan(1/q) in fixed point: Σ (−1)^n / ((2n + 1) q^(2n + 1)). -/
def atanInvGo (q : Int) : Nat → Nat → Int → Int
  | 0, _, _ => 0
  | k + 1, n, p => (if n % 2 = 0 then 1 else -1) * (p / (2 * n + 1 : Nat)) + atanInvGo q k (n + 1) (p / (q * q))

/-- π with `fxBits + 160` fraction bits, by Machin's formula. -/
def piWide : Int :=
  let one : Int := 2 ^ (fxBits + 160)
  4 * (4 * atanInvGo 5 160 0 (one / 5) - atanInvGo 239 60 0 (one / 239))

/-- ln 2 in fixed point: Σ 1 / (n 2^n). -/
def ln2Go : Nat → Nat → Int
  | 0, _ => 0
  | k + 1, n => fxOne / ((n : Int) * 2 ^ n) + ln2Go k (n + 1)

def ln2 : Int := ln2Go (fxBits + 8) 1

/-- e^x for a fixed-point x between −1 and 1. -/
def expFx (x : Int) : Int := series (fun n t => fxMul t x / (n : Int)) 120 1 fxOne

/-- ln x for a fixed-point x between 1 and 2: 2 artanh((x − 1)/(x + 1)). -/
def lnFx (x : Int) : Int :=
  let z := (x - fxOne) * fxOne / (x + fxOne)
  let z2 := fxMul z z
  2 * lnGo z2 180 0 z
where
  lnGo (z2 : Int) : Nat → Nat → Int → Int
    | 0, _, _ => 0
    | k + 1, n, p => p / (2 * n + 1 : Nat) + lnGo z2 k (n + 1) (fxMul p z2)

/-- sin x and cos x for a fixed-point x between −1 and 1. -/
def sinFx (x : Int) : Int :=
  let z := fxMul x x
  series (fun n t => -(fxMul t z / ((2 * n) * (2 * n + 1) : Nat))) 70 1 x

def cosFx (x : Int) : Int :=
  let z := fxMul x x
  series (fun n t => -(fxMul t z / ((2 * n - 1) * (2 * n) : Nat))) 70 1 fxOne

/-- The width, in units of the last place, that bounds the error of every fixed-point value above. -/
def fxErr : Int := 2 ^ 12

/-- Rounds a value known to within `fxErr` units of 2^-fxBits. Both ends of the enclosure round to the same F32 value; the lower one is
delivered. The value is irrational, so the result is inexact. -/
def f32OfFx (x : Int) : FRes :=
  let lo := x.natAbs - fxErr.toNat
  f32Of (decide (x < 0)) (if lo = 0 then 1 else lo) (-(fxBits : Int)) false

/-- A finite value as a fixed-point number; exact for every F32 value of exponent −149 or more. -/
def toFx (neg : Bool) (mag : Nat) (e : Int) : Int :=
  let m : Int := if 0 ≤ e + fxBits then mag * 2 ^ (e + fxBits).toNat else mag / 2 ^ (-(e + fxBits)).toNat
  if neg then -m else m

/-- 2^x of a finite value. -/
def exp2Num (neg : Bool) (mag : Nat) (e : Int) : FRes :=
  if mag = 0 then (0x3F800000, 0)
  else if 9 ≤ e + bitLen mag then
    if neg then FFmt.f32.round .rn false false 1 (-300) false else FFmt.f32.round .rn false false 1 300 false
  else
    let x := toFx neg mag e
    let i := x / fxOne
    let f := x % fxOne
    if f = 0 then FFmt.f32.round .rn false false 1 i false
    else
      let v := expFx (fxMul f ln2)
      f32Of false (v - fxErr).toNat (i - (fxBits : Int)) false

/-- log₂ x of a positive finite value. -/
def log2Num (mag : Nat) (e : Int) : FRes :=
  let k := bitLen mag - 1
  let i : Int := e + k
  if mag = 2 ^ k then
    if i = 0 then (0, 0) else FFmt.f32.round .rn false (decide (i < 0)) i.natAbs 0 false
  else f32OfFx (i * fxOne + lnFx ((mag * 2 ^ (fxBits - k) : Nat) : Int) * fxOne / ln2)

/-- x reduced by multiples of π/2: the multiple modulo 4, and the rest in fixed point, between −π/4 and π/4. -/
def reduce (neg : Bool) (mag : Nat) (e : Int) : Nat × Int :=
  let wide : Int := mag * 2 ^ (e + (fxBits : Int) + 160).toNat
  let x : Int := if neg then -wide else wide
  let half := piWide / 2
  let k := (2 * x + half) / (2 * half)
  ((k % 4).toNat, (x - k * half) / 2 ^ 160)

/-- sin x of a non-zero finite value. -/
def sinNum (neg : Bool) (mag : Nat) (e : Int) : FRes :=
  let (q, y) := reduce neg mag e
  match q with
  | 0 => f32OfFx (sinFx y)
  | 1 => f32OfFx (cosFx y)
  | 2 => f32OfFx (-sinFx y)
  | _ => f32OfFx (-cosFx y)

/-- cos x of a non-zero finite value. -/
def cosNum (neg : Bool) (mag : Nat) (e : Int) : FRes :=
  let (q, y) := reduce neg mag e
  match q with
  | 0 => f32OfFx (cosFx y)
  | 1 => f32OfFx (-sinFx y)
  | 2 => f32OfFx (-cosFx y)
  | _ => f32OfFx (sinFx y)

/-- tanh x of a non-zero finite value: (e^2x − 1)/(e^2x + 1), with e^2x by squaring, and the sine-like series for |x| below 1/4
carried by sinh x / cosh x. -/
def tanhNum (neg : Bool) (mag : Nat) (e : Int) : FRes :=
  if 6 ≤ e + bitLen mag then f32Of neg (2 ^ 64 - 1) (-64) false
  else
    let x := toFx false mag e
    let v : Int :=
      if 4 * x < fxOne then
        let z := fxMul x x
        let sh := series (fun n t => fxMul t z / ((2 * n) * (2 * n + 1) : Nat)) 60 1 x
        let ch := series (fun n t => fxMul t z / ((2 * n - 1) * (2 * n) : Nat)) 60 1 fxOne
        sh * fxOne / ch
      else
        -- e^(-2x) = (e^(-2x/64))^64
        let p := expFx (-(2 * x / 64))
        let sq := fun (y : Int) => fxMul y y
        let w := sq (sq (sq (sq (sq (sq p)))))
        (fxOne - w) * fxOne / (fxOne + w)
    f32OfFx (if neg then -v else v)

/-- The functions of R139. -/
inductive SFun where
  | rcp | rsq | sqrt | exp2 | log2 | sin | cos | tanh
  deriving DecidableEq, Repr

/-- A special function of F32 bits (R139, R140), before the flush of its result. -/
def sfunRaw (f : SFun) (x : Nat) : FRes :=
  let nan := FFmt.f32.nan
  let inf := FFmt.f32.infMag
  let pz := fun (neg : Bool) (m : Nat) => FFmt.f32.pack neg m
  match FFmt.f32.num x with
  | .nan sig => (nan, Flags.when sig Flags.nv)
  | .inf neg =>
    match f with
    | .rcp => (pz neg 0, 0)
    | .rsq => if neg then (nan, Flags.nv) else (0, 0)
    | .sqrt => if neg then (nan, Flags.nv) else (inf, 0)
    | .exp2 => if neg then (0, 0) else (inf, 0)
    | .log2 => if neg then (nan, Flags.nv) else (inf, 0)
    | .sin | .cos => (nan, Flags.nv)
    | .tanh => (pz neg 0x3F800000, 0)
  | .fin neg mag e =>
    if mag = 0 then
      match f with
      | .rcp | .rsq => (pz neg inf, Flags.dz)
      | .sqrt | .sin | .tanh => (pz neg 0, 0)
      | .exp2 | .cos => (0x3F800000, 0)
      | .log2 => (pz true inf, Flags.dz)
    else
      match f with
      | .rcp => rcpMag neg mag e
      | .rsq => if neg then (nan, Flags.nv) else rsqMag mag e
      | .sqrt => if neg then (nan, Flags.nv) else sqrtMag mag e
      | .exp2 => exp2Num neg mag e
      | .log2 => if neg then (nan, Flags.nv) else log2Num mag e
      | .sin => sinNum neg mag e
      | .cos => cosNum neg mag e
      | .tanh => tanhNum neg mag e

/-- A special function with FTZ on its input and its result (R92, R140). -/
def sfun (f : SFun) (ftz : Bool) (x : Nat) : FRes :=
  let (r, fl) := sfunRaw f (FFmt.f32.flushIn ftz x)
  if ftz && r % FFmt.f32.signBit != 0 && r % FFmt.f32.signBit < 2 ^ FFmt.f32.fw then
    (r / FFmt.f32.signBit * FFmt.f32.signBit, Flags.uf ||| Flags.nx)
  else (r, fl)

end Sys2Proof.Machine
end

