-- ==== Sys2Proof/Machine/Mordant.lean ====
section
/-! DEFINITION. Mordant: the micro-ops of drain programs, their legality, and what a row of a half-tile becomes (R306 to R314, R321); and
what a write of the operand buffer does to outstanding MMAs and drains (R277, R278, R324). -/
namespace Sys2Proof.Machine

/-! ## The micro-op word (R309) -/

/-- Bits of a micro-op word. -/
def bitsOf (w : Word) (lo n : Nat) : Nat := w.toNat / 2 ^ lo % 2 ^ n

def uOp (w : Word) : Nat := bitsOf w 0 5
def uD (w : Word) : Nat := bitsOf w 5 3
def uS1 (w : Word) : Nat := bitsOf w 8 3
def uS2 (w : Word) : Nat := bitsOf w 11 3
def uK (w : Word) : Nat := bitsOf w 14 4
def uS3 (w : Word) : Nat := bitsOf w 18 3

/-- The micro-ops of an image, and its constants (R306). -/
def microOps (img : List Word) : List Word := img.take 16
def constAt (img : List Word) (k : Nat) : Word := img.getD (16 + k) 0

/-- The micro-ops before the first MEND; none where no MEND stands among the 16 (R310, R314). -/
def uBody (img : List Word) : Option (List Word) :=
  let ws := microOps img
  if ws.contains 0 then some (ws.takeWhile (· != 0)) else none

/-- The words of a program up to its first MEND. -/
def body (img : List Word) : List Word := (uBody img).getD (microOps img)

/-! ## Legality (R310 to R314) -/

/-- What a micro-op names: D, S1, S2, S3, and the bits of XS that may be set. -/
structure UForm where
  d : Bool
  s1 : Bool
  s2 : Bool
  s3 : Bool
  xs : Nat
  deriving DecidableEq, Repr

/-- The form of a micro-op (R310); none above 0x13, and for a word of OP 0 that is not MEND. -/
def uForm (op : Nat) : Option UForm :=
  match op with
  | 1 | 2 | 3 => some ⟨true, true, true, false, 0⟩
  | 4 | 7 => some ⟨true, true, true, true, 0x7⟩
  | 5 | 6 => some ⟨true, true, true, false, 0x1⟩
  | 8 => some ⟨true, true, true, true, 0x1F⟩
  | 9 => some ⟨true, true, false, false, 0xFFF⟩
  | 10 | 11 | 12 | 19 => some ⟨true, true, false, false, 0⟩
  | 13 | 14 => some ⟨true, false, false, false, 0x3FFF⟩
  | 15 => some ⟨true, true, false, false, 0x3⟩
  | 16 => some ⟨true, true, false, false, 0x1F⟩
  | 17 | 18 => some ⟨false, true, false, false, 0x3FFF⟩
  | _ => none

/-- Whether a store names its place in constants K and K + 1, and whether it stores the scale latch (R313). -/
def uAk (w : Word) : Bool := bitsOf w 21 1 == 1
def uScl (w : Word) : Bool := bitsOf w 20 1 == 1

/-- Whether a micro-op names the constant K other than through a source (R310 to R313). -/
def uNamesK (w : Word) : Bool :=
  match uOp w with
  | 9 | 15 => true
  | 16 => bitsOf w 21 2 == 0
  | 17 | 18 => uAk w
  | _ => false

/-- The sources that a micro-op names. -/
def uSources (w : Word) (f : UForm) : List Nat :=
  (if f.s1 then [uS1 w] else []) ++ (if f.s2 then [uS2 w] else []) ++ (if f.s3 then [uS3 w] else [])

/-- The special cases of R311 to R313 for one micro-op; `scaled` says that an MSCALE stands before it. -/
def uSpecial (img : List Word) (defined : Nat → Bool) (scaled : Bool) (w : Word) : Bool :=
  match uOp w with
  | 9 => defined (bitsOf w 18 5)
  | 15 => bitsOf w 18 2 != 3 && uS1 w != 5 && (nfmtOf (constAt img (uK w)).toNat).isSome
  | 16 =>
    let t := bitsOf w 21 2
    t != 3 && uS1 w != 5 && (t != 0 || (nfmtOf (constAt img (uK w)).toNat).isSome)
  | 17 | 18 =>
    (!uScl w || (uS1 w == 0 && bitsOf w 18 2 == 0 && scaled)) && (!uAk w || uK w ≤ 14)
  | _ => true

/-- Whether one micro-op is legal (R309 to R313). -/
def uLegal (img : List Word) (defined : Nat → Bool) (scaled : Bool) (w : Word) : Bool :=
  match uForm (uOp w) with
  | none => false
  | some f =>
    let srcs := uSources w f
    (bitsOf w 18 14 &&& f.xs) == bitsOf w 18 14 &&
      (if f.d then uD w ≤ 4 else uD w == 0) && (f.s1 || uS1 w == 0) && (f.s2 || uS2 w == 0) &&
      srcs.all (· != 7) && (uK w == 0 || uNamesK w || srcs.contains 5) && uSpecial img defined scaled w

/-- Whether every micro-op of a list is legal. -/
def uAllLegal (img : List Word) (defined : Nat → Bool) : Bool → List Word → Bool
  | _, [] => true
  | scaled, w :: ws => uLegal img defined scaled w && uAllLegal img defined (scaled || uOp w == 15) ws

/-- The reservation ids that MCOL and MROW name. -/
def readRids (ws : List Word) : List Nat :=
  ((ws.filter fun w => uOp w == 13 || uOp w == 14).map fun w => bitsOf w 18 4).eraseDups

/-- Whether a program is legal (R314); `defined` says which numbers are programs of the kernel. -/
def programLegal (img : List Word) (defined : Nat → Bool) : Bool :=
  match uBody img with
  | none => false
  | some ws => uAllLegal img defined false ws && decide ((readRids ws).length ≤ 2)

/-- The reservation ids that a program names: those of MCOL and MROW, and of each MSTO; none for an MSTO that takes SC where SC is zero (R318). -/
def programRids (img : List Word) (sc : Option Nat) : Option (List Nat) :=
  (body img).foldr (fun w acc =>
    acc.bind fun l =>
      if uOp w = 13 || uOp w = 14 then some (bitsOf w 18 4 :: l)
      else if uOp w = 18 then
        (if uAk w then some (bitsOf (constAt img (uK w)) 20 4) else sc).map (· :: l)
      else some l) (some [])

/-- The block length of a program's last MSCALE (R313). -/
def scaleBlock (img : List Word) : Nat :=
  (body img).foldl (fun l w => if uOp w = 15 then 8 * 2 ^ bitsOf w 18 2 else l) 32

/-! ## Element arithmetic (R308, R310 to R312) -/

/-- The F32 default NaN. -/
def f32Nan : Word := BitVec.ofNat 32 FFmt.f32.nan

/-- A result without its flags. -/
def bitsR (r : FRes) : Word := BitVec.ofNat 32 r.1

/-- Whether an F32 value meets the condition of an MSEL (R310). -/
def uCond (c : Nat) (x : Word) : Bool :=
  let v := FFmt.f32.num x.toNat
  if v.isNan then c == 3
  else match c with
    | 0 => !v.isZero && !v.neg?
    | 1 => v.isZero || !v.neg?
    | 2 => !v.isZero && v.neg?
    | _ => false

/-- The arithmetic of one element (R308, R310). -/
def uArith (w s1 s2 s3 : Word) : Word :=
  let a := s1.toNat
  let b := s2.toNat
  let c := s3.toNat
  let prop := bitsOf w 18 1 == 1
  match uOp w with
  | 1 => bitsR (FFmt.f32.add .rn false a b)
  | 2 => bitsR (FFmt.f32.sub .rn false a b)
  | 3 => bitsR (FFmt.f32.mul .rn false a b)
  | 4 => bitsR (FFmt.f32.fma .rn false a b c)
  | 5 => bitsR (FFmt.f32.minmax true prop false a b)
  | 6 => bitsR (FFmt.f32.minmax false prop false a b)
  | 7 => bitsR (FFmt.f32.minmax false false false (FFmt.f32.minmax true false false a b).1 c)
  | 8 => if uCond (bitsOf w 21 2) s1 then s2 else s3
  | 10 => bitsR (sfun .exp2 false a)
  | 11 => bitsR (sfun .rcp false a)
  | 12 => bitsR (sfun .tanh false a)
  | _ => s1

/-- x·2^(−w) rounded down, for an exact difference n·2^e. -/
def floorScaled (n e w : Int) : Int :=
  let k := e - w
  if 0 ≤ k then n * 2 ^ k.toNat else n / 2 ^ (-k).toNat

/-- The index of an MLUT entry, none for the default NaN (R311). -/
def lutIndex (s1 lo : Num) (w : Int) : Option Nat :=
  let v := (sumNum .rn [s1, lo.negate]).1
  match v with
  | .nan _ => none
  | .inf neg => some (if neg then 0 else 15)
  | .fin neg m e => some (min 15 (floorScaled (if neg then -(m : Int) else m) e w).toNat)

/-- MLUT (R311). -/
def uLut (w s1 lo : Word) (table : List Word) : Word :=
  match lutIndex (FFmt.f32.num s1.toNat) (FFmt.f32.num lo.toNat) ((BitVec.ofNat 7 (bitsOf w 23 7)).toInt) with
  | none => f32Nan
  | some q => bitsR (FFmt.f32.fma .rn false (table.getD q 0).toNat s1.toNat (table.getD (16 + q) 0).toNat)

/-- ⌊log₂⌋ of a descriptor's largest finite value (R312). -/
def emaxOf (d : NFmt) : Int :=
  match d.num (if d.e = 0 then (if d.s then 2 ^ (d.width - 1) - 1 else 2 ^ d.width - 1) else d.maxFin) with
  | .fin _ m e => (bitLen m : Int) - 1 + e
  | _ => 0

/-- ⌊log₂⌋ of the largest magnitude of a block: none where it is a NaN or an infinity, and none inside where it is 0 (log entry 51). -/
def blockTop (xs : List Word) : Option (Option Int) :=
  xs.foldl (fun acc x =>
    match acc, FFmt.f32.num x.toNat with
    | some t, .fin _ m e =>
      if m = 0 then some t
      else
        let l : Int := (bitLen m : Int) - 1 + e
        some (some (match t with | some y => max y l | none => l))
    | _, _ => none) (some none)

/-- The scale code of a block (R312). -/
def scaleCode (d : NFmt) (xs : List Word) : Nat :=
  match blockTop xs with
  | none => 255
  | some none => 127
  | some (some t) => (min (max (t - emaxOf d + 127) 0) 254).toNat

/-- An element divided by its block's scale (R312). -/
def uScaled (e : Nat) (x : Word) : Word :=
  if e = 255 then f32Nan else bitsR (FFmt.f32.scale .rn false x.toNat (127 - (e : Int)))

/-- A rounding direction by its code (R73). -/
def uRnd (n : Nat) : Rnd := match n with | 0 => .rn | 1 => .rz | 2 => .rd | _ => .ru

/-- MCVT of one element, with the flags it would set (R312). -/
def uCvt (w k : Word) (x : Word) : FRes :=
  let r := uRnd (bitsOf w 18 2)
  let sat := bitsOf w 20 1 == 1
  match bitsOf w 21 2 with
  | 0 => match nfmtOf k.toNat with
    | some d =>
      let v := FFmt.f32.num x.toNat
      let (c, fl) := d.encode r sat v
      (c, fl ||| Flags.when v.isSig Flags.nv)
    | none => (0, 0)
  | 1 => cvtBits .f16 .f32 sat false r x.toNat
  | _ => cvtBits .bf16 .f32 sat false r x.toNat

/-! ## A row (R313, R316, R321) -/

/-- What a row is evaluated in: the drain's parameters and entry copies, the windows, the FP trap enables and the first number of the free values it
may take. -/
structure RowEnv where
  img : List Word
  tables : List (Nat × List Word)
  row : Nat
  sb : Nat
  sc : Option Nat
  rpitch : Nat
  cpitch : Nat
  copies : List (Nat × RsvRec)
  ob : Tbl Byte
  dirty : List Nat
  ws : Nat
  fpen : BitVec 5
  free : Nat

/-- The cells of a row: a, m0 to m3, each of 32 columns; x; the scale latches by column; and the stores so far (R308). -/
structure Cells where
  regs : List (List Word)
  x : List Word
  latch : List Nat
  out : List RowStore

/-- A source of a micro-op for each column (R309). -/
def Cells.src (c : Cells) (k : Word) (code : Nat) : List Word :=
  if code = 5 then List.replicate 32 k else if code = 6 then c.x else c.regs.getD code []

/-- A copied entry by its id. -/
def copyOf (e : RowEnv) (rid : Nat) : Option RsvRec := (e.copies.find? fun x => x.1 == rid).map (·.2)

/-- MCOL or MROW (R310, R321, R324): the values for each column, or detail 5. -/
def uRead (e : RowEnv) (w : Word) : Except Nat (List Word) :=
  match copyOf e (bitsOf w 18 4) with
  | none => .error 5
  | some r =>
    let start := 16 * (r.base16 + r.doff16 + bitsOf w 22 10)
    let adr := (List.range 32).map fun j => start + 4 * (if uOp w = 13 then j else e.row)
    if adr.any fun a => r.limit < a + 4 then .error 5
    else .ok (adr.zipIdx.map fun a =>
      if (List.range 4).any fun i => e.dirty.contains (a.1 + i) then Config.freeWord (e.free + a.2)
      else BitVec.ofNat 32 (readBytes e.ob a.1 4))

/-- The place of a store: whether it is in the operand buffer, its first byte, its row and column pitches, the end of its range and the detail
past it (R313, R321). -/
structure StorePlace where
  ob : Bool
  org : Nat
  rp : Nat
  cp : Nat
  lim : Nat
  bad : Nat

/-- The place that a store names; none where no reservation applies. -/
def placeOfStore (e : RowEnv) (w : Word) : Option StorePlace :=
  let k := constAt e.img (uK w)
  let k1 := constAt e.img (uK w + 1)
  let rp := if uAk w then bitsOf k1 8 20 else e.rpitch
  let cp := if uAk w then bitsOf k1 0 8 else e.cpitch
  let off := 16 * bitsOf w 22 10
  if uOp w = 17 then some ⟨false, (if uAk w then bitsOf k 0 21 else e.sb) + off, rp, cp, e.ws, 1⟩
  else
    match (if uAk w then some (bitsOf k 20 4) else e.sc) >>= copyOf e with
    | none => none
    | some r =>
      let start := 16 * (r.base16 + (if uScl w then r.soff16 else r.doff16))
      some ⟨true, start + (if uAk w then bitsOf k 0 20 else 0) + off, rp, cp, r.limit, 6⟩

/-- The bytes of a store of one element by its SZ code. -/
def szBytes (n : Nat) : Nat := match n with | 2 => 2 | 3 => 4 | _ => 1

/-- Checks stores in order: past the end of the range, then alignment (R321) (log entry 52). -/
def checkStores (p : StorePlace) (n : Nat) : List RowStore → Except Nat (List RowStore)
  | [] => .ok []
  | s :: ss =>
    if p.lim < s.at_ + n then .error p.bad
    else if s.at_ % n ≠ 0 then .error 2
    else (checkStores p n ss).map (s :: ·)

/-- The stores of one micro-op, in ascending column or block order (R313, R324). -/
def uStore (e : RowEnv) (w : Word) (v : List Word) (latch : List Nat) : Except Nat (List RowStore) :=
  match placeOfStore e w with
  | none => .error 6
  | some p =>
    if uScl w then
      let l := scaleBlock e.img
      checkStores p 1 ((List.range (32 / l)).map fun b =>
        ⟨p.ob, p.org + e.row * (32 / l) + b, [BitVec.ofNat 8 (latch.getD (b * l) 0)]⟩)
    else
      let sz := bitsOf w 18 2
      let n := szBytes sz
      let at_ := fun (j : Nat) => p.org + e.row * p.rp + j * p.cp
      if sz = 1 then
        checkStores p 1 ((List.range 16).map fun q =>
          ⟨p.ob, at_ q, [BitVec.ofNat 8 ((v.getD (2 * q) 0).toNat % 16 + 16 * ((v.getD (2 * q + 1) 0).toNat % 16))]⟩)
      else
        checkStores p n ((List.range 32).map fun j =>
          let x := (v.getD j 0).toNat
          ⟨p.ob, at_ j, (List.range n).map fun i => BitVec.ofNat 8 (x / 256 ^ i)⟩)

/-- The blocks of a row, for MSCALE. -/
def blocksOf (l : Nat) (xs : List Word) : List (List Word) := (List.range (32 / l)).map fun b => (xs.drop (b * l)).take l

/-- One micro-op on a row (R310 to R313); an error is the detail of R321. -/
def uStep (e : RowEnv) (c : Cells) (w : Word) : Except Nat Cells :=
  let k := constAt e.img (uK w)
  let a := c.src k (uS1 w)
  let put := fun (v : List Word) => { c with regs := c.regs.set (uD w) v }
  match uOp w with
  | 9 =>
    let t := ((e.tables.find? fun x => x.1 == bitsOf w 18 5).map (·.2)).getD []
    .ok (put (a.map fun x => uLut w x k t))
  | 13 | 14 => (uRead e w).map put
  | 15 =>
    match nfmtOf k.toNat with
    | none => .ok c
    | some d =>
      let bs := (blocksOf (8 * 2 ^ bitsOf w 18 2) a).map fun b => (scaleCode d b, b)
      .ok { put (bs.flatMap fun b => b.2.map (uScaled b.1)) with
            latch := bs.flatMap fun b => b.2.map fun _ => b.1 }
  | 16 =>
    let r := a.map (uCvt w k)
    if r.any fun x => Flags.enabled e.fpen x.2 != 0 then .error 3 else .ok (put (r.map bitsR))
  | 17 | 18 => (uStore e w a c.latch).map fun ss => { c with out := c.out ++ ss }
  | _ =>
    let b := c.src k (uS2 w)
    let s3 := c.src k (uS3 w)
    .ok (put ((List.range 32).map fun j => uArith w (a.getD j 0) (b.getD j 0) (s3.getD j 0)))

/-- The micro-ops of a row, each with its own free values. -/
def uRun (e : RowEnv) : List Word → Cells → Except Nat Cells
  | [], c => .ok c
  | w :: ws, c =>
    match uStep e c w with
    | .error d => .error d
    | .ok c => uRun { e with free := e.free + 32 } ws c

/-- The cells of a row at its start. -/
def startCells (x : List Word) : Cells :=
  let z : List Word := List.replicate 32 0
  ⟨[x, z, z, z, z], x, [], []⟩

/-- The stores of a row whose accumulator values are `x`, or the detail of its failure (R316, R321). -/
def rowStores (e : RowEnv) (x : List Word) : Except Nat (List RowStore) := (uRun e (body e.img) (startCells x)).map (·.out)

/-! ## Block maxima (R323) -/

/-- The largest magnitude of a block. -/
def blockMax (b : List Word) : Word := b.foldl (fun m x => if m.toNat < (x &&& 0x7FFFFFFF).toNat then x &&& 0x7FFFFFFF else m) 0

/-- The block maxima that a row's MSCALEs form, for each column that of the last one; as far as the row runs (R312, R323). -/
def maxRun (e : RowEnv) : List Word → Cells → List Word → List Word
  | [], _, m => m
  | w :: ws, c, m =>
    let m := if uOp w = 15 then
        (blocksOf (8 * 2 ^ bitsOf w 18 2) (c.src (constAt e.img (uK w)) (uS1 w))).flatMap fun b => b.map fun _ => blockMax b
      else m
    match uStep e c w with
    | .error _ => m
    | .ok c => maxRun { e with free := e.free + 32 } ws c m

/-- The block maxima of a row after `n` micro-ops (R323). -/
def rowMaxima (n : Nat) (e : RowEnv) (x : List Word) : List Word := maxRun e ((body e.img).take n) (startCells x) []

/-! ## What a late write makes undefined (R324) -/

/-- Which columns of the cells a, m0 to m3 and of the scale latches depend on a byte of a list, and which of the stores so far. -/
structure Taint where
  regs : List (List Bool)
  latch : List Bool
  out : List Bool

/-- The taint of a source of a micro-op: constants and x have none (R309). -/
def Taint.src (t : Taint) (code : Nat) : List Bool := if code = 5 || code = 6 then List.replicate 32 false else t.regs.getD code []

/-- One micro-op: MCOL and MROW take the bytes that they read, MSCALE joins the columns of a block, and the others join the sources that they name by column (R310). -/
def Taint.step (t : Taint) (e : RowEnv) (bytes : List Nat) (w : Word) : Taint :=
  let a := t.src (uS1 w)
  let put := fun (v : List Bool) => { t with regs := t.regs.set (uD w) v }
  match uOp w with
  | 9 | 16 => put a
  | 13 | 14 =>
    (match copyOf e (bitsOf w 18 4) with
    | none => t
    | some r =>
      let start := 16 * (r.base16 + r.doff16 + bitsOf w 22 10)
      put ((List.range 32).map fun j =>
        let at_ := start + 4 * (if uOp w = 13 then j else e.row)
        (List.range 4).any fun i => bytes.contains (at_ + i)))
  | 15 =>
    let l := 8 * 2 ^ bitsOf w 18 2
    let v := (List.range 32).map fun j => ((a.drop (j / l * l)).take l).any id
    { put v with latch := v }
  | 17 | 18 =>
    let l := scaleBlock e.img
    let v := if uScl w then (List.range (32 / l)).map fun b => t.latch.getD (b * l) false
      else if bitsOf w 18 2 = 1 then (List.range 16).map fun q => a.getD (2 * q) false || a.getD (2 * q + 1) false
      else (List.range 32).map fun j => a.getD j false
    { t with out := t.out ++ v }
  | op =>
    let named := match uForm op with | some f => (uSources w f).map t.src | none => []
    put ((List.range 32).map fun j => named.any fun v => v.getD j false)

/-- The stores of a row that depend on a byte of a list, by MCOL or MROW (R324). -/
def taintedStores (e : RowEnv) (bytes : List Nat) (out : List RowStore) : List RowStore :=
  let z : List Bool := List.replicate 32 false
  let start : Taint := ⟨[z, z, z, z, z], z, []⟩
  let t := (body e.img).foldl (fun (t : Taint) w => t.step e bytes w) start
  (List.zip out t.out).filterMap fun x => if x.2 then some x.1 else none

/-- The surroundings of a row of a drain, as far as `taintedStores` reads them. -/
def madeEnv (d : Drain) (row : Nat) : RowEnv :=
  { img := match d.image with | some i => i.words | none => [], tables := [], row := row, sb := d.sb, sc := d.sc, rpitch := d.rpitch, cpitch := d.cpitch,
    copies := d.copies, ob := [], dirty := [], ws := 0, fpen := 0, free := 0 }

/-- A store that a drain has made becomes undefined: each of its bytes that still stands takes a free value. -/
def undoStore (t : Team) (free : Nat) (r : RowStore) : Team :=
  let fresh := (Config.freeWord free).toNat
  let undo := fun (m : Tbl Byte) => r.bytes.zipIdx.foldl (fun m x =>
    if Tbl.get 0 m (r.at_ + x.2) = x.1 then Tbl.put 0 m (r.at_ + x.2) (BitVec.ofNat 8 (fresh / 256 ^ x.2)) else m) m
  if r.ob then { t with ob := undo t.ob } else { t with sp := undo t.sp }

/-- The operand-buffer bytes of a list of stores. -/
def obBytes (out : List RowStore) : List Nat := (out.filter (·.ob)).flatMap fun r => (List.range r.bytes.length).map (r.at_ + ·)

/-- The stores of a drain's committed rows that a write of operand bytes makes undefined. -/
def lateStores (bytes : List Nat) (d : Drain) : List RowStore := d.made.flatMap fun x => taintedStores (madeEnv d x.1) bytes x.2

/-! ## Writes of the operand buffer (R277, R278, R324) -/

/-- What a write of operand-buffer bytes, not yet made, leaves behind: the older values, outstanding MMAs and drains that read the bytes (R277,
R278, R324). Only a team with a matrix context has any. -/
def noteOb (s : State) (k tx : Nat) (bytes : List Nat) : State :=
  match (getTeam s k tx).ctx with
  | none => s
  | some n =>
    if bytes.isEmpty then s
    else
      let free := s.freeNo
      let s := modTeam s k tx fun t => keepOlds t bytes
      let late := (getCtx s (k / 2) n).drains.flatMap (lateStores bytes)
      let s := modCtx s (k / 2) n fun c =>
        let c := c.mmas.foldl (dirtyMma bytes free) { c with mmas := [] }
        { c with drains := c.drains.map fun d => { d with dirty := d.dirty ++ bytes } }
      let s := if late.isEmpty then s else modTeam s k tx fun t => late.zipIdx.foldl (fun t x => undoStore t (free + 2048 + x.2) x.1) t
      { s with freeNo := s.freeNo + 2048 + late.length }

end Sys2Proof.Machine
end

