-- ==== Sys2Proof/Machine/Alu.lean ====
section
/-! DEFINITION. What each lane operation computes from its operands: the integer and logic operations (R112 to R115, R120), and, over
the format rules, the floating-point, packed and conversion operations (R127 to R138). -/
namespace Sys2Proof.Machine

/-- A lane's result: a 32-bit value, a 64-bit pair, or a predicate. -/
inductive LVal where
  | w (x : Word)
  | d (x : DWord)
  | b (x : Bool)
  deriving DecidableEq, Repr

/-- A comparison, signed or (N) unsigned (R72). -/
def cmpVal {n : Nat} (c : Cmp) (uns : Bool) (a b : BitVec n) : Bool :=
  match c with
  | .eq => a == b
  | .ne => a != b
  | .lt => if uns then BitVec.ult a b else BitVec.slt a b
  | .le => if uns then BitVec.ule a b else BitVec.sle a b
  | .gt => if uns then BitVec.ult b a else BitVec.slt b a
  | .ge => if uns then BitVec.ule b a else BitVec.sle b a

/-- The sum clamped to the range of its type (R112, IADDS). -/
def addSat (uns : Bool) (a b : Word) : Word :=
  if uns then BitVec.ofNat 32 (min (a.toNat + b.toNat) (2 ^ 32 - 1))
  else BitVec.ofInt 32 (max (-(2 ^ 31)) (min (2 ^ 31 - 1) (a.toInt + b.toInt)))

/-- The high word of the product (R112, IMULH). -/
def mulHigh (uns : Bool) (a b : Word) : Word :=
  if uns then BitVec.ofNat 32 (a.toNat * b.toNat / 2 ^ 32) else BitVec.ofInt 32 (a.toInt * b.toInt / 2 ^ 32)

/-- The smaller or the larger of two values. -/
def minMax (uns larger : Bool) (a b : Word) : Word :=
  if larger then (if cmpVal .lt uns a b then b else a) else (if cmpVal .lt uns b a then b else a)

/-- Byte `j` of a word as an integer. -/
def byteInt (uns : Bool) (x : Word) (j : Nat) : Int :=
  let y : Byte := x.extractLsb' (8 * j) 8
  if uns then y.toNat else y.toInt

/-- IDOT4 (R107, R112). -/
def dot4 (na nb : Bool) (a b c : Word) : Word :=
  BitVec.ofInt 32 (byteInt na a 0 * byteInt nb b 0 + byteInt na a 1 * byteInt nb b 1 + byteInt na a 2 * byteInt nb b 2 +
    byteInt na a 3 * byteInt nb b 3 + c.toInt)

/-- BFX (R113). -/
def bfx (uns : Bool) (a ctl : Word) : Word :=
  let pos := ctl.toNat % 32
  let len := min (ctl.toNat / 2 ^ 8 % 64) (32 - pos)
  let f := a.toNat / 2 ^ pos % 2 ^ len
  if len = 0 then 0
  else if !uns && f / 2 ^ (len - 1) % 2 == 1 then BitVec.ofInt 32 ((f : Int) - 2 ^ len)
  else BitVec.ofNat 32 f

/-- BFI (R113). -/
def bfi (a ctl c : Word) : Word :=
  let pos := ctl.toNat % 32
  let len := min (ctl.toNat / 2 ^ 8 % 64) (32 - pos)
  let mask : Word := BitVec.ofNat 32 ((2 ^ len - 1) * 2 ^ pos)
  (c &&& ~~~mask) ||| ((a <<< pos) &&& mask)

/-- The number of set bits among the low `n` bits. -/
def popCount (x : Nat) : Nat → Nat
  | 0 => 0
  | n + 1 => x / 2 ^ n % 2 + popCount x n

/-- Bit `i` moves to bit 31 − i. -/
def bitReverse (x : Nat) : Nat → Nat
  | 0 => 0
  | n + 1 => x / 2 ^ n % 2 * 2 ^ (31 - n) + bitReverse x n

/-- The low five bits of a count (R89). -/
def sh5 (b : Word) : Nat := b.toNat % 32

/-- A pairable integer operation (R112 to R114). `pc` is the predicate of SEL. -/
def intOp (p : POp) (a b c : Word) (pc : Bool) : LVal :=
  match p with
  | .iadd => .w (a + b)
  | .isub => .w (a - b)
  | .iadds n => .w (addSat n a b)
  | .imul => .w (a * b)
  | .imulh n => .w (mulHigh n a b)
  | .imad => .w (a * b + c)
  | .imin n => .w (minMax n false a b)
  | .imax n => .w (minMax n true a b)
  | .iabs => .w (if a.msb then -a else a)
  | .idot4 na nb => .w (dot4 na nb a b c)
  | .and => .w (a &&& b)
  | .or => .w (a ||| b)
  | .xor => .w (a ^^^ b)
  | .andn => .w (a &&& ~~~b)
  | .not => .w (~~~a)
  | .shl => .w (a <<< sh5 b)
  | .shr => .w (a >>> sh5 b)
  | .sha => .w (a.sshiftRight (sh5 b))
  | .rot => .w (a.rotateLeft (sh5 b))
  | .bfx n => .w (bfx n a b)
  | .bfi => .w (bfi a b c)
  | .popc => .w (BitVec.ofNat 32 (popCount a.toNat 32))
  | .clz => .w (BitVec.ofNat 32 (32 - bitLen a.toNat))
  | .brev => .w (BitVec.ofNat 32 (bitReverse a.toNat 32))
  | .iset k n => .b (cmpVal k n a b)
  | .sel => .w (if pc then a else b)
  | .mov => .w a
  | _ => .w (a + (b <<< sh5 c))

/-- The result and the flags of F32 bits. -/
def fw (r : FRes) : LVal × Flags := (.w (BitVec.ofNat 32 r.1), r.2)

/-- The result and the flags of F64 bits. -/
def fd (r : FRes) : LVal × Flags := (.d (BitVec.ofNat 64 r.1), r.2)

/-- A pairable operation of one lane (R112 to R114, R126 to R138): the result and the flags it raises; none for FORMAT. Sources hold
32-bit values in their low half; only an F64 side of CVT uses the high half. -/
def laneOp (p : POp) (a b c : DWord) (pc : Bool) : Option (LVal × Flags) :=
  let x := a.toNat % 2 ^ 32
  let y := b.toNat % 2 ^ 32
  let z := c.toNat % 2 ^ 32
  match p with
  | .fadd r f => some (fw (FFmt.f32.add r f x y))
  | .fsub r f => some (fw (FFmt.f32.sub r f x y))
  | .fmul r f => some (fw (FFmt.f32.mul r f x y))
  | .ffma r f => some (fw (FFmt.f32.fma r f x y z))
  | .fmin p f => some (fw (FFmt.f32.minmax false p f x y))
  | .fmax p f => some (fw (FFmt.f32.minmax true p f x y))
  | .fset k f => let (t, fl) := FFmt.f32.compare k f x y; some (.b t, fl)
  | .fclass => some (.w (BitVec.ofNat 32 (2 ^ FFmt.f32.classBit x)), 0)
  | .frnd r f => some (fw (FFmt.f32.integral r f x))
  | .fscale r f => some (fw (FFmt.f32.scale r f x (readInt 32 true y)))
  | .hadd2 bf r f => some (fw (packed fun j => (halfFmt bf).add r f (halfOf x j) (halfOf y j)))
  | .hmul2 bf r f => some (fw (packed fun j => (halfFmt bf).mul r f (halfOf x j) (halfOf y j)))
  | .hfma2 bf r f => some (fw (packed fun j => (halfFmt bf).fma r f (halfOf x j) (halfOf y j) (halfOf z j)))
  | .hmin2 bf p f => some (fw (packed fun j => (halfFmt bf).minmax false p f (halfOf x j) (halfOf y j)))
  | .hmax2 bf p f => some (fw (packed fun j => (halfFmt bf).minmax true p f (halfOf x j) (halfOf y j)))
  | .fdot2 bf r f => some (fw (fdot2Bits bf r f x y z))
  | .cvt d s sat f r =>
    let v := cvtBits d s sat f r (if s = .f64 then a.toNat else x)
    some (if d = .f64 then fd v else fw v)
  | .cvtn from_ sat r => (cvtnBits from_ sat r x y).map fw
  | .cvtw d s sat f r => some (fw (cvtwBits d s sat f r x y))
  | .pack e sat => some (fw (packBits e sat x y z))
  | .unpack e => some (.w (BitVec.ofNat 32 (unpackBits e x y)), 0)
  | p => some (intOp p (a.setWidth 32) (b.setWidth 32) (c.setWidth 32) pc, 0)

/-- A 64-bit shift right (R89, R115). -/
def shr64 (uns : Bool) (a : DWord) (n : Nat) : DWord := if uns then a >>> (n % 64) else a.sshiftRight (n % 64)

/-- The uniform operations of R120. -/
inductive GOp where
  | add | sub | mul | mad | and | or | xor | shl | shr (n : Bool) | min (n : Bool) | max (n : Bool) | set (c : Cmp) (n : Bool)
  | sel | mov
  deriving DecidableEq, Repr

/-- The value of a uniform operation. -/
def gOp (p : GOp) (a b c : Word) : Word :=
  match p with
  | .add => a + b
  | .sub => a - b
  | .mul => a * b
  | .mad => a * b + c
  | .and => a &&& b
  | .or => a ||| b
  | .xor => a ^^^ b
  | .shl => a <<< sh5 b
  | .shr n => if n then a >>> sh5 b else a.sshiftRight (sh5 b)
  | .min n => minMax n false a b
  | .max n => minMax n true a b
  | .set k n => if cmpVal k n a b then 1 else 0
  | .sel => if c = 0 then b else a
  | .mov => a

/-- A step of an integer atomic or of REDUCE and SCAN over 32-bit words (R192, R214). -/
def aopStep (o : Aop) (old c : Word) : Word :=
  match o with
  | .add => old + c
  | .min => minMax false false old c
  | .max => minMax false true old c
  | .nmin => minMax true false old c
  | .nmax => minMax true true old c
  | .and => old &&& c
  | .or => old ||| c
  | .exch => c

/-- A step of REDUCE and SCAN (R192). -/
def ropStep (o : Rop) (x y : Word) : Word × Flags :=
  let f := fun (r : FRes) => (BitVec.ofNat 32 r.1, r.2)
  match o with
  | .iadd => (x + y, 0)
  | .imin => (minMax false false x y, 0)
  | .imax => (minMax false true x y, 0)
  | .nmin => (minMax true false x y, 0)
  | .nmax => (minMax true true x y, 0)
  | .and => (x &&& y, 0)
  | .or => (x ||| y, 0)
  | .xor => (x ^^^ y, 0)
  | .fadd => f (FFmt.f32.add .rn false x.toNat y.toNat)
  | .fmin => f (FFmt.f32.minmax false false false x.toNat y.toNat)
  | .fmax => f (FFmt.f32.minmax true false false x.toNat y.toNat)

/-- The identity of an exclusive scan (R192). -/
def ropIdentity : Rop → Word
  | .iadd => 0
  | .imax => 0x80000000
  | .imin => 0x7FFFFFFF
  | .nmin | .and => 0xFFFFFFFF
  | .nmax | .or | .xor => 0
  | .fadd => 0x80000000
  | .fmin => 0x7F800000
  | .fmax => 0xFF800000

/-- A step of a 32-bit or 64-bit FATOM (R81, R253): the new value, where `w` is the width. `cmp` is CAS's compare value. -/
def gopStep (o : Gop) (w : Nat) (old c cmp : BitVec w) : BitVec w :=
  let lt := fun (a b : BitVec w) => BitVec.slt a b
  match o with
  | .add => old + c
  | .min => if lt c old then c else old
  | .max => if lt old c then c else old
  | .nmin => if BitVec.ult c old then c else old
  | .nmax => if BitVec.ult old c then c else old
  | .and => old &&& c
  | .or => old ||| c
  | .xor => old ^^^ c
  | .exch => c
  | .cas => if old = cmp then c else old
  | .fadd => BitVec.ofNat w (FFmt.f32.add .rn false old.toNat c.toNat).1

end Sys2Proof.Machine
end

