-- ==== Sys2Proof/Machine/Operands.lean ====
section
/-! DEFINITION. The operand forms: which registers each word reads and writes, and how many of each (R45 to R50, R66, R212), and the
values of its fields in the issuing group. -/
namespace Sys2Proof

open Sys2Proof.Machine

/-- A register field of a word: its specifier, and the number of registers it names. -/
structure Field where
  sp : Spec
  n : Nat
  deriving DecidableEq, Repr

/-- A field of one register. -/
def one (sp : Spec) : Field := ⟨sp, 1⟩

/-- A field of a pair. -/
def two (sp : Spec) : Field := ⟨sp, 2⟩

/-- The registers of an access by its size (R212). -/
def Size.regs : Size → Nat
  | .w64 => 2
  | .w128 => 4
  | _ => 1

/-- The bytes of an access by its size. -/
def Size.bytes : Size → Nat
  | .i8 | .n8 => 1
  | .i16 | .n16 => 2
  | .w32 => 4
  | .w64 => 8
  | .w128 => 16

/-- The registers of a conversion's value by its type. -/
def Ty.regs : Ty → Nat
  | .f64 => 2
  | _ => 1

/-- Whether a pairable operation delivers a predicate. -/
def POp.toPred : POp → Bool
  | .iset _ _ | .fset _ _ => true
  | _ => false

/-- The registers of a pairable operation's result. -/
def POp.dstRegs : POp → Nat
  | .cvt d _ _ _ _ => d.regs
  | _ => 1

/-- The registers of a pairable operation's first source. -/
def POp.srcRegs : POp → Nat
  | .cvt _ s _ _ _ => s.regs
  | _ => 1

/-- The sources of a pairable operation. -/
def POp.sources (p : POp) (o : Ops) : List Field := [⟨o.a.spec, p.srcRegs⟩, one o.b.spec, one o.c, one (.p o.g.p)]

/-- Three sources of `n` registers each, and the guard. -/
def opsSources (o : Ops) (n : Nat) : List Field := [⟨o.a.spec, n⟩, ⟨o.b.spec, n⟩, ⟨o.c, n⟩, one (.p o.g.p)]

/-- The sources of a word that names only a guard and some fields. -/
def bareSources (g : Guard) (fs : List Field) : List Field := one (.p g.p) :: fs

/-- The v pair that holds MMA's indices (R295). -/
def pairV (n : Fin 1536) : Field := two (.v n)

/-- The source registers of a word. -/
def Instr.sources (i : Instr) : List Field :=
  match i.pop with
  | some (p, o) => p.sources o
  | none =>
    match i with
    | .brx g _ a | .elect g _ a | .trap g a | .bbhint g a => bareSources g [one a]
    | .next g c _ | .loop g c _ => bareSources g [one (.c c)]
    | .pset o | .gadd o | .gsub o | .gmul o | .gmad o | .gand o | .gor o | .gxor o | .gshl o | .gshr o _ | .gmin o _
    | .gmax o _ | .gset o _ _ | .gsel o | .gmov o | .gld o | .gst o | .grd o | .rcp o _ | .rsq o _ | .sqrt o _ | .exp2 o _
    | .log2 o _ | .sin o _ | .cos o _ | .tanh o _ | .shfl o _ | .match_ o _ | .reduce o _ | .scan o _ _ | .hist o
    | .merge o | .ld o _ _ | .atom o _ _ | .rld o _ | .ratom o _ | .old o _ => opsSources o 1
    | .iadd64 o | .isub64 o | .imad64 o | .iset64 o _ _ | .dadd o _ _ | .dmul o _ _ | .dfma o _ _ | .dmin o _ _
    | .dmax o _ _ | .dset o _ _ => opsSources o 2
    | .shl64 o | .shr64 o _ => [two o.a.spec, one o.b.spec, one (.p o.g.p)]
    | .acas o _ => one o.d :: opsSources o 1
    | .st o s _ | .rst o s | .ost o s => [one o.a.spec, one o.b.spec, ⟨o.c, s.regs⟩, one (.p o.g.p)]
    | .ndot4 g _ a b c _ _ _ => bareSources g [one a, one b, one c]
    | .vote g _ p _ => bareSources g [one (.p p)]
    | .bar g _ n | .arrive g _ n => bareSources g [one n]
    | .rsv g a b | .dpld g a b | .waitc g a b _ | .cntset g a b => bareSources g [one a, one b]
    | .rls g a | .rett g a _ | .swrite g _ a => bareSources g [one a]
    | .mma g t a b vn _ => bareSources g [one t, one a, one b, pairV vn]
    | .tmov g _ t _ | .tzero g t => bareSources g [one t]
    | .tset g t a _ => bareSources g [one t, one a]
    | .drain g t sb rid _ => bareSources g [one t, one sb, one rid]
    | .copy g loc sh co ctr e => bareSources g [one loc, one sh, ⟨.g co, e.cn + 1⟩, one ctr]
    | .fatom g od ad b ctr e =>
      let n := if e.w64 then 2 else 1
      bareSources g [one od, two (.g ad), ⟨b, n⟩, one ctr, ⟨e.cmp, n⟩]
    | .pairedWord x y => x.op.sources x.o ++ y.op.sources y.o
    | i => [one (.p i.guard.p)]

/-- The destination registers of a word; the tile that TSET or TZERO writes is a name, which `tileField` gives. -/
def Instr.dests (i : Instr) : List Field :=
  match i.pop with
  | some (p, o) => [⟨o.d, p.dstRegs⟩]
  | none =>
    match i with
    | .elect _ d _ | .movi _ d _ | .gmovi _ d _ | .ndot4 _ d _ _ _ _ _ _ | .vote _ d _ _ | .sread _ d _ | .tmov _ d _ _ =>
      [one d]
    | .time _ d | .cyc _ d => [two d]
    | .loop _ c _ | .next _ c _ => [one (.c c)]
    | .pset o | .iset64 o _ _ | .gadd o | .gsub o | .gmul o | .gmad o | .gand o | .gor o | .gxor o | .gshl o | .gshr o _
    | .gmin o _ | .gmax o _ | .gset o _ _ | .gsel o | .gmov o | .gld o | .grd o | .dset o _ _ | .rcp o _ | .rsq o _
    | .sqrt o _ | .exp2 o _ | .log2 o _ | .sin o _ | .cos o _ | .tanh o _ | .shfl o _ | .match_ o _ | .reduce o _
    | .scan o _ _ | .hist o | .merge o | .atom o _ _ | .acas o _ | .ratom o _ => [one o.d]
    | .iadd64 o | .isub64 o | .imad64 o | .shl64 o | .shr64 o _ | .dadd o _ _ | .dmul o _ _ | .dfma o _ _ | .dmin o _ _
    | .dmax o _ _ => [two o.d]
    | .ld o s _ | .rld o s | .old o s => [⟨o.d, s.regs⟩]
    | .fetch _ d => [⟨.g d, 4⟩]
    | .pairedWord x y => [⟨x.o.d, x.op.dstRegs⟩, ⟨y.o.d, y.op.dstRegs⟩]
    | _ => []

/-- How often a word shifts the last-result file of each issuing lane (R48). -/
def Instr.shifts (i : Instr) : Nat :=
  let ofD : Spec → Nat := fun d => match d with | .v _ | .o _ | .zero => 1 | _ => 0
  match i.pop with
  | some (p, _) => if p.toPred then 0 else 1
  | none =>
    match i with
    | .pairedWord x y => (if x.op.toPred then 0 else 1) + (if y.op.toPred then 0 else 1)
    | .vote _ d _ m => match m with | .some | .every | .agree | .major => 0 | _ => ofD d
    | .reduce o _ => ofD o.d
    | .sread _ d _ | .time _ d | .cyc _ d => ofD d
    | .movi _ _ _ | .iadd64 _ | .isub64 _ | .imad64 _ | .shl64 _ | .shr64 _ _ | .dadd _ _ _ | .dmul _ _ _ | .dfma _ _ _
    | .dmin _ _ _ | .dmax _ _ _ | .ndot4 _ _ _ _ _ _ _ _ | .rcp _ _ | .rsq _ _ | .sqrt _ _ | .exp2 _ _ | .log2 _ _
    | .sin _ _ | .cos _ _ | .tanh _ _ | .shfl _ _ | .match_ _ _ | .scan _ _ _ | .hist _ | .merge _ | .ld _ _ _
    | .atom _ _ _ | .acas _ _ | .rld _ _ | .ratom _ _ | .old _ _ | .tmov _ _ _ _ => 1
    | _ => 0

/-- The scoreboard resources of a field (R177). The zero code, immediates and p0 use none. -/
def Field.res (f : Field) : List Res :=
  (List.range f.n).filterMap fun d =>
    match specPlus f.sp d with
    | .v n => some (.v n)
    | .o n => some (.o n)
    | .y n => some (.y n)
    | .g n => some (.g n)
    | .p n => if n = 0 then none else some (.p n)
    | .c n => some (.c n)
    | .t n => some (.t n)
    | .imm _ | .zero => none

/-- The numbers of the v registers that a word names, each field by its highest (R46). -/
def Instr.vNames (i : Instr) : List Nat :=
  (i.sources ++ i.dests).filterMap fun f => match f.sp with | .v n => some (n.val + f.n - 1) | _ => none

/-- Whether a word names a v register at or above a group's budget (R46). -/
def Instr.overBudget (i : Instr) (budget : Nat) : Bool := i.vNames.any fun n => budget ≤ n

end Sys2Proof

namespace Sys2Proof.Machine

/-- The value of a uniform field: a g register, a small immediate, or the zero code (R68, R119). -/
def uval (grp : Group) (sp : Spec) : Word := readSpec grp 0 sp

/-- The value of a uniform field of the issuing group. -/
def curU (s : State) (sp : Spec) : Word := uval (curGroup s) sp

/-- The tile pair that a tile field names: t0 to t7, or the low three bits of a uniform value (R298). -/
def tileOf (grp : Group) (sp : Spec) : Nat :=
  match sp with
  | .t n => n
  | sp => (uval grp sp).toNat % 8

/-- The tile field of a word (R68). -/
def tileField : Instr → Option Spec
  | .mma _ t _ _ _ _ | .tmov _ _ t _ | .tset _ t _ _ | .tzero _ t | .drain _ t _ _ _ => some t
  | _ => none

/-- The scoreboard resource of the tile that a word names (R177). -/
def tileRes (grp : Group) (i : Instr) : List Res :=
  match tileField i with
  | some t => [.t (tileOf grp t)]
  | none => []

/-- The byte address of a scratchpad or operand-buffer access: base plus offset modulo 2^32 (R211). -/
def addrOf (grp : Group) (l : Nat) (o : Ops) : Nat := (readSrc grp l o.a + readSrc grp l o.b).toNat

end Sys2Proof.Machine
end

