-- ==== Sys2Proof/Machine/Vector.lean ====
section
/-! DEFINITION. The shape of every vector value instruction (R111, R126): one lane function over the operand forms, with its write, its
flags, its traps and its shift of the last-result file. -/
namespace Sys2Proof.Machine

/-- A lane's result in its destination: a 32-bit value and a pair shift the last-result file, a predicate does not (R48, R111). -/
def deliver (ln : Lane) (d : Spec) (v : LVal) : Lane :=
  match v with
  | .w x => shiftY (writeSpec ln d x) x
  | .d x => shiftY (writePair ln d x) (x.setWidth 32)
  | .b x => writePred ln d x

/-- What a guarded-off lane does: a value instruction shifts the last-result file with the value that the destination holds (R48). -/
def idleLane (toPred : Bool) (d : Spec) (ln : Lane) : Lane := if toPred then ln else shiftY ln (heldIn ln d)

/-- One lane of a vector value instruction, `on` where its guard holds (R111, R126): none is FORMAT, and an enabled flag is FP (R96, R99). -/
def valueLane (toPred on : Bool) (d : Spec) (fpen : BitVec 5) (r : Option (LVal × Flags)) (ln : Lane) : Except Cause Lane :=
  if on then
    match r with
    | none => .error ⟨.format, 0, 0, 0⟩
    | some (v, fl) =>
      if Flags.enabled fpen fl = 0 then .ok (deliver { ln with flags := Flags.accrue ln.flags fl } d v)
      else .error ⟨.fp, (Flags.enabled fpen fl).toNat, 0, 0⟩
  else .ok (idleLane toPred d ln)

/-- The FP trap enables of the issuing team's launch (R96, R338). -/
def curFpen (s : State) : BitVec 5 := match curGrid s with | some gr => gr.descr.fpen | none => 0

/-- A vector value instruction whose lane function is `f`. -/
def valueWord (toPred : Bool) (g : Guard) (d : Spec) (f : Group → Nat → Option (LVal × Flags)) (s : State) : State :=
  let fpen := curFpen s
  laneWord s fun grp l ln => valueLane toPred (guardIn g ln) d fpen (f grp l) ln

/-- A 32-bit source as a 64-bit value, zero-extended. -/
def wide (x : Word) : DWord := x.setWidth 64

/-- The first source of a pairable operation. -/
def popA (p : POp) (o : Ops) (grp : Group) (l : Nat) : DWord :=
  if p.srcRegs = 2 then srcPair grp l o.a else wide (readSrc grp l o.a)

/-- What a pairable operation computes in a lane. -/
def popLane (p : POp) (o : Ops) (grp : Group) (l : Nat) : Option (LVal × Flags) :=
  laneOp p (popA p o grp l) (wide (readSrc grp l o.b)) (wide (readSpec grp l o.c)) (readPred grp l o.c)

/-- A pairable operation alone in a B64 or B96 word. -/
def popWord (p : POp) (o : Ops) (s : State) : State := valueWord p.toPred o.g o.d (popLane p o) s

/-- A 64-bit integer operation over pairs (R115). -/
def wideWord (o : Ops) (f : DWord → DWord → DWord → DWord) (s : State) : State :=
  valueWord false o.g o.d (fun grp l => some (.d (f (srcPair grp l o.a) (srcPair grp l o.b) (readPair grp l o.c)), 0)) s

/-- An operation over F64 pairs (R130). -/
def dWord (o : Ops) (f : Nat → Nat → Nat → FRes) (s : State) : State :=
  valueWord false o.g o.d
    (fun grp l => some (fd (f (srcPair grp l o.a).toNat (srcPair grp l o.b).toNat (readPair grp l o.c).toNat))) s

/-- One lane of a slot of a paired word: its guard and its sources are those before the word (R47, R84). -/
def slotLane (slot : Nat) (fpen : BitVec 5) (x : PairSlot) (grp : Group) (l : Nat) (ln : Lane) : Except Cause Lane :=
  match valueLane x.op.toPred (guardIn x.o.g (laneAt grp l)) x.o.d fpen (popLane x.op x.o grp l) ln with
  | .ok ln => .ok ln
  | .error c => .error { c with pslot := slot }

/-- A paired word in one lane: X before Y; a lane that traps in either slot commits nothing (R84). -/
def pairedLane (fpen : BitVec 5) (x y : PairSlot) (grp : Group) (l : Nat) (ln : Lane) : Except Cause Lane :=
  match slotLane 1 fpen x grp l ln with
  | .ok ln => slotLane 2 fpen y grp l ln
  | .error c => .error c

/-- The paired word (R47, R48, R65, R84). -/
def execPairedWord (x y : PairSlot) (s : State) : Host.Outcome State Fault Refusal :=
  let fpen := curFpen s
  .next (laneWord s (pairedLane fpen x y))

end Sys2Proof.Machine
end

