-- ==== Sys2Proof/Machine/Memory.lean ====
section
/-! DEFINITION. Accesses to the scratchpad, to the scratchpads of the cluster, and to the operand buffer (R207 to R226, R440), per lane and
per group. -/
namespace Sys2Proof.Machine

/-- A memory: the bytes that it lists by their addresses (a window of a team by window byte, a view by physical byte); an address that it does not list
reads as 0 (log entry 4). -/
abbrev Memory := List Host.Cell

/-- The canonical form of a memory: addresses strictly rising, and no entry equal to what an unlisted address reads as. -/
def Memory.wf (m : Memory) : Bool := Tbl.wf (0 : Byte) m

/-! ## Checks -/

/-- The check of an access of `n` bytes at window address `a`: alignment first, then the window (R213). -/
def checkAccess (n size a : Nat) : Option Cause :=
  if a % n ≠ 0 then some ⟨.misalign, 0, BitVec.ofNat 32 a, 0⟩
  else if size < a + n then some ⟨.bounds, 0, BitVec.ofNat 32 a, 0⟩
  else none

/-- The 4-byte words that an access touches (R208). -/
def wordsOf (n a : Nat) : List Nat := (List.range (max 1 (n / 4))).map fun i => a / 4 + i

/-- The conflict degree of accesses of `n` bytes (R208). -/
def degree (n : Nat) (addrs : List Nat) : Nat :=
  let ws := (addrs.flatMap (wordsOf n)).eraseDups
  (List.range 32).foldl (fun d b => max d ((ws.filter fun w => w % 32 == b).length)) 1

/-- The declared bound (R75). -/
def cbBound : Cb → Nat
  | .c1 => 1 | .c2 => 2 | .c4 => 4 | .c32 => 32

/-! ## Watchpoints (R440) -/

/-- Whether watchpoint register `w` covers `n` bytes at `a` of the team in place `tx`, in the mode of the access. -/
def watches (w : DWord) (tx n a : Nat) (rd wr : Bool) : Bool :=
  let start := (w.extractLsb' 37 21).toNat
  let len := (w.extractLsb' 21 16).toNat
  w.getLsbD 63 && ((rd && w.getLsbD 61) || (wr && w.getLsbD 62)) && (w.getLsbD 20 == (tx == 1)) &&
    decide (0 < len) && decide (a < start + len) && decide (start < a + n)

/-- The first watchpoint of a core that an access of a lane meets, but for the one its replay leaves out (R390). -/
def watchHit (s : State) (ln : Lane) (n a : Nat) (rd wr : Bool) : Option Nat :=
  if debugOn then
    (List.range 4).find? fun i =>
      ln.noWatch != some i && watches (Tbl.get 0 (curCore s).wp i) s.cur.tx n a rd wr
  else none
where
  debugOn : Bool := match curGrid s with | some gr => gr.descr.debug | none => false

/-! ## One lane's step -/

/-- What an access does to a window, per lane. -/
inductive MemOp where
  | ld (s : Size) | st (s : Size) | atom (a : Aop) | acas
  deriving DecidableEq, Repr

/-- The bytes of an access (R213). -/
def MemOp.bytes : MemOp → Nat
  | .ld s | .st s => s.bytes
  | .atom _ | .acas => 4

/-- Whether an access reads and whether it writes (R440). -/
def MemOp.rd : MemOp → Bool
  | .st _ => false
  | _ => true
def MemOp.wr : MemOp → Bool
  | .ld _ => false
  | _ => true

/-- A loaded value, extended to its registers (R213). -/
def extend (s : Size) (x : Nat) : BitVec 128 :=
  match s with
  | .i8 => ((BitVec.ofNat 8 x).signExtend 32).setWidth 128
  | .i16 => ((BitVec.ofNat 16 x).signExtend 32).setWidth 128
  | _ => BitVec.ofNat 128 x

/-- One lane's step at byte `a`: the window after it, and the value it delivers. `c` is the value source and `d` what ACAS's DST held
(R213, R214). -/
def memStep (op : MemOp) (m : Tbl Byte) (a : Nat) (c : BitVec 128) (d : Word) : Tbl Byte × BitVec 128 :=
  match op with
  | .ld s => (m, extend s (readBytes m a s.bytes))
  | .st s => (writeBytes m a c.toNat s.bytes, 0)
  | .atom o =>
    let old := BitVec.ofNat 32 (readBytes m a 4)
    (writeBytes m a (aopStep o old (c.setWidth 32)).toNat 4, old.setWidth 128)
  | .acas =>
    let old := BitVec.ofNat 32 (readBytes m a 4)
    (if old = d then writeBytes m a (c.setWidth 32).toNat 4 else m, old.setWidth 128)

/-- The steps of an access in ascending lane order, each entry a lane, its byte, its value source and ACAS's compare value (R209). -/
def memSteps (op : MemOp) : Tbl Byte → List (Nat × Nat × BitVec 128 × Word) → Tbl Byte × List (Nat × BitVec 128)
  | m, [] => (m, [])
  | m, (l, a, c, d) :: t =>
    let (m, r) := memStep op m a c d
    let (m, rs) := memSteps op m t
    (m, (l, r) :: rs)

/-- The value source of a store or an atomic (R212). -/
def memSource (op : MemOp) (grp : Group) (l : Nat) (sp : Spec) : BitVec 128 :=
  match op with
  | .st .w64 => (readPair grp l sp).setWidth 128
  | .st .w128 => readQuad grp l sp
  | _ => (readSpec grp l sp).setWidth 128

/-- A loaded value in its destination; the last-result file shifts once with its lowest word (R215). -/
def deliverMem (op : MemOp) (ln : Lane) (d : Spec) (x : BitVec 128) : Lane :=
  match op with
  | .st _ => ln
  | .ld .w64 => shiftY (writePair ln d (x.setWidth 64)) (x.setWidth 32)
  | .ld .w128 => shiftY (writeQuad ln d x) (x.setWidth 32)
  | _ => shiftY (writeSpec ln d (x.setWidth 32)) (x.setWidth 32)

/-- What a lane outside `active` does (R48, R215). -/
def idleMem (op : MemOp) (d : Spec) (ln : Lane) : Lane :=
  match op with
  | .st _ => ln
  | _ => shiftY ln (heldIn ln d)

/-! ## LD, ST, ATOM and ACAS (R213) -/

/-- The lanes of `active` with their addresses. -/
def laneAddrs (s : State) (o : Ops) : List (Nat × Nat) :=
  let grp := curGroup s
  (active s o.g).map fun l => (l, addrOf grp l o)

/-- The lanes of a list that fail a check, with their causes. -/
def failing (check : Nat → Option Cause) (as : List (Nat × Nat)) : List LaneTrap :=
  as.filterMap fun e => (check e.2).map fun c => ⟨e.1, c⟩

/-- The lanes of a list that pass a check. -/
def passing (check : Nat → Option Cause) (as : List (Nat × Nat)) : List (Nat × Nat) :=
  as.filter fun e => (check e.2).isNone

/-- The conflict degree of a local access (R208). -/
def localDegree (op : MemOp) (o : Ops) (s : State) : Nat :=
  degree op.bytes ((passing (checkAccess op.bytes (curWS s)) (laneAddrs s o)).map (·.2))

/-- The traps of a watched access. -/
def watchTraps (op : MemOp) (s : State) (ok : List (Nat × Nat)) : List LaneTrap :=
  ok.filterMap fun e =>
    (watchHit s (laneAt (curGroup s) e.1) op.bytes e.2 op.rd op.wr).map fun i => ⟨e.1, .watch, i, BitVec.ofNat 32 e.2, 0⟩

/-- Commits an access for lanes: the window, the destinations of `done`, the shifts of `idle`, and the PCs of both. -/
def commitMem (op : MemOp) (d : Spec) (s : State) (done : List (Nat × BitVec 128)) (idle : List Nat) : State :=
  let next := curNext s
  onGroup s fun grp =>
    let grp := done.foldl (fun g e => modLane g e.1 fun ln => { deliverMem op ln d e.2 with pc := next }) grp
    modLanes grp idle fun _ ln => { idleMem op d ln with pc := next }

/-- A local scratchpad access: LD, ST, ATOM or ACAS (R213). -/
def localWord (op : MemOp) (o : Ops) (cb : Cb) (s : State) : State :=
  let grp := curGroup s
  let as := laneAddrs s o
  let check := checkAccess op.bytes (curWS s)
  let bad := failing check as
  let ok := passing check as
  let idle := (subLanes s).filter fun l => !guardIn o.g (laneAt grp l)
  if cbBound cb < degree op.bytes (ok.map (·.2)) then
    let next := curNext s
    trapLanes (onGroup s fun grp => setPc grp idle next) (bad ++ ok.map fun e => ⟨e.1, .limitConflict, 0, 0, 0⟩)
  else
    let hits := watchTraps op s ok
    let go := ok.filter fun e => !(hits.any fun t => t.lane == e.1)
    let steps := go.map fun e => (e.1, e.2, memSource op grp e.1 o.c, readSpec grp e.1 o.d)
    let r := memSteps op (curTeam s).sp steps
    let s' := onTeam s fun t => { t with sp := r.1 }
    trapLanes (commitMem op o.d s' r.2 idle) (bad ++ hits)

/-- LD (R211 to R213). -/
def execLd (o : Ops) (sz : Size) (cb : Cb) (s : State) : Host.Outcome State Fault Refusal :=
  .next (localWord (.ld sz) o cb s)

/-- ST (R211 to R213). -/
def execSt (o : Ops) (sz : Size) (cb : Cb) (s : State) : Host.Outcome State Fault Refusal :=
  .next (localWord (.st sz) o cb s)

/-- ATOM (R213, R214). -/
def execAtom (o : Ops) (a : Aop) (cb : Cb) (s : State) : Host.Outcome State Fault Refusal :=
  .next (localWord (.atom a) o cb s)

/-- ACAS (R213, R214). -/
def execAcas (o : Ops) (cb : Cb) (s : State) : Host.Outcome State Fault Refusal :=
  .next (localWord .acas o cb s)

/-! ## RLD, RST and RATOM (R216 to R219) -/

/-- The place of a grid's team on a core, if there is one (R170). -/
def placeOf (s : State) (k grid : Nat) : Option Nat :=
  [0, 1].find? fun tx => match teamAt (getCore s k) tx with | some t => t.grid == grid | none => false

/-- The target core of a cluster address (R216). -/
def remoteCore (s : State) (a : Nat) : Nat := coreInCluster s.cur.core (a / 2 ^ 21 % 16)

/-- The check of a remote access (R219). -/
def checkRemote (n ws grid : Nat) (s : State) (a : Nat) : Option Cause :=
  let o := a % 2 ^ 21
  if o % n ≠ 0 then some ⟨.misalign, 0, BitVec.ofNat 32 a, 0⟩
  else if 2 ^ 25 ≤ a || 11 < a / 2 ^ 21 % 16 || (placeOf s (remoteCore s a) grid).isNone || ws < o + n then
    some ⟨.bounds, 0, BitVec.ofNat 32 a, 0⟩
  else none

/-- The part of a remote access that goes to cluster-local core `i` (R217). -/
def remotePart (op : RemoteOp) (dst : Spec) (tag : Nat) (s : State) (lanes : List RemoteLane) (i : Nat) : Remote :=
  let h := hops (localIndex s.cur.core) i
  let c := cyc s s.cur.core
  { tag := tag, grid := (curTeam s).grid, tx := s.cur.tx, group := s.cur.group, target := coreInCluster s.cur.core i, op := op,
    dst := dst, lanes := lanes, entry := c + 10 + h, ready := c + 20 + 2 * h, entered := false, results := [] }

/-- The access of a remote instruction to one window. -/
def RemoteOp.mem : RemoteOp → MemOp
  | .ld s => .ld s
  | .st s => .st s
  | .atom a => .atom a

/-- The registers of a remote instruction's destination. -/
def RemoteOp.regs : RemoteOp → Nat
  | .ld s => s.regs
  | .st _ => 0
  | .atom _ => 1

/-- The scoreboard entries of a result that an event brings: the destination and the new last-result entry (R48, R177, R217). -/
def pendTagged (d : Spec) (n : Nat) (mask : BitVec 32) (tag : Nat) : List Pend :=
  ((Field.res ⟨d, n⟩) ++ [Res.y 0]).map fun r => ⟨r, none, mask, tag⟩

/-- RLD, RST and RATOM (R219). A conflict at any destination raises LIMIT_CONFLICT for every checked lane, and nothing is sent (R218). -/
def remoteWord (op : RemoteOp) (o : Ops) (s : State) : State :=
  let m := op.mem
  let grp := curGroup s
  let grid := (curTeam s).grid
  let as := laneAddrs s o
  let check := checkRemote m.bytes (curWS s) grid s
  let bad := failing check as
  let ok := passing check as
  let idle := (subLanes s).filter fun l => !guardIn o.g (laneAt grp l)
  let at_ := fun (i : Nat) => ok.filter fun e => e.2 / 2 ^ 21 % 16 == i
  let next := curNext s
  if (List.range 12).any fun i => 1 < degree m.bytes ((at_ i).map fun e => e.2 % 2 ^ 21) then
    trapLanes (onGroup s fun grp => setPc grp idle next) (bad ++ ok.map fun e => ⟨e.1, .limitConflict, 0, 0, 0⟩)
  else
    let tag := (curCore s).remoteNo + 1
    let parts := (List.range 12).filterMap fun i =>
      match at_ i with
      | [] => none
      | es => some (remotePart op o.d tag s (es.map fun e =>
          ⟨e.1, e.2 % 2 ^ 21, memSource m grp e.1 o.c, (laneAt grp e.1).ysh + 1⟩) i)
    let s := onCore s fun c => { c with remotes := c.remotes ++ parts, remoteNo := tag }
    let s := onGroup s fun g =>
      let g := modLanes g (idle ++ ok.map (·.1)) fun _ ln => { idleMem m o.d ln with pc := next }
      if op.regs = 0 || ok.isEmpty then g
      else { g with pend := g.pend ++ pendTagged o.d op.regs (maskOf (ok.map (·.1))) tag }
    trapLanes s bad

/-- RLD (R216 to R219). -/
def execRld (o : Ops) (sz : Size) (s : State) : Host.Outcome State Fault Refusal := .next (remoteWord (.ld sz) o s)

/-- RST (R216 to R219). -/
def execRst (o : Ops) (sz : Size) (s : State) : Host.Outcome State Fault Refusal := .next (remoteWord (.st sz) o s)

/-- RATOM (R214, R216 to R219). -/
def execRatom (o : Ops) (a : Aop) (s : State) : Host.Outcome State Fault Refusal := .next (remoteWord (.atom a) o s)

/-! ## OLD and OST (R225, R226) -/

/-- The byte of the team's window that an operand-buffer address names, or why it fails (R225). -/
def obByte (t : Team) (nr n a : Nat) : Except Cause Nat :=
  let o := a % 2 ^ 20
  let aux := BitVec.ofNat 32 a
  match (if 2 ^ 24 ≤ a || nr ≤ a / 2 ^ 20 % 16 then none else Tbl.get none t.rsv (a / 2 ^ 20 % 16)) with
  | none => .error ⟨.bounds, 0, aux, 0⟩
  | some r =>
    if o % n ≠ 0 then .error ⟨.misalign, 0, aux, 0⟩
    else if 16 * r.size16 < o + n then .error ⟨.bounds, 0, aux, 0⟩
    else .ok (16 * r.base16 + o)

/-- OLD and OST (R225). -/
def obWord (op : MemOp) (o : Ops) (s : State) : State :=
  let grp := curGroup s
  let t := curTeam s
  let nr := curNR s
  let n := op.bytes
  let as := laneAddrs s o
  let bad := as.filterMap fun e => match obByte t nr n e.2 with | .error c => some (LaneTrap.mk e.1 c) | .ok _ => none
  let ok := as.filterMap fun e => match obByte t nr n e.2 with | .ok b => some (e.1, b) | .error _ => none
  let idle := (subLanes s).filter fun l => !guardIn o.g (laneAt grp l)
  let s := if op.wr then noteOb s s.cur.core s.cur.tx (ok.flatMap fun e => (List.range n).map (e.2 + ·)) else s
  let r := memSteps op (curTeam s).ob (ok.map fun e => (e.1, e.2, memSource op grp e.1 o.c, 0))
  let s := onTeam s fun t => { t with ob := r.1 }
  trapLanes (commitMem op o.d s r.2 idle) bad

/-- OLD (R225, R226). -/
def execOld (o : Ops) (sz : Size) (s : State) : Host.Outcome State Fault Refusal := .next (obWord (.ld sz) o s)

/-- OST (R225, R226). -/
def execOst (o : Ops) (sz : Size) (s : State) : Host.Outcome State Fault Refusal := .next (obWord (.st sz) o s)

end Sys2Proof.Machine
end

