-- ==== Sys2Proof/Machine/Teams.lean ====
section
/-! DEFINITION. Grids and their teams: which teams a grid has, the events that blame names, dropping engine work, releasing a team (R348,
R351, R388). -/
namespace Sys2Proof.Machine

/-- The cores of the package. -/
def allCores : List Nat := List.range 864

/-- The teams of a grid, as core and place, in ascending core number. -/
def teamsOf (s : State) (gid : Nat) : List (Nat × Nat) :=
  s.cores.flatMap fun e =>
    [0, 1].filterMap fun tx => match teamAt e.2 tx with
      | some t => if t.grid == gid then some (e.1, tx) else none
      | none => none

/-- A named event of a grid (R351). -/
def blame (s : State) (gid : Nat) (b : Blame) : State :=
  modGrid s gid fun g => { g with events := g.events ++ [{ tick := tick s, blame := b }] }

/-- Whether a grid's termination has begun (R388). -/
def ending (s : State) (gid : Nat) : Bool := match getGrid s gid with | some g => (match g.st with | .terminating _ _ => true | _ => false) | none => false

/-- What becomes of a running command whose grid ends: a FATOM that stands between its request and its old value finishes its element, without its
increment; a COPY stands between two elements (R388). The reports that it awaits have been kept with the grid. -/
def abandoned (c : Cmd) : Option Cmd :=
  match c.st with
  | .home | .back _ _ => some { c with ctr := none, sys := false, pendingHost := 0, pendingPeer := 0 }
  | _ => none

/-! ## The walkers of a die (R255) -/

/-- What walks that are served together share: their command, and the tables above level 0 (R255). -/
def walkKey (w : Walk) : Nat × Nat × Nat × Nat := (w.core, w.serial, w.vi, w.page / 32)

/-- The walkers that are busy: walks served together take one. -/
def walkersBusy (ws : List Walk) : Nat := (((ws.filter (·.started.isSome)).map walkKey).eraseDups).length

/-- The command of a core with a serial number, in the copy queue or in a stager. -/
def findCmd (s : State) (k serial : Nat) : Option Cmd :=
  ((getCore s k).copyq ++ (getTeam s k 0).jobs ++ (getTeam s k 1).jobs).find? (·.serial == serial)

/-- The walks outstanding for a walk's command. -/
def walksOf (ws : List Walk) (w : Walk) : Nat := (ws.filter fun x => x.core == w.core && x.serial == w.serial).length

/-- The tick at which a walk's command was issued. -/
def walkIssued (s : State) (w : Walk) : Nat := match findCmd s w.core w.serial with | some c => c.issued | none => 0

/-- Whether a pending walk goes before another: fewer outstanding walks of its command, then the earlier issue (R255) (log entry 38). -/
def walkBefore (s : State) (ws : List Walk) (a b : Walk) : Bool :=
  decide (walksOf ws a < walksOf ws b) || (walksOf ws a == walksOf ws b && decide (walkIssued s a < walkIssued s b))

/-- The walk that the scheduler serves next. -/
def nextWalk (s : State) (ws : List Walk) : Option Nat :=
  (List.range ws.length).foldl (fun best i =>
    match ws[i]? with
    | none => best
    | some w =>
      if w.started.isSome then best
      else match best.bind fun j => ws[j]? with
        | none => some i
        | some b => if walkBefore s ws w b then some i else best) none

/-- Starts the next pending walk, if there is one, with those that share its upper levels (R255). -/
def startWalk (s : State) (die : Nat) : State :=
  let ws := (getDie s die).walks
  match (nextWalk s ws).bind fun i => ws[i]? with
  | none => s
  | some w =>
    let start := fun (x : Walk) => if walkKey x == walkKey w && x.started.isNone then { x with started := some (tick s) } else x
    modDie s die fun d => { d with walks := ws.map start }

/-- Starts pending walks while walkers are free (R255). -/
def fillWalkers (s : State) (die : Nat) : State :=
  ((getDie s die).walks.filter (·.started.isNone)).foldl (fun s _ => if walkersBusy (getDie s die).walks < 64 then startWalk s die else s) s

/-- Drops the engine work of a team: queued, running and parked commands but for those that `keep` keeps, stager work, and its walks, whose walkers serve
the pending walks of others (R255, R388) (log entry 33). -/
def dropEngines (s : State) (k tx : Nat) (keep : Cmd → Option Cmd := fun _ => none) : State :=
  let gone := (((getCore s k).copyq.filter fun x => x.tx == tx && (keep x).isNone).map (·.serial)) ++ (getTeam s k tx).jobs.map (·.serial)
  let s := modCore s k fun c => { c with copyq := c.copyq.filterMap fun x => if x.tx = tx then keep x else some x }
  let s := modTeam s k tx fun t => { t with jobs := [], issued := [], claim := none }
  let s := modDie s (dieOf k) fun d => { d with
    log := d.log.filter fun e => !(e.core == k && e.cmd.tx == tx),
    walks := d.walks.filter fun w => !(w.core == k && gone.contains w.serial) }
  fillWalkers s (dieOf k)

/-- The record table of a core without the records of one place. -/
def dropTraps (c : Core) (tx : Nat) : Core :=
  { c with traps := c.traps.filter fun e => match e.2 with | some r => r.teamx != tx | none => false }

/-- Releases a team's place: its windows, its matrix context, its records, and what the cache of basic-block counters still holds of it (R158, R385,
R388). -/
def releaseTeam (s : State) (k tx : Nat) : State :=
  let s := dropEngines s k tx
  let s := match (getTeam s k tx).ctx with
    | some n => modCtx s (pairOf k) n fun c => if c.home = some (k, tx) then {} else c
    | none => s
  modCore s k fun c =>
    let c := dropTraps c tx
    { c with teams := Tbl.erase c.teams tx, remotes := c.remotes.filter (·.tx != tx), bbcache := c.bbcache.filter (·.1 != tx),
             drainStore := c.drainStore.filter fun e => !((getTeam s k tx).slots.any fun x => x.2 == e.1 + 1) }

/-- Stops every team of a grid at an instruction boundary (R388). -/
def stopTeams (s : State) (gid : Nat) : State :=
  (teamsOf s gid).foldl (fun s e => modTeam s e.1 e.2 fun t => { t with stopped := true }) s

/-- The reports of the host, and of peers, that a saved team awaits (R273). -/
def SavedTeam.owes (x : SavedTeam) : Nat × Nat :=
  ((x.cmds.map (·.pendingHost)).sum + (x.team.issued.map (·.pendingHost)).sum, (x.cmds.map (·.pendingPeer)).sum + (x.team.issued.map (·.pendingPeer)).sum)

/-- The clock of everything that the dies and hubs have stamped so far. -/
def clockNow (s : State) : List Nat := holders.map fun d => (getView s d).vc.getD d 0

/-- The reports of host and of peer writes that a team's commands still await. -/
def teamOwes (s : State) (k tx : Nat) : Nat × Nat :=
  let t := getTeam s k tx
  let cs := ((getCore s k).copyq.filter (·.tx == tx)) ++ t.jobs ++ ((getDie s (dieOf k)).log.filter fun e => e.core == k && e.cmd.tx == tx).map (·.cmd)
  ((cs.map (·.pendingHost)).sum + (t.issued.map (·.pendingHost)).sum, (cs.map (·.pendingPeer)).sum + (t.issued.map (·.pendingPeer)).sum)

/-- Keeps with its grid what the completion record must still see of a team's writes (R273). -/
def keepWrites (s : State) (k tx : Nat) : State :=
  let o := teamOwes s k tx
  let c := clockNow s
  modGrid s (getTeam s k tx).grid fun g => { g with
    need := c, owedHost := Tbl.upd 0 g.owedHost k (· + o.1), owedPeer := Tbl.upd 0 g.owedPeer k (· + o.2) }

/-- Begins the termination of a grid: its teams stop, its engine work and its queued drains are dropped, but an element that is running is finished; MMAs in
flight retire and each running half of a drain finishes the commit of its row (R388). Termination replaces a save (R402) (log entry 70). -/
def terminate (s : State) (gid status : Nat) : State :=
  match getGrid s gid with
  | none => s
  | some g =>
    match g.st with
    | .terminating _ _ | .finished => s
    | _ =>
      let s := (teamsOf s gid).foldl (fun s e => dropEngines (keepWrites s e.1 e.2) e.1 e.2 abandoned) (stopTeams s gid)
      let s := (teamsOf s gid).foldl (fun s e =>
        match (getTeam s e.1 e.2).ctx with
        | some n => modCtx s (pairOf e.1) n fun c => { c with
            ops := [],
            drains := c.drains.filter fun d => d.image.isSome }
        | none => s) s
      let c := clockNow s
      modGrid s gid fun g => { g with
        st := .terminating (tick s + 2000) status, saved := [], need := c,
        owedHost := g.saved.foldl (fun t x => Tbl.upd 0 t x.core (· + x.owes.1)) g.owedHost,
        owedPeer := g.saved.foldl (fun t x => Tbl.upd 0 t x.core (· + x.owes.2)) g.owedPeer }

/-! ## The energy of a run, and the end of a prediction (R352, R365, R374) -/

/-- The cores of a grid that count in its clusters: whole pairs for a BOUND grid and for a predicted run; of a LOOSE grid those that do not stand saved
(R340, R352, R365) (log entry 128). -/
def chargedCores (g : Grid) : List Nat :=
  if !g.loose || (g.pred.isSome && !g.claimed) then (g.cores.flatMap fun k => [k, partner k]).eraseDups
  else g.cores.filter fun k => !(g.saved.any fun x => x.core == k)

/-- The growth of a grid's clusters since its cores last changed, times its cores in each. -/
def openNj (s : State) (g : Grid) : Nat :=
  (g.energy0.map fun e => ((getCluster s e.1).nj - e.2) * ((chargedCores g).filter fun k => clusterOf k == e.1).length).sum

/-- The energy that a run has used so far, in 1/120,000 nJ (R352). -/
def rawEnergy (s : State) (g : Grid) : Nat := (g.coreNj + openNj s g) * 10000 + g.pj * 12

/-- Rounds an energy up to whole nJ (R359, R380). -/
def wholeNj (x : Nat) : Nat := (x + 119999) / 120000

/-- The energy that a run has used so far, in nJ, rounded up (R352, R359). -/
def runEnergy (s : State) (g : Grid) : Nat := wholeNj (rawEnergy s g)

/-- The energy counters of the clusters of a list of cores. -/
def energyNow (s : State) (cores : List Nat) : List (Nat × Nat) :=
  ((cores.map clusterOf).eraseDups).map fun c => (c, (getCluster s c).nj)

/-- Changes the cores of a grid: the growth of its clusters so far is kept, and counts on from now for its new cores (R352). -/
def recount (s : State) (gid : Nat) (f : Grid → Grid) : State :=
  modGrid s gid fun g =>
    let g' := f { g with coreNj := g.coreNj + openNj s g }
    { g' with energy0 := energyNow s (chargedCores g') }

/-- Adds 1 to a counter of R377, which wraps at 64 bits. -/
def bumpPrd (s : State) (ctr : Nat) : State := { s with prdCounts := Tbl.upd 0 s.prdCounts ctr fun n => (n + 1) % 2 ^ 64 }

/-- Adds to PRD_ENERGY (R365, R377). -/
def addPrdEnergy (s : State) (nj : Nat) : State := { s with prdEnergy := (s.prdEnergy + nj) % 2 ^ 64 }

/-- The shadows of a prediction return to the Fly (R366, R374). -/
def freeShadows (s : State) (i : Nat) : State :=
  match Tbl.get none s.preds i with
  | some p => { s with flyFrames := p.shadows.foldl (fun t x => Tbl.set t x.frame x.size) s.flyFrames, preds := Tbl.erase s.preds i }
  | none => s

/-- Discards a prediction: its cores are freed, its shadows return to the Fly, and one PRD_ counter counts it (R374) (log entry 76). -/
def discard (s : State) (i ctr : Nat) : State :=
  match Tbl.get none s.preds i, getGrid s i with
  | some p, some g =>
    let s := if p.finished.isNone then addPrdEnergy s (runEnergy s g) else s
    let s := (teamsOf s i).foldl (fun s e => releaseTeam s e.1 e.2) s
    let s := freeShadows s i
    bumpPrd { s with grids := Tbl.erase s.grids i } ctr
  | _, _ => s

/-- Whether every earlier drain of a drain's pair has performed its last store (R280, R322). -/
def pairClear (c : Ctx) (d : Drain) : Bool := c.drains.all fun e => e.pair != d.pair || decide (d.seq ≤ e.seq)

/-- Whether nothing of a team's matrix work is left to finish before its state is saved or released: a half that an earlier drain of its pair holds back
has no commit in progress (R323, R388) (log entry 145). -/
def matrixQuiet (s : State) (k tx : Nat) : Bool :=
  match (getTeam s k tx).ctx with
  | none => true
  | some n =>
    let c := getCtx s (pairOf k) n
    (c.mmas.all fun m => m.st == .retired) && c.drains.all fun d => !(pairClear c d) || (!halfRunning d.half0 && !halfRunning d.half1)
where
  halfRunning : HalfSt → Bool
    | .running _ => true
    | _ => false

end Sys2Proof.Machine
end

