-- ==== Sys2Proof/Machine/Engines.lean ====
section
/-! DEFINITION. The engines: commands of the copy engine, the elements they move, their faults and their completion (R246 to R262, R366 to R368,
R457 to R460). -/
namespace Sys2Proof.Machine

/-! ## Records -/

/-- Bits of a record. -/
def fieldAt (w lo n : Nat) : Nat := w / 2 ^ lo % 2 ^ n

/-- The signed reading of an n-bit field. -/
def signedAt (w lo n : Nat) : Int :=
  let x := fieldAt w lo n
  if x < 2 ^ (n - 1) then x else (x : Int) - 2 ^ n

/-- A shape record (R246). -/
def shapeRec (w : Nat) : ShapeRec :=
  { base := fieldAt w 0 64, elog := fieldAt w 64 2, ndim := fieldAt w 66 2, fill := fieldAt w 68 1 == 1,
    n := [fieldAt w 128 32, fieldAt w 160 32, fieldAt w 192 32],
    s := [signedAt w 256 64, signedAt w 320 64, signedAt w 384 64],
    b := [fieldAt w 448 16, fieldAt w 464 16, fieldAt w 480 16], lp := [fieldAt w 512 32, fieldAt w 544 32],
    mbz := fieldAt w 576 448 != 0 || fieldAt w 496 16 != 0 || fieldAt w 224 32 != 0 || fieldAt w 69 59 != 0 }

/-- The used dimensions of a record's lists. -/
def ShapeRec.dims (r : ShapeRec) : Nat := r.ndim + 1
def ShapeRec.bs (r : ShapeRec) : List Nat := r.b.take r.dims
def ShapeRec.ns (r : ShapeRec) : List Nat := r.n.take r.dims
def ShapeRec.ss (r : ShapeRec) : List Int := r.s.take r.dims
def ShapeRec.lps (r : ShapeRec) : List Nat := r.lp.take (r.dims - 1)
def ShapeRec.elem (r : ShapeRec) : Nat := 2 ^ r.elog

/-- The product of a list. -/
def prod (l : List Nat) : Nat := l.foldl (· * ·) 1

/-- The box index of the n-th element in ascending order, dimension 0 outermost (R240, R248). -/
def unrank : List Nat → Nat → List Nat
  | [], _ => []
  | _ :: bs, n => n / prod bs :: unrank bs (n % prod bs)

/-- The sum of products of two lists. -/
def dot (a b : List Int) : Int := (List.zipWith (· * ·) a b).foldl (· + ·) 0

def ints (l : List Nat) : List Int := l.map Int.ofNat

/-- An element of a command: its global address, whether it lies inside the tensor, and its local byte. -/
structure Elem where
  va : Int
  inb : Bool
  la : Nat
  deriving DecidableEq, Repr

/-- The n-th element of a COPY (R248). -/
def copyElem (r : ShapeRec) (coords : List Int) (loc n : Nat) : Elem :=
  let ix := unrank r.bs n
  let gk := List.zipWith (· + ·) coords (ints ix)
  let la := loc + (List.zipWith (· * ·) ix r.lps).foldl (· + ·) 0 + ix.getLastD 0 * r.elem
  ⟨(r.base : Int) + dot gk r.ss, (List.zip gk r.ns).all fun e => 0 ≤ e.1 && e.1 < (e.2 : Int), la⟩

/-- The local span of a box, in bytes past the local address (R248). -/
def localSpan (r : ShapeRec) : Int :=
  (List.zipWith (fun (b lp : Nat) => ((b : Int) - 1) * lp) r.bs r.lps).foldl (· + ·) 0 + ((r.bs.getLastD 0 : Int) - 1) * r.elem + r.elem

/-- The bytes of a box (R248). -/
def boxBytes (r : ShapeRec) : Nat := prod r.bs * r.elem

/-- The pages of an element's first and last byte: no rule aligns an element. -/
def elemPages (va : Int) (elem : Nat) : List Int :=
  let a := va / 65536
  let b := (va + (elem - 1 : Nat)) / 65536
  if a = b then [a] else [a, b]

/-- The distinct 64 KiB pages that a box touches whose first element lies at `base` (R457) (log entry 26). -/
def boxPages (bs : List Nat) (ss : List Int) (elem base : Nat) : Nat :=
  (((List.range (prod bs)).flatMap fun n => elemPages ((base : Int) + dot (ints (unrank bs n)) ss) elem).eraseDups).length

/-- The largest number of distinct 64 KiB pages that a box can touch at any base and any coordinates: a legal base is aligned to the element (R248,
R457). -/
def maxPages (r : ShapeRec) : Nat := (List.range (65536 / r.elem)).foldl (fun m b => max m (boxPages r.bs r.ss r.elem (b * r.elem))) 0

/-- The global side of an element of a region for a tile, given the base argument (R240). -/
def regionVa (r : Region) (arg : DWord) (t : Tile) (ix : List Nat) : Int :=
  let start : List Int := r.aff.map fun a =>
    a.getD 0 0 * Int.ofNat t.x + a.getD 1 0 * Int.ofNat t.y + a.getD 2 0 * Int.ofNat t.z + a.getD 3 0
  Int.ofNat arg.toNat + r.bconst + dot (List.zipWith (· + ·) start (ints ix)) r.s

/-- The extents of a region, 1 for an unused dimension. -/
def Region.ext (r : Region) : List Nat := (List.range 3).map fun k => if k ≤ r.ndim then r.e.getD k 1 else 1

/-- The half size HS (R240). -/
def Region.half (r : Region) : Nat := (prod r.ext * 2 ^ r.elog + 15) / 16 * 16

/-- The elements of a region. -/
def Region.count (r : Region) : Nat := prod r.ext

/-! ## Figures (R259, R261, R341, R405, R460) -/

/-- The hottest stack of a die. -/
def hottestStack (d : Die) : Nat :=
  max (Tbl.get ({} : Stack) d.hbmStacks 0).temp.toNat (Tbl.get ({} : Stack) d.hbmStacks 1).temp.toNat

/-- The refresh factor h of a die in hundredths (R341). -/
def refreshFactor (s : State) (die : Nat) : Nat :=
  let t := hottestStack (getDie s die)
  if t ≤ 85 then 100 else if t ≤ 95 then 97 else 85

/-- β′: a byte share scaled by the refresh factor, never below 1 (R259, R341). -/
def shareOf (b h : Nat) : Nat := max 1 (b * h / 100)

/-- Where a page lies: the HBM of die 0 to 7, host memory (8), a peer device (9) or the capacity tier (10) (R237). -/
def pagePlace (l : Leaf) : Nat :=
  match l.pte.tgt with
  | 0 => homeOf (physKey 0 (l.pte.frame * 65536))
  | 2 => 8
  | 3 => 9
  | _ => 10

/-- A place as a die sees it: its own HBM, another die's, host memory, a peer device, the capacity tier (R405, R460). -/
def locFrom (die place : Nat) : Nat := if place < 8 then (if place = die then 0 else 1) else place - 6

/-- Where a page lies as a die sees it. -/
def locOf (die : Nat) (l : Leaf) : Nat := locFrom die (pagePlace l)

/-- The ticks that a location adds to a page; the tier's are excused time (R256, R405). -/
def locTicks (loc : Nat) : Nat := match loc with | 0 => 0 | 1 => 100 | 2 => 1500 | 3 => 2000 | _ => 0

/-- The energy figure of a location in tenths of a pJ per byte (R261). -/
def locFigure (loc : Nat) : Nat := match loc with | 0 => 50 | 1 => 75 | 2 => 250 | 3 => 300 | _ => 180

/-- The location of an interface's page, none where it is not valid. -/
def pageLoc (s : State) (vi die va : Nat) : Option Nat := (walkTree s vi va).map (locOf die)

/-- E(c) (R259, R405). -/
def engineTicks (s : State) (vi die bytes share : Nat) (pages : List Nat) : Nat :=
  200 + (bytes + share - 1) / share +
    (pages.map fun p => 250 + (match pageLoc s vi die (p * 65536) with | some l => locTicks l | none => 0)).foldl (· + ·) 0

/-- The location at which the walk charged a page of a die's command: the command's own, else the page's at quotation (R460). -/
def chargedLoc (g : Grid) (die : Nat) (own : Option Nat) (page : Nat) : Nat :=
  match own with
  | some l => l
  | none => match g.kernel.places.find? fun x => x.1 == page with | some x => locFrom die x.2 | none => 0

/-- The time by which a page that a command reaches lies further away than its charge (R460). -/
def excessTicks (g : Grid) (die : Nat) (own : Option Nat) (page : Nat) (l : Leaf) : Nat :=
  locTicks (locOf die l) - locTicks (chargedLoc g die own page)

/-- The distinct 64 KiB pages of a list of addresses. -/
def pagesOf (vas : List Int) : List Nat := (vas.map fun v => v.toNat / 65536).eraseDups

/-- Counts engine bytes for a grid (R261, R352, R460). -/
def charge (s : State) (gid bytes figure : Nat) (judged : Nat) : State :=
  modGrid s gid fun g => { g with pj := g.pj + bytes * figure, pjJudged := g.pjJudged + bytes * judged }

/-! ## The queue of a core's copy engine -/

/-- Whether a command of an engine waits for space in the die's log (R459). -/
def isBlocked (c : Cmd) : Bool := match c.st with | .blocked _ _ _ => true | _ => false

/-- Whether the copy queue takes no further command (R248, R459). -/
def queueFull (c : Core) : Bool := decide (32 ≤ c.copyq.length) || c.copyq.any isBlocked

/-- Whether fences have nothing more to see of a command (R275). -/
def settled (s : State) (i : Issued) : Bool := i.done && i.writes.all (appliedAll s) && i.pendingHost == 0 && i.pendingPeer == 0

/-- Places a command in the copy queue with its owed tick (R248, R259). -/
def pushCopy (s : State) (k tx group : Nat) (mask : BitVec 32) (kind : CmdKind) (ctr : Option Nat) (sys store : Bool)
    (ticks : Nat) (loc : Option Nat) : State :=
  let c := getCore s k
  let owed := max (tick s) c.owedC + ticks
  let cmd : Cmd := { serial := c.serial, tx := tx, group := group, mask := mask, kind := kind, ctr := ctr, sys := sys,
                     issued := tick s, owed := owed, loc := loc, pc := s.cur.pc }
  let s := modCore s k fun c => { c with copyq := c.copyq ++ [cmd], serial := c.serial + 1, owedC := owed }
  modTeam s k tx fun t => { t with issued := (t.issued.filter fun i => !settled s i) ++
    [{ serial := cmd.serial, group := group, mask := mask, wback := false, store := store, done := false, incremented := false,
       ctr := ctr, owed := owed, writes := [], pendingHost := 0, pendingPeer := 0 }] }

/-! ## COPY and FATOM at issue -/

/-- A uniform operand that the zero code leaves out (R80, R81) (log entry 32). -/
def optU (s : State) (sp : Spec) : Option Nat := if sp = .zero then none else some (curU s sp).toNat

/-- Whether a word of `n` bytes at `a` passes the window. -/
def beyond (size n : Nat) (a : Option Nat) : Bool := match a with | some a => size < a + n | none => false

def misaligned (n : Nat) (a : Option Nat) : Bool := match a with | some a => a % n != 0 | none => false

/-- The cause of an address failure, with the address. -/
def addrCause (code : TrapCode) (a : Option Nat) : Cause := ⟨code, 0, BitVec.ofNat 32 (a.getD 0), 0⟩

/-- Step 1 of COPY's checks (R248) (log entry 140). -/
def copyCheck1 (ws rec : Nat) (ctr : Option Nat) : Option Cause :=
  if rec % 128 ≠ 0 then some (addrCause .misalign (some rec))
  else if misaligned 4 ctr then some (addrCause .misalign ctr)
  else if ws < rec + 128 then some (addrCause .bounds (some rec))
  else if beyond ws 4 ctr then some (addrCause .bounds ctr)
  else none

/-- Steps 2 to 4 of COPY's checks, but for the charge (R248). `span` is the local extent: none for a reservation that cannot be used, else the bytes
available past the local address. -/
def copyCheck2 (r : ShapeRec) (e : CopyExt) (loc : Nat) (coords : List Int) (room : Option Nat) : Option Cause :=
  let el := r.elem
  if r.ndim = 3 || r.mbz then some ⟨.format, 0, 0, 0⟩
  else if (!e.lk && loc % el != 0) || r.base % el != 0 || (r.ss.any fun x => x % (el : Int) != 0) || (r.lps.any fun x => x % el != 0) then
    some ⟨.misalign, 0, 0, 0⟩
  else if r.ndim ≠ e.cn.val || 2 ^ 20 < boxBytes r || 2 ^ 57 ≤ r.base then some ⟨.bounds, 0, 0, 0⟩
  else if (match room with | none => true | some n => decide ((n : Int) < localSpan r)) then some ⟨.bounds, 0, 0, 0⟩
  else if !r.fill && (List.zip coords (List.zip r.bs r.ns)).any (fun x => x.1 < 0 || (x.2.2 : Int) < x.1 + x.2.1) then
    some ⟨.bounds, 0, 0, 0⟩
  else none

/-- Whether the record passes its charge (R457). -/
def overCharge (g : Grid) (pc : Nat) (r : ShapeRec) : Bool :=
  g.kernel.copyCharge.any fun c => c.1 == pc && (decide (c.2.1 < boxBytes r) || decide (c.2.2 < maxPages r))

/-- The location at which the walk charged a COPY: that of the page of the record's BASE in the `.data` image for a fixed record, else the issuing
die's HBM (R460). -/
def copyLoc (g : Grid) (die pc rec : Nat) : Nat :=
  if g.kernel.copyCharge.any fun c => c.1 == pc then
    let base := (List.range 8).foldl (fun n i => n + (g.kernel.data.getD (rec + i) 0).toNat * 256 ^ i) 0
    chargedLoc g die none (base / 65536)
  else 0

/-- COPY; while the queue is full the word does not issue (R248). -/
def execCopy (g : Guard) (loc shape : Spec) (coord : Fin 128) (ctr : Spec) (e : CopyExt) (s : State) :
    Host.Outcome State Fault Refusal :=
  .next (groupWord s g fun act =>
    match curGrid s with
    | none => advance s
    | some gr => if queueFull (curCore s) then s else
      let t := curTeam s
      let rec_ := (curU s shape).toNat
      let ctr := optU s ctr
      let ws := curWS s
      let lo := (curU s loc).toNat
      match copyCheck1 ws rec_ ctr with
      | some c => trapActive s act c
      | none =>
        let r := shapeRec (readBytes t.sp rec_ 128)
        let coords := (List.range r.dims).map fun k => (readSpec (curGroup s) 0 (specPlus (.g coord) k)).toInt
        let off := 16 * e.off16.toNat
        let ent := if lo < curNR s then Tbl.get none t.rsv lo else none
        let room := if e.lk then ent.map fun x => 16 * x.size16 - off else some (ws - lo)
        let room := if e.lk then (match ent with | some x => if 16 * x.size16 < off then none else room | none => none)
                    else if ws < lo then none else room
        match copyCheck2 r e lo coords room with
        | some c => trapActive s act c
        | none =>
          if overCharge gr s.cur.pc r then trapActive s act ⟨.bounds, 0, 0, 0⟩
          else
            let die := dieOf s.cur.core
            let base := if e.lk then (match ent with | some x => 16 * x.base16 + off | none => 0) else lo
            let es := (List.range (prod r.bs)).map (copyElem r coords base)
            let pages := pagesOf ((es.filter (·.inb)).map (·.va))
            let cl := copyLoc gr die s.cur.pc rec_
            let n := engineTicks s gr.vi die (boxBytes r) (shareOf gr.descr.bwc (refreshFactor s die)) pages
            advance (pushCopy s s.cur.core s.cur.tx s.cur.group (maskOf act) (.copy r coords e.store e.lk base) ctr e.sys e.store n (some cl)))

/-- FATOM's checks (R253) (log entry 142). -/
def fatomCheck (ws w addr : Nat) (old ctr : Option Nat) : Option Cause :=
  if 2 ^ 57 ≤ addr || beyond ws w old || beyond ws 4 ctr then some ⟨.bounds, 0, 0, 0⟩
  else if addr % w ≠ 0 || misaligned w old || misaligned 4 ctr then some ⟨.misalign, 0, 0, 0⟩
  else none

/-- Places an atomic in the copy queue (R158, R253). -/
def pushFatom (s : State) (k tx group : Nat) (mask : BitVec 32) (op : Gop) (w64 : Bool) (addr : Nat) (b cmp : DWord)
    (old ctr : Option Nat) (sys : Bool) : State :=
  match teamGrid s (getTeam s k tx) with
  | none => s
  | some gr =>
    let die := dieOf k
    let n := engineTicks s gr.vi die (if w64 then 8 else 4) (shareOf gr.descr.bwc (refreshFactor s die)) [addr / 65536]
    pushCopy s k tx group mask (.fatom op w64 addr b cmp old) ctr sys true n (some 0)

/-- FATOM; while the queue is full the word does not issue (R253). -/
def execFatom (g : Guard) (old : Spec) (addr : Fin 128) (b ctr : Spec) (e : FatomExt) (s : State) :
    Host.Outcome State Fault Refusal :=
  .next (groupWord s g fun act =>
    let grp := curGroup s
    let rd := fun (sp : Spec) => if e.w64 then readPair grp 0 sp else wide (uval grp sp)
    let a := (readPair grp 0 (.g addr)).toNat
    let old := optU s old
    let ctr := optU s ctr
    if queueFull (curCore s) then s else
    match fatomCheck (curWS s) (if e.w64 then 8 else 4) a old ctr with
    | some c => trapActive s act c
    | none => advance (pushFatom s s.cur.core s.cur.tx s.cur.group (maskOf act) e.op e.w64 a (rd b) (rd e.cmp) old ctr e.sys))

/-! ## What an engine moves -/

/-- Writes bytes on the local side of an engine (R245, R249). -/
def localWrite (s : State) (k tx : Nat) (ob : Bool) (la : Nat) (bs : List Byte) : State :=
  if ob then
    modTeam (noteOb s k tx ((List.range bs.length).map (la + ·))) k tx fun t => { t with ob := writeList t.ob la bs }
  else modTeam s k tx fun t => { t with sp := writeList t.sp la bs }

/-- Reads bytes on the local side of an engine. -/
def localRead (s : State) (k tx : Nat) (ob : Bool) (la n : Nat) : List Byte :=
  let t := getTeam s k tx
  if ob then readList t.ob la n else readList t.sp la n

/-- Reads bytes of global memory for an engine of a die, under the seal of their page: of HBM from the die's view; what the host or a peer device holds is
free values (R266, R271, R419). -/
def globalRead (s : State) (die key n sl : Nat) : List Byte × State :=
  let byte := fun i => if keyTgt key < 2 then readSealed s die sl (key + i) else none
  if (List.range n).all fun i => (byte i).isSome then ((List.range n).map fun i => (byte i).getD 0, s)
  else
    let f := if keyTgt key = 3 then Config.peerByte else Config.hostByte
    ((List.range n).map fun i => (byte i).getD (f (s.freeNo + i)), { s with freeNo := s.freeNo + n })

/-- Whether a byte lies in a poisoned 64-byte unit of its home die (R451). -/
def poisoned (s : State) (key : Nat) : Bool :=
  keyTgt key == 0 && Tbl.get false (getDie s (homeOf key)).poison (key / 64)

/-- The cells of bytes written from a physical byte. -/
def cellsOf (key : Nat) : List Byte → List (Nat × Byte)
  | [] => []
  | b :: t => (key, b) :: cellsOf (key + 1) t

/-- A write unit of an engine, in the parts that it has on each page, after the cells of the rest of their blocks: stamped by the die; a part on a host or peer
page also awaits its report (R248, R266, R267). -/
def globalWrite (s : State) (die : Nat) (rest : List (Nat × Byte)) (parts : List (Nat × List Byte)) (c : Cmd) : State × Cmd :=
  let peers := (parts.map (·.1)).filter fun key => keyTgt key == 3
  let s := peers.foldl (fun s key => sendPeer s (keyPeer key)) s
  let (s, w) := stampWrite s die (rest ++ parts.flatMap fun p => cellsOf p.1 p.2)
  (s, { c with writes := c.writes ++ [w], pendingHost := c.pendingHost + ((parts.map (·.1)).filter fun key => keyTgt key == 2).length,
               pendingPeer := c.pendingPeer + peers.length })

/-! ## Predicted runs (R366 to R368) -/

def getPred (s : State) (i : Nat) : Option Prediction := Tbl.get none s.preds i

/-- Whether a grid is a prediction that no launch has adopted (R369). -/
def running (s : State) (gid : Nat) : Bool := match getPred s gid with | some p => !p.adopted | none => false

/-- What a predicted run does where R367 rules out its shadow: the prediction is discarded, but an adopted run, which is its launch's grid
(R369, R372), goes on with the page itself. -/
def noShadow (s : State) (i key : Nat) (p : Prediction) : State × Option Nat :=
  if p.adopted then (s, some key) else (discard s i 7, none)

/-- The shadow of a page of a prediction. -/
def shadowOf (p : Prediction) (vi base : Nat) : Option Shadow := p.shadows.find? fun x => x.vi == vi && x.va == base

/-- The generation of a granule at its home die (R368). -/
def genOf (s : State) (key : Nat) : Nat := Tbl.get 0 (getDie s (homeOf key)).gens (keyFrame key)

/-- Enters a granule in the read set, if it is not there (R368). -/
def noteRead (s : State) (vi : Nat) (va key : Nat) (p : Prediction) : Prediction :=
  let base := va / 65536 * 65536
  if p.readSet.any fun r => r.vi == vi && r.va == base then p
  else { p with readSet := p.readSet ++ [⟨vi, base, keyFrame key, genOf s key⟩] }

/-- The bytes that the shadows of a prediction take. -/
def shadowBytes (p : Prediction) : Nat := (p.shadows.map (·.size)).foldl (· + ·) 0

/-- The bytes of shadows that all predictions hold on a die (R366). -/
def flyUsed (s : State) (die : Nat) : Nat :=
  s.preds.foldl (fun n e => match e.2 with
    | some p => n + ((p.shadows.filter fun x => homeOf x.orig == die).map (·.size)).foldl (· + ·) 0
    | none => n) 0

/-- The HBM frames, as first frame and count, that a table of an interface and what it points to take. -/
def treeFrames (s : State) (frame : Nat) : Nat → List (Nat × Nat)
  | 0 => (frame, 1) :: (List.range 32).filterMap fun i =>
      let e := pteOf (viewNat s hub0 (physKey 0 (frame * 65536 + 8 * i)) 8)
      if pteValid e 0 && e.leaf && e.tgt == 0 then some (e.frame, 1) else none
  | lv + 1 => (frame, 1) :: (List.range 512).flatMap fun i =>
      let e := pteOf (viewNat s hub0 (physKey 0 (frame * 65536 + 8 * i)) 8)
      if !pteValid e (lv + 1) then []
      else if e.leaf then (if e.tgt = 0 then [(e.frame, pageSize (lv + 1) / 65536)] else [])
      else treeFrames s e.frame lv

/-- The HBM frames that hold tables, mapped pages, shadows, and pages on their way from the tier. -/
def usedFrames (s : State) : List (Nat × Nat) :=
  (s.vis.flatMap fun v => treeFrames s (v.2.root.toNat / 2 ^ 16 % 2 ^ 32) 4) ++
    (s.preds.flatMap fun e => match e.2 with | some p => p.shadows.map fun x => (keyFrame x.frame, x.size / 65536) | none => []) ++
    (s.migrations.filter fun m => !m.toTier).map fun m => (m.target, m.size / 65536)

/-- Whether a frame can take a page of a size: inside the 1 TiB of HBM, aligned to the page, and used by nothing (R13) (log entry 127). -/
def frameFree (s : State) (frame size : Nat) : Bool :=
  let n := size / 65536
  frame % n == 0 && decide (frame + n ≤ 2 ^ 24) && (usedFrames s).all fun u => decide (u.1 + u.2 ≤ frame) || decide (frame + n ≤ u.1)

/-- Whether a frame of the Fly overlaps a page (R366). -/
def inFly (s : State) (frame size : Nat) : Bool :=
  s.flyFrames.any fun e => !(decide (keyFrame e.1 + e.2 / 65536 ≤ frame) || decide (frame + size / 65536 ≤ keyFrame e.1))

/-- A frame for a shadow: of the frames of the page's home die that joined the Fly, or another of the Fly (R366, R371). -/
def flyFrame (s : State) (home size : Nat) : Nat :=
  let own := (s.flyFrames.filter fun e => e.2 == size && homeOf e.1 == home).map (·.1)
  (physKey 0 (Config.freeFrame s.freeNo * 65536) :: own).getD (Config.choose s.freeNo % (own.length + 1)) 0

/-- The Fly without a frame (log entry 75). -/
def takeFrame (s : State) (key : Nat) : State := { s with flyFrames := Tbl.erase s.flyFrames key, freeNo := s.freeNo + 1 }

/-- A table's entries of a page, as they would stand at another page. -/
def pageEntries {α : Type} (t : Tbl α) (from_ dest size : Nat) : List (Nat × α) :=
  (t.filter fun e => decide (from_ ≤ e.1) && decide (e.1 < from_ + size)).map fun e => (e.1 - from_ + dest, e.2)

/-- A table without the entries of a page. -/
def clearPage {α : Type} (t : Tbl α) (dest size : Nat) : Tbl α := t.filter fun e => !(decide (dest ≤ e.1) && decide (e.1 < dest + size))

/-- The clock that covers a list of clocks. -/
def joinClocks (cs : List (List Nat)) : List Nat := holders.map fun i => (cs.map fun c => c.getD i 0).foldl max 0

/-- The clock of the writes that the bytes of a page reflect in its home's view (R270). -/
def pageClock (s : State) (home orig size : Nat) : List Nat :=
  joinClocks ((pageEntries (getView s home).stamps orig orig size).filterMap fun e => e.2.map (·.2))

/-- Whether a die may read and write a shadow: its view dominates the writes that the filled bytes reflect (R270), and the stack that holds it takes traffic
(R432). -/
def shadowOpen (s : State) (die : Nat) (x : Shadow) : Bool := dominates (getView s die).vc x.clock && !(stackHeld s x.frame)

/-- Fills a shadow: every holder sees in it what the page's home die holds, with the stamps and the seals of its bytes (R366, R419). -/
def fillShadow (s : State) (home orig frame size : Nat) : State :=
  let v := getView s home
  let bs := pageEntries v.bytes orig frame size
  let st := pageEntries v.stamps orig frame size
  let seals := pageEntries s.seals (orig / 16) (frame / 16) (size / 16)
  let s := { s with seals := seals.foldl (fun t e => Tbl.put 0 t e.1 e.2) (clearPage s.seals (frame / 16) (size / 16)) }
  holders.foldl (fun s d => modView s d fun x => { x with
    bytes := bs.foldl (fun t e => Tbl.put 0 t e.1 e.2) (clearPage x.bytes frame size),
    stamps := st.foldl (fun t e => Tbl.set t e.1 e.2) (clearPage x.stamps frame size) }) s

/-- The physical byte that a predicted run's access meets: its shadow, or the original page (R366 to R368). A read set past 65,536 granules and a shadow
that does not fit discard the prediction: none. Where the frame offered for a shadow is not free or not on the page's home die, another is asked
for, and a shadow that the die may not use yet is waited for: none as well. -/
def predKey (s : State) (die i vi va key : Nat) (l : Leaf) (write : Bool) : State × Option Nat :=
  match getPred s i with
  | none => (s, some key)
  | some p =>
    let base := pageBase l va
    match shadowOf p vi base with
    | some x => (s, if shadowOpen s die x then some (x.frame + va % pageSize l.level) else none)
    | none =>
      if !write then
        let p' := noteRead s vi va key p
        if 65536 < p'.readSet.length then noShadow s i key p
        else ({ s with preds := Tbl.set s.preds i (some p') }, some key)
      else
        let size := pageSize l.level
        let orig := physKey 0 (l.pte.frame * 65536)
        let home := homeOf orig
        let frame := flyFrame s home size
        let p' := (List.range (size / 65536)).foldl (fun p j => noteRead s vi (base + j * 65536) (orig + j * 65536) p) p
        let x : Shadow := ⟨vi, base, size, orig, frame, pageClock s home orig size⟩
        let p' := { p' with shadows := p'.shadows ++ [x] }
        if 65536 < p'.readSet.length || 2 ^ 32 < shadowBytes p' || s.flySize * 2 ^ 27 < flyUsed s home + size then noShadow s i key p
        else if homeOf frame ≠ home || !frameFree s (keyFrame frame) size then ({ s with freeNo := s.freeNo + 1 }, none)
        else
          let s := fillShadow (takeFrame { s with preds := Tbl.set s.preds i (some p') } frame) home orig frame size
          (s, if shadowOpen s die x then some (frame + va % size) else none)

/-! ## One element -/

/-- What a step of a command comes to: it went on, it waits for a walk or for a stack, it has faulted, its data is poisoned, or its prediction has been discarded. -/
inductive Stepped where
  | go (s : State) (c : Cmd)
  | miss (va : Nat)
  | hold
  | fault (f : FaultInfo)
  | poison (stage : Nat)
  | spoiled (s : State)

/-- The part of an element that lies on one page: its address, its physical byte, its bytes and the page's leaf. -/
structure Part where
  va : Nat
  key : Nat
  n : Nat
  leaf : Leaf

/-- The parts of an element: no rule aligns the elements of a region, so that one may lie on two pages (R239, R240). -/
def partsOf (va : Int) (n : Nat) : List (Int × Nat) :=
  let k := 65536 - (va % 65536).toNat
  if n ≤ k then [(va, n)] else [(va, k), (va + k, n - k)]

/-- What the parts of an element meet: the first that does not reach its byte decides. -/
def reach (s : State) (die : Nat) (gr : Grid) (u : Use) : List (Int × Nat) → (Int × Meets) ⊕ List Part
  | [] => .inr []
  | (va, n) :: t =>
    match meets s die gr va u with
    | .at_ key l => (match reach s die gr u t with | .inr ps => .inr (⟨va.toNat, key, n, l⟩ :: ps) | .inl m => .inl m)
    | m => .inl (va, m)

/-- Whether an access of a predicted run waits for a shadow that its die may not use yet (R270, R432). -/
def shadowHeld (s : State) (die : Nat) (pred : Option Nat) (vi : Nat) (ps : List Part) : Bool :=
  match pred.bind (getPred s) with
  | some p => ps.any fun x => (shadowOf p vi (pageBase x.leaf x.va)).any fun y => !(shadowOpen s die y)
  | none => false

/-- The parts of an element as a predicted run meets them: none where the access ends in `predKey`. -/
def predParts (s : State) (die : Nat) (pred : Option Nat) (vi : Nat) (write : Bool) : List Part → State × Option (List Part)
  | [] => (s, some [])
  | p :: ps =>
    let r := match pred with | some i => predKey s die i vi p.va p.key p.leaf write | none => (s, some p.key)
    match r.2 with
    | none => (r.1, none)
    | some key =>
      let q := predParts r.1 die pred vi write ps
      (q.1, q.2.map fun l => { p with key := key } :: l)

/-- Notes what the engines of a die read in the present tick (R281). -/
def noteReads (s : State) (die : Nat) (ps : List Part) : State :=
  let now := tick s + 1
  modView s die fun v => { v with readTick := now, reads := (if v.readTick = now then v.reads else []) ++ ps.map fun p => (p.key, p.n) }

/-- Whether an engine of a die has read some of these bytes in the present tick: the die applies a write to them before (R281). -/
def readNow (s : State) (die key n : Nat) : Bool :=
  let v := getView s die
  v.readTick == tick s + 1 && v.reads.any fun r => decide (r.1 < key + n) && decide (key < r.1 + r.2)

/-- Reads the parts of an element of an interface from a die's view (R266). -/
def readParts (s : State) (die vi : Nat) : List Part → List Byte × State
  | [] => ([], s)
  | p :: ps =>
    let r := globalRead s die p.key p.n (sealOf s vi p.leaf.pte)
    let q := readParts r.2 die vi ps
    (r.1 ++ q.1, q.2)

/-- The parts of an element that an interface writes take the seals of their pages; the cells of the rest of their blocks (R419). -/
def sealParts (s : State) (die vi : Nat) (ps : List Part) : State × List (Nat × Byte) :=
  ps.foldl (fun x p => let r := sealWrite x.1 die (sealOf x.1 vi p.leaf.pte) p.key p.n; (r.1, x.2 ++ r.2)) (s, [])

/-- The bytes of an element, part by part. -/
def splitBytes : List Part → List Byte → List (Nat × List Byte)
  | [], _ => []
  | p :: ps, bs => (p.key, bs.take p.n) :: splitBytes ps (bs.drop p.n)

/-- Counts the parts of an element for a grid, each at its own location, and as EOVR judges it (R261, R460). -/
def chargeParts (s : State) (gid die : Nat) (gr : Grid) (c : Cmd) (ps : List Part) : State :=
  ps.foldl (fun s p =>
    let f := locFigure (locOf die p.leaf)
    charge s gid p.n f (min f (locFigure (chargedLoc gr die c.loc (p.va / 65536))))) s

/-- The pages that a command reaches for the first time, each with the time that it is excused (R460). -/
def reachPages (s : State) (gid die : Nat) (gr : Grid) (c : Cmd) (ps : List (Nat × Leaf)) : State × Cmd :=
  ps.foldl (fun x p =>
    if x.2.reached.contains p.1 then x
    else (modGrid x.1 gid fun g => { g with excused := g.excused + excessTicks gr die c.loc p.1 p.2 }, { x.2 with reached := x.2.reached ++ [p.1] })) (s, c)

/-- What a read asks of the world outside: of the host, whose answer is awaited, and of a peer device, by a flit (R405, R412). -/
def askFar (s : State) (k gid : Nat) (keys : List Nat) : State :=
  keys.foldl (fun s key =>
    if keyTgt key = 2 then modCore s k fun c => { c with hostReads := c.hostReads ++ [gid] }
    else if keyTgt key = 3 then sendPeer s (keyPeer key)
    else s) s

/-- Whether a predicted run would touch a page that is not in HBM (R367). -/
def leavesHbm (s : State) (gr : Grid) (ps : List (Int × Nat)) : Bool :=
  ps.any fun p => match walkTree s gr.vi p.1.toNat with | some l => l.pte.tgt != 0 | none => false

/-- Moves one element of `n` bytes between a local place and a global address for a team's engine command (R240, R248, R366, R367); a write of bytes that an
engine of the die has read in this tick waits for the next (R281), and an access to a poisoned unit raises SOFT (R451). -/
def moveElem (s : State) (k gid : Nat) (gr : Grid) (c : Cmd) (store ob : Bool) (va : Int) (la n : Nat) : Stepped :=
  let die := dieOf k
  let at_ := partsOf va n
  if (match gr.pred with | some i => running s i && leavesHbm s gr at_ | none => false) then .spoiled (discard s gid 7)
  else match reach s die gr (if store then .write else .read) at_ with
  | .inl (va, .miss) => .miss va.toNat
  | .inl (_, .hold) => .hold
  | .inl (_, .fault f) => .fault f
  | .inl (_, .at_ _ _) => .hold
  | .inr ps =>
    if shadowHeld s die gr.pred gr.vi ps then .hold else
    let r := predParts s die gr.pred gr.vi store ps
    match r.2 with
    | none => .spoiled r.1
    | some ps =>
      if ps.any fun p => poisoned s p.key || poisoned s (p.key + p.n - 1) then .poison 1
      else if store && ps.any fun p => readNow s die p.key p.n then .hold
      else
        let (s, c) := reachPages (chargeParts r.1 gid die gr c ps) gid die gr c (ps.map fun p => (p.va / 65536, p.leaf))
        if store then
          let x := sealParts s die gr.vi ps
          let (s, c) := globalWrite x.1 die x.2 (splitBytes ps (localRead s k c.tx ob la n)) c
          .go s c
        else
          let (bs, s) := readParts (noteReads (askFar s k gid (ps.map (·.key))) die ps) die gr.vi ps
          .go (localWrite s k c.tx ob la bs) c

/-- The next element number of a command, none where it is not moving elements. -/
def elemNo (c : Cmd) : Option Nat :=
  match c.st with
  | .queued => some 0
  | .elem n => some n
  | _ => none

/-- The state of a command after element `n` of `total`. -/
def afterElem (n total : Nat) : CmdSt := if n + 1 < total then .elem (n + 1) else .last

/-- One step of a command of the copy engine: one element of a COPY (R248), or the request of a FATOM, which carries its die's clock (R270). -/
def stepCopy (s : State) (k gid : Nat) (gr : Grid) (c : Cmd) : Stepped :=
  match elemNo c, c.kind with
  | some n, .copy r coords store ob loc =>
    let total := prod r.bs
    if total ≤ n then .go s { c with st := .last }
    else
      let e := copyElem r coords loc n
      let c' := { c with st := afterElem n total }
      if e.inb then moveElem s k gid gr c' store ob e.va e.la r.elem
      else if store then .go s c'
      else .go (localWrite (charge s gid r.elem 5 5) k c.tx ob e.la (List.replicate r.elem 0)) c'
  | some _, .fatom _ _ addr _ _ _ =>
    match meets s (dieOf k) gr addr .atomic with
    | .miss => .miss addr
    | .hold => .hold
    | .fault f => .fault f
    | .at_ key _ =>
      if poisoned s key then .poison 1
      else .go s { c with st := .home, clock := (getView s (dieOf k)).vc }
  | _, _ => .go s c

/-! ## Walks and faults -/

/-- Asks for the walk of a page for a command, unless one is pending; up to 64 walks run at once (R255). -/
def askWalk (s : State) (k vi serial va : Nat) : State :=
  let page := va / 65536
  modDie s (dieOf k) fun d =>
    if d.walks.any fun w => w.vi == vi && w.page == page && w.core == k && w.serial == serial then d
    else
      let busy := walkersBusy d.walks
      { d with walks := d.walks ++ [⟨vi, page, k, serial, if busy < 64 then some (tick s) else none⟩] }

/-- Whether a command waits for a walk. -/
def awaitsWalk (s : State) (k serial : Nat) : Bool :=
  (getDie s (dieOf k)).walks.any fun w => w.core == k && w.serial == serial

/-- The blame that a fault names (R351). -/
def faultBlame (f : FaultInfo) : Blame := if f.detail = 5 then .device else .caller

/-- Whether a fault can be resolved and its command replayed (R256). -/
def recoverable (f : FaultInfo) : Bool := f.detail = 1 || f.detail = 2 || f.detail = 5

/-- The command as its log entry holds it: replayed from its first element (R256); the writes that it has made, and their reports, still count for fences and
for the completion record (R273, R275). -/
def restartCmd (c : Cmd) : Cmd := { c with st := .queued, clock := [] }

/-- Parks a command in its die's log (a COPYFAULT in a predicted run discards the prediction, R374), or leaves it in its engine where the log is full (R256, R459). `put` returns a command to its engine
and `take` removes it. -/
def parkCmd (s : State) (k gid : Nat) (c : Cmd) (f : FaultInfo) (take : State → State) (put : State → Cmd → State) : State :=
  if running s gid then discard s gid 6
  else
  let s := blame s gid (faultBlame f)
  if (getDie s (dieOf k)).log.length < 256 then
    modDie (take s) (dieOf k) fun d => { d with
      log := d.log ++ [⟨k, restartCmd c, f, tick s, tick s + 10000⟩] }
  else put s { c with st := .blocked f (tick s) (tick s + 10000) }

/-- The copy queue without a command, and with it changed. -/
def takeCopy (k serial : Nat) (s : State) : State :=
  modCore s k fun c => { c with copyq := c.copyq.filter (·.serial != serial) }
def putCopy (k : Nat) (s : State) (cmd : Cmd) : State :=
  modCore s k fun c => { c with copyq := c.copyq.map fun x => if x.serial = cmd.serial then cmd else x }

/-- The stager's work of a team without a command, and with it changed. -/
def takeJob (k tx serial : Nat) (s : State) : State :=
  modTeam s k tx fun t => { t with jobs := t.jobs.filter (·.serial != serial) }
def putJob (k : Nat) (s : State) (cmd : Cmd) : State :=
  modTeam s k cmd.tx fun t => { t with jobs := t.jobs.map fun x => if x.serial = cmd.serial then cmd else x }

/-- The lanes of a list that are neither parked nor exited. -/
def liveLanes (g : Group) (m : BitVec 32) : List Nat := (lanesOf m).filter fun l => (laneAt g l).st == .free

/-- An uncorrectable error stops a command without its increment and raises SOFT with its stage, with device blame (R258); a command of the stager, or
one whose lanes have all ended, leaves a record without lanes. -/
def softError (s : State) (k gid : Nat) (c : Cmd) (stage : Nat) (take : State → State) : State :=
  if !(trapRoom s k c.tx c.group) then s
  else
  let s := blame (take s) gid .device
  let g := getGroup s k c.tx c.group
  let ls := liveLanes g c.mask
  match ls with
  | l :: _ => trapAt s k c.tx c.group (laneAt g l).pc (ls.map fun l => ⟨l, ⟨.soft, stage, 0, 0⟩⟩)
  | [] => pushTrap s k (trapRecord s k c.tx c.group 0 [⟨0, ⟨.soft, stage, 0, 0⟩⟩] .soft |> fun r => { r with mask := 0 })

/-- What follows a step of a command. -/
def settle (s : State) (k gid : Nat) (gr : Grid) (c : Cmd) (take : State → State) (put : State → Cmd → State) : Stepped → State
  | .go s c => put s c
  | .miss va => askWalk s k gr.vi c.serial va
  | .hold => s
  | .fault f => parkCmd s k gid c f take put
  | .poison n => softError s k gid c n take
  | .spoiled s => s

/-- Whether a command's grid may use global memory on its die: the die's clock dominates that of the launch command (R270). -/
def clockReady (s : State) (k : Nat) (gr : Grid) : Bool := dominates (getView s (dieOf k)).vc gr.clock

/-- Whether a command adds a counter of basic blocks that has left its core's cache (R158): it stands for no lane. -/
def isFlush (c : Cmd) : Bool :=
  match c.kind with
  | .fatom _ _ _ _ _ _ => c.mask == 0
  | _ => false

/-- Whether a command of the copy engine can take its next step; a flush of counters goes on while its team is stopped for a save (R397). -/
def copySteppable (s : State) (k : Nat) (c : Cmd) : Bool :=
  (elemNo c).isSome && !awaitsWalk s k c.serial &&
    match teamGrid s (getTeam s k c.tx) with
    | some gr => clockReady s k gr && (!(getTeam s k c.tx).stopped || isFlush c) &&
        (match stepCopy s k (getTeam s k c.tx).grid gr c with | .hold => false | _ => true)
    | none => false

/-- One of a list, as a free value picks it where there are several (R267). -/
def pick {α : Type} (s : State) (l : List α) : Option α × State :=
  match l with
  | [] => (none, s)
  | [x] => (some x, s)
  | l => (l[Config.choose s.freeNo % l.length]?, { s with freeNo := s.freeNo + 1 })

/-- COPY_ELEMENT: some command of the core's copy engine takes its next step (R248, R250, R267) (log entry 24). -/
def execCopyElement (core : Nat) (s : State) : Host.Outcome State Fault Refusal :=
  .next (
    let c := getCore s core
    let cs := c.copyq.filter (copySteppable s core)
    if c.copyq.any isBlocked then s
    else
      let (p, s) := pick s cs
      match p with
      | none => s
      | some cmd =>
        match teamGrid s (getTeam s core cmd.tx) with
        | none => s
        | some gr =>
          let gid := (getTeam s core cmd.tx).grid
          settle s core gid gr cmd (takeCopy core cmd.serial) (putCopy core) (stepCopy s core gid gr cmd))

/-- The commands of a core's engines. -/
def engineCmds (c : Core) : List Cmd := c.copyq ++ c.teams.flatMap fun e => match e.2 with | some t => t.jobs | none => []

/-! ## Completion -/

/-- Whether a command's writes are applied where its scope asks (R248). -/
def writesDone (s : State) (c : Cmd) : Bool :=
  if c.sys then c.writes.all (appliedAll s) && c.pendingHost == 0 && c.pendingPeer == 0
  else c.writes.all fun w => appliedAt s w.home w

/-- Whether a command may complete: its condition holds, and it is the first in issue order or a replayed one (R248, R250) (log entry 25). -/
def completable (s : State) (c : Cmd) : Bool :=
  match c.kind, c.st with
  | .copy _ _ store _ _, .last => !store || writesDone s c
  | _, _ => false

/-- Whether issue order does not bind a command's completion: it has been replayed (R250), or is no word's command but a flush of counters (R158). -/
def unordered (c : Cmd) : Bool := c.replayed || isFlush c

/-- The commands of a queue that issue order lets complete: the first, those replayed, and flushes of counters (R158, R250). -/
def inOrder : List Cmd → List Cmd
  | [] => []
  | c :: cs => if unordered c then c :: inOrder cs else c :: cs.filter unordered

/-- Adds 1 to a counter (R248). -/
def bumpCtr (s : State) (k tx : Nat) (ctr : Option Nat) : State :=
  match ctr with
  | none => s
  | some a => modTeam s k tx fun t => { t with sp := writeBytes t.sp a (readBytes t.sp a 4 + 1) 4 }

/-- What fences still have to see of a command that has completed (R274, R275). -/
def markIssued (s : State) (k : Nat) (c : Cmd) : State :=
  modTeam s k c.tx fun t => { t with issued := t.issued.map fun i =>
    if i.serial = c.serial then { i with done := true, incremented := true, writes := c.writes, pendingHost := c.pendingHost, pendingPeer := c.pendingPeer }
    else i }

/-- The reports that an abandoned FATOM awaits stay with its grid (R273, R388). -/
def keepReports (s : State) (k : Nat) (c : Cmd) : State :=
  let gid := (getTeam s k c.tx).grid
  if ending s gid then
    modGrid s gid fun g => { g with owedHost := Tbl.upd 0 g.owedHost k (· + c.pendingHost), owedPeer := Tbl.upd 0 g.owedPeer k (· + c.pendingPeer) }
  else s

/-- A command completes: its counter rises by 1 once (R248, R256). -/
def complete (s : State) (k : Nat) (c : Cmd) : State :=
  markIssued (takeCopy k c.serial (bumpCtr (keepReports s k c) k c.tx c.ctr)) k c

/-- COPY_COMPLETE (R248 to R250). -/
def execCopyComplete (core : Nat) (s : State) : Host.Outcome State Fault Refusal :=
  .next (match (inOrder (getCore s core).copyq).find? (completable s) with
    | some c => complete s core c
    | none => s)

/-! ## FATOM at its home (R253, R254, R270) -/

/-- The bytes of a word. -/
def bytesOf (v : Nat) : Nat → List Byte
  | 0 => []
  | n + 1 => BitVec.ofNat 8 v :: bytesOf (v / 256) n

/-- The new word of a FATOM (R81, R253). -/
def fatomNew (op : Gop) (w64 : Bool) (old : Nat) (b cmp : DWord) : Nat :=
  if w64 then (gopStep op 64 (BitVec.ofNat 64 old) b cmp).toNat
  else (gopStep op 32 (BitVec.ofNat 32 old) (b.setWidth 32) (cmp.setWidth 32)).toNat

/-- What a FATOM's request comes to at the home of its address: it is performed there on a physical byte, it has to be walked again, it
faults (R255, R256), or its unit is poisoned (R451). -/
inductive AtHome where
  | perform (home key : Nat) (l : Leaf)
  | again
  | fault (f : FaultInfo)
  | poison

/-- A FATOM's request at the home of its address; none while its clock is not dominated there (R270). -/
def homeReady (s : State) (k : Nat) (c : Cmd) : Option AtHome :=
  match c.kind, c.st, teamGrid s (getTeam s k c.tx) with
  | .fatom _ w64 addr _ _ _, .home, some gr =>
    match meets s (dieOf k) gr addr .atomic with
    | .at_ key l =>
      let h := homeOf key
      if poisoned s key then some .poison
      else if dominates (getView s h).vc c.clock && !(readNow s h key (if w64 then 8 else 4)) then some (.perform h key l)
      else none
    | .miss => some .again
    | .hold => none
    | .fault f => some (.fault f)
  | _, _, _ => none

/-- Keeps with a grid that ends the clock of a write that is made after its teams have stopped (R273, R388). -/
def noteNeed (s : State) (gid : Nat) : State :=
  if ending s gid then let c := clockNow s; modGrid s gid fun g => { g with need := c } else s

/-- The read and the write of a FATOM, one step at the home (R253); the reply carries the home's clock (R270). Its bytes count at the location of the
page from the issuing die (R261, R405). -/
def performAtom (s : State) (core h key : Nat) (l : Leaf) (c : Cmd) : State :=
  match c.kind with
  | .fatom op w64 addr b cmp _ =>
    let n := if w64 then 8 else 4
    let gid := (getTeam s core c.tx).grid
    let sl := sealOf s (match getGrid s gid with | some g => g.vi | none => 0) l.pte
    let (bs, s) := globalRead (if keyTgt key = 2 then askFar s core gid [key] else s) h key n sl
    let old := natOf bs
    let f := locFigure (locOf (dieOf core) l)
    let s := charge s gid n f (min f (locFigure (c.loc.getD 0)))
    let (s, c) := match getGrid s gid with | some g => reachPages s gid (dieOf core) g c [(addr / 65536, l)] | none => (s, c)
    let x := sealWrite s h sl key n
    let (s, c) := globalWrite x.1 h x.2 [(key, bytesOf (fatomNew op w64 old b cmp) n)] c
    putCopy core (noteNeed s gid) { c with st := .back (BitVec.ofNat 64 old) (getView s h).vc }
  | _ => s

/-- FATOM_HOME_PERFORM (R253, R256, R270); the request of an abandoned command that cannot be performed is dropped (R388). -/
def execFatomHomePerform (core : Nat) (s : State) : Host.Outcome State Fault Refusal :=
  .next (match (getCore s core).copyq.findSome? fun c => (homeReady s core c).map fun h => (c, h) with
    | some (c, .perform h key l) => performAtom s core h key l c
    | some (c, .again) => if ending s (getTeam s core c.tx).grid then takeCopy core c.serial s else putCopy core s { c with st := .queued }
    | some (c, .fault f) =>
      if ending s (getTeam s core c.tx).grid then takeCopy core c.serial s
      else parkCmd s core (getTeam s core c.tx).grid c f (takeCopy core c.serial) (putCopy core)
    | some (c, .poison) =>
      if ending s (getTeam s core c.tx).grid then takeCopy core c.serial s
      else softError s core (getTeam s core c.tx).grid c 1 (takeCopy core c.serial)
    | none => s)

/-- Whether a FATOM's old value may be written and its command completes (R250, R270). -/
def backReady (s : State) (k : Nat) (c : Cmd) : Bool :=
  match c.st with
  | .back _ clock => dominates (getView s (dieOf k)).vc clock && (!c.sys || writesDone s c)
  | _ => false

/-- FATOM_OLD_VALUE_RETURN (R253, R270). -/
def execFatomOldValueReturn (core : Nat) (s : State) : Host.Outcome State Fault Refusal :=
  .next (match (inOrder (getCore s core).copyq).find? (backReady s core) with
    | some c =>
      match c.kind, c.st with
      | .fatom _ w64 _ _ _ old, .back v _ =>
        let s := match old with
          | some a => modTeam s core c.tx fun t => { t with sp := writeBytes t.sp a v.toNat (if w64 then 8 else 4) }
          | none => s
        complete s core c
      | _, _ => s
    | none => s)

end Sys2Proof.Machine
end

