-- ==== Sys2Proof/Machine/Staging.lean ====
section
/-! DEFINITION. The stager: staging and write-back of a team's regions (R239 to R245). -/
namespace Sys2Proof.Machine

/-- The tile of an index of the index space (R242). -/
def tileAt (d : Descr) (t : Nat) : Tile := ⟨t, t % d.x, t / d.x % d.y, t / (d.x * d.y)⟩

/-- The tiles of an index space. -/
def tileCount (d : Descr) : Nat := d.x * d.y * d.z

/-- The regions of a kernel that a direction covers: in and inout to stage, out and inout to write back (R239). -/
def stagedRegions (k : Kernel) : List Nat := (List.range k.regions.length).filter fun i => ((k.regions[i]?).map (·.dir)) != some 1
def writtenRegions (k : Kernel) : List Nat := (List.range k.regions.length).filter fun i => ((k.regions[i]?).map (·.dir)) != some 0

/-- The base argument of a region (R239). -/
def regionArg (g : Grid) (r : Region) : DWord := g.argBlock.getD r.arg 0

/-- The global address and the packed offset of element `n` of a region for a tile (R240). -/
def regionElem (g : Grid) (r : Region) (t : Tile) (n : Nat) : Int × Nat :=
  (regionVa r (regionArg g r) t (unrank r.ext n), n * 2 ^ r.elog)

/-- The 64 KiB pages that a region reaches for a tile. -/
def regionPages (g : Grid) (r : Region) (t : Tile) : List Nat :=
  pagesOf ((List.range r.count).flatMap fun n => (elemPages (regionElem g r t n).1 (2 ^ r.elog)).map (· * 65536))

/-- The local place of a region's half: its first byte, in the operand-buffer window of a reservation as it stands, or in the scratchpad (R240). -/
def regionBase (t : Team) (r : Region) (half : Nat) : Nat :=
  if r.dk then
    (match Tbl.get none t.rsv r.rid with | some e => 16 * (e.base16 + e.doff16) | none => 0) + half * r.half
  else r.spoff + half * r.half

/-- A new command of the stager with its owed tick, and the time by which its pages lie further away than their charge (R259, R460). -/
def pushJob (s : State) (k tx : Nat) (g : Grid) (write : Bool) (ri half base : Nat) (t : Tile) : State :=
  match g.kernel.regions[ri]? with
  | none => s
  | some r =>
    let c := getCore s k
    let die := dieOf k
    let pages := regionPages g r t
    let ticks := engineTicks s g.vi die (r.count * 2 ^ r.elog) (shareOf g.descr.bws (refreshFactor s die)) pages
    let owed := max (tick s) c.owedS + ticks
    let cmd : Cmd := { serial := c.serial, tx := tx, group := 0, mask := 0,
                       kind := if write then .wback ri half t base else .stage ri half t base, ctr := none, sys := false, issued := tick s, owed := owed }
    let s := modCore s k fun c => { c with serial := c.serial + 1, owedS := owed }
    let rec_ : Issued := { serial := cmd.serial, group := 0, mask := 0, wback := true, store := true, done := false,
                           incremented := false, ctr := none, owed := owed, writes := [], pendingHost := 0, pendingPeer := 0 }
    modTeam s k tx fun tm =>
      { tm with jobs := tm.jobs ++ [cmd], issued := if write then tm.issued ++ [rec_] else tm.issued }

/-- Starts staging a tile into a half (R243) (log entry 41). -/
def startStaging (s : State) (k tx : Nat) (g : Grid) (half : Nat) (bases : List Nat) (t : Tile) : State :=
  (stagedRegions g.kernel).foldl (fun s i => pushJob s k tx g false i half (bases.getD i 0) t) s

/-- Starts the write-back of a tile from its half (R243). -/
def startWriteBack (s : State) (k tx : Nat) (g : Grid) (half : Nat) (t : Tile) : State :=
  (writtenRegions g.kernel).foldl (fun s i => match g.kernel.regions[i]? with
    | some r => pushJob s k tx g true i half (regionBase (getTeam s k tx) r half) t
    | none => s) s

/-- Whether a command writes back from a half and still holds it: some byte is unread. -/
def holdsHalf (half : Nat) (c : Cmd) : Bool :=
  match c.kind with
  | .wback _ h _ _ => h == half && c.st != .last
  | _ => false

/-- A half is free once the write-back that last used it has read all of its bytes and has no parked entry (R244). -/
def halfFree (s : State) (k tx half : Nat) : Bool :=
  !((getTeam s k tx).jobs.any (holdsHalf half)) &&
    !((getDie s (dieOf k)).log.any fun e => e.core == k && e.cmd.tx == tx && holdsHalf half e.cmd)

/-- Whether a command stages into a half. -/
def stagesInto (half : Nat) (c : Cmd) : Bool :=
  match c.kind with
  | .stage _ h _ _ => h == half
  | _ => false

/-- Whether every region of the next tile is staged (R243). -/
def staged (s : State) (k tx half : Nat) : Bool :=
  !((getTeam s k tx).jobs.any (stagesInto half)) &&
    !((getDie s (dieOf k)).log.any fun e => e.core == k && e.cmd.tx == tx && stagesInto half e.cmd)

/-- One element of a stager command (R240, R244). -/
def stepJob (s : State) (k gid : Nat) (g : Grid) (c : Cmd) : Stepped :=
  let go := fun (ri base : Nat) (t : Tile) (write : Bool) =>
    match elemNo c, g.kernel.regions[ri]? with
    | some n, some r =>
      if r.count ≤ n then .go s { c with st := .last }
      else
        let (va, p) := regionElem g r t n
        moveElem s k gid g { c with st := afterElem n r.count } write r.dk va (base + p) (2 ^ r.elog)
    | _, _ => Stepped.go s c
  match c.kind with
  | .stage ri _ t base => go ri base t false
  | .wback ri _ t base => go ri base t true
  | _ => .go s c

/-- Whether a stager command can take its next step. -/
def jobSteppable (s : State) (k tx : Nat) (c : Cmd) : Bool :=
  (elemNo c).isSome && !awaitsWalk s k c.serial &&
    (match c.kind with | .stage _ half _ _ => halfFree s k tx half | _ => true) &&
    match teamGrid s (getTeam s k tx) with
    | some g => clockReady s k g && !(getTeam s k tx).stopped
    | none => false

/-- Whether a command writes back. -/
def isWback (c : Cmd) : Bool := match c.kind with | .wback _ _ _ _ => true | _ => false

/-- The stager command that goes next in one direction: the first in issue order (R244). -/
def nextJob (s : State) (k tx : Nat) (write : Bool) : Option Cmd :=
  match (getTeam s k tx).jobs.find? fun c => isWback c == write && (elemNo c).isSome with
  | some c => if jobSteppable s k tx c then some c else none
  | none => none

/-- Whether a command of either team of a core holds the stager up, because the log has no space for it (R459). -/
def stagerBlocked (s : State) (k : Nat) : Bool := ((getTeam s k 0).jobs ++ (getTeam s k 1).jobs).any isBlocked

/-- One step of the stager in one direction. -/
def jobStep (s : State) (k tx : Nat) (write : Bool) : State :=
  if stagerBlocked s k then s
  else match nextJob s k tx write, teamGrid s (getTeam s k tx) with
    | some c, some g =>
      let gid := (getTeam s k tx).grid
      settle s k gid g c (takeJob k tx c.serial) (putJob k) (stepJob s k gid g c)
    | _, _ => s

/-- STAGING_ELEMENT (R240, R244). -/
def execStagingElement (core tx : Nat) (s : State) : Host.Outcome State Fault Refusal := .next (jobStep s core tx false)

/-- WRITEBACK_ELEMENT (R240, R244). -/
def execWritebackElement (core tx : Nat) (s : State) : Host.Outcome State Fault Refusal := .next (jobStep s core tx true)

/-- A staging command that has moved its last element. -/
def stageDone (c : Cmd) : Bool := !isWback c && c.st == .last

/-- STAGING_COMPLETE: a region of a tile is staged (R243). -/
def execStagingComplete (core tx : Nat) (s : State) : Host.Outcome State Fault Refusal :=
  .next (match (getTeam s core tx).jobs.find? stageDone with
    | some c => takeJob core tx c.serial s
    | none => s)

/-- A write-back whose writes are applied at their home dies. -/
def wbackDone (s : State) (c : Cmd) : Bool := isWback c && c.st == .last && writesDone s c

/-- WRITEBACK_COMPLETE (R243, R244). -/
def execWritebackComplete (core tx : Nat) (s : State) : Host.Outcome State Fault Refusal :=
  .next (match (getTeam s core tx).jobs.find? (wbackDone s) with
    | some c => markIssued (takeJob core tx c.serial s) core c
    | none => s)

end Sys2Proof.Machine
end

