-- ==== Sys2Proof/Machine/CommandLog.lean ====
section
/-! DEFINITION. Page walks, the command log and its replays, and the migration of pages to and from the capacity tier (R255 to R257, R368, R459). -/
namespace Sys2Proof.Machine

/-! ## PAGE_WALK_COMPLETE (R255) -/

/-- Enters a translation in a TLB of 16,384 entries; the oldest goes (R255). -/
def enterTlb (l : List TlbEntry) (e : TlbEntry) : List TlbEntry :=
  let l := l.filter (· != e) ++ [e]
  l.drop (l.length - 16384)

/-- The translation that a walk finds enters the TLB of its die (R255). -/
def walkFinds (die : Nat) (s : State) (w : Walk) : State :=
  match walkTree s w.vi (w.page * 65536) with
  | some l => modDie s die fun d => { d with tlb := enterTlb d.tlb ⟨w.vi, w.page, l.pte, l.level⟩ }
  | none => s

/-- PAGE_WALK_COMPLETE: a started walk ends, with those served together with it; a valid page enters the TLB, and the next pending walk starts
(R255). -/
def execPageWalkComplete (die i : Nat) (s : State) : Host.Outcome State Fault Refusal :=
  .next (match (getDie s die).walks[i]? with
    | none => s
    | some w =>
      if w.started.isNone then s
      else
        let ws := (getDie s die).walks
        let done := fun (x : Walk) => x.started == w.started && walkKey x == walkKey w
        let s := modDie s die fun d => { d with walks := ws.filter fun x => !done x }
        startWalk ((ws.filter done).foldl (walkFinds die) s) die)

/-! ## The command log (R256, R459) -/

/-- Whether a command belongs to the copy engine. -/
def onCopyEngine (c : Cmd) : Bool :=
  match c.kind with
  | .copy _ _ _ _ _ | .fatom _ _ _ _ _ _ => true
  | _ => false

/-- A command that owes `dt` ticks more, if it is `serial` or a later one of the same engine (R259). -/
def owesMore (copy : Bool) (serial dt : Nat) (c : Cmd) : Cmd :=
  if onCopyEngine c == copy && serial ≤ c.serial then { c with owed := c.owed + dt } else c

/-- Excused parked time extends the owed ticks of a command and of the engine's later ones (R259, R459). -/
def extendOwed (s : State) (k : Nat) (copy : Bool) (serial dt : Nat) : State :=
  let f := owesMore copy serial dt
  let s := modDie s (dieOf k) fun d => { d with log := d.log.map fun e => if e.core = k then { e with cmd := f e.cmd } else e }
  modCore s k fun c => { c with
    copyq := c.copyq.map f,
    owedC := if copy then c.owedC + dt else c.owedC,
    owedS := if copy then c.owedS else c.owedS + dt,
    teams := c.teams.map fun e => (e.1, e.2.map fun t => { t with
      jobs := t.jobs.map f,
      issued := t.issued.map fun i => if i.wback != copy && serial ≤ i.serial then { i with owed := i.owed + dt } else i }) }

/-- Puts a command in its place by serial number. -/
def insertCmd (c : Cmd) : List Cmd → List Cmd
  | [] => [c]
  | x :: xs => if c.serial < x.serial then c :: x :: xs else x :: insertCmd c xs

/-- Returns a command to its engine (R256). -/
def returnCmd (s : State) (k : Nat) (c : Cmd) : State :=
  if onCopyEngine c then modCore s k fun co => { co with copyq := insertCmd c co.copyq }
  else modTeam s k c.tx fun t => { t with jobs := insertCmd c t.jobs }

/-- Whether the page of a fault is valid, resident and not in migration; its leaf (R459) (log entry 35). -/
def pageReady (s : State) (vi : Nat) (f : FaultInfo) : Option Leaf :=
  match walkTree s vi f.va with
  | none => none
  | some l => if l.pte.tgt = 1 || migrating s vi f.va l then none else some l

/-- Admits an undeclared page for a grid (R238). -/
def admitLeaf (g : Grid) (l : Leaf) (va : Nat) : Grid :=
  if declared g l va || g.admitted.contains (pageBase l va) then g else { g with admitted := g.admitted ++ [pageBase l va] }

/-- The parked time that a fault excuses: none for a fault on a pinned declared page (R256). -/
def excusedTime (f : FaultInfo) (dt : Nat) : Nat := if f.detail = 5 then 0 else dt

/-- The replay of a parked command: the page is admitted, the parked time is excused, and the command goes back to its engine (R256, R459). -/
def replayEntry (s : State) (gid : Nat) (e : LogEntry) (l : Leaf) : State :=
  let dt := excusedTime e.fault (tick s - e.since)
  let s := modGrid s gid fun g => { admitLeaf g l e.fault.va with excused := g.excused + dt }
  let s := extendOwed s e.core (onCopyEngine e.cmd) e.cmd.serial dt
  returnCmd s e.core { e.cmd with replayed := true, owed := e.cmd.owed + dt, excused := e.cmd.excused + dt }

/-- The record of a COPYFAULT is its log entry (R383); where it ends the grid it counts as a trap of the grid, at the offset of the word that gave
the command (R349, R387). -/
def faultRecord (s : State) (gid : Nat) (g : Grid) (e : LogEntry) : State :=
  modGrid s gid fun x => { x with tcount := x.tcount + 1, traps := x.traps ++
    [{ tick := tick s, aux := BitVec.ofNat 32 e.fault.va, mask := 0, pc := e.cmd.pc, detail := e.fault.detail, code := .copyfault,
       pslot := 0, group := e.cmd.group, teamx := e.cmd.tx, core := e.core, qid := g.qid, claimed := true }] }

/-- COMMAND_LOG_CHECK: a fault that cannot be resolved ends the grid; at each check a parked command whose page is ready is replayed (R256, R387,
R459) (log entry 34). -/
def execCommandLogCheck (die i : Nat) (s : State) : Host.Outcome State Fault Refusal :=
  .next (match (getDie s die).log[i]? with
    | none => s
    | some e =>
      let gid := (getTeam s e.core e.cmd.tx).grid
      match getGrid s gid with
      | none => s
      | some g =>
        if !recoverable e.fault then terminate (faultRecord s gid g e) gid 1
        else if tick s < e.check then s
        else match pageReady s g.vi e.fault with
          | none => modDie s die fun d => { d with log := d.log.modify i fun e => { e with check := e.check + 10000 } }
          | some l => replayEntry (modDie s die fun d => { d with log := d.log.eraseIdx i }) gid e l)

/-- The commands of a core that wait for space in the log. -/
def blockedCmds (s : State) (k : Nat) : List Cmd :=
  ((getCore s k).copyq ++ (getTeam s k 0).jobs ++ (getTeam s k 1).jobs).filter isBlocked

/-- The retry of one command: it enters the log if there is room, else it waits again (R459). -/
def retryEntry (s : State) (k : Nat) (c : Cmd) : State :=
  let put := fun (s : State) (c : Cmd) => if onCopyEngine c then putCopy k s c else putJob k s c
  match c.st with
  | .blocked f since retry =>
    if tick s < retry then s
    else if (getDie s (dieOf k)).log.length < 256 then
      let s := if onCopyEngine c then takeCopy k c.serial s else takeJob k c.tx c.serial s
      modDie s (dieOf k) fun d => { d with log := d.log ++ [⟨k, restartCmd c, f, since, tick s + 10000⟩] }
    else put s { c with st := .blocked f since (retry + 10000) }
  | _ => s

/-- COMMAND_LOG_ENTRY_RETRY (R459). -/
def execCommandLogEntryRetry (core : Nat) (s : State) : Host.Outcome State Fault Refusal :=
  .next ((blockedCmds s core).foldl (fun s c => retryEntry s core c) s)

/-! ## Migration (R237, R257, R368) -/

/-- Whether a page is declared by an accepted reservation that has not ended (R257). -/
def declaredByAny (s : State) (vi : Nat) (l : Leaf) (va : Nat) : Bool := s.reservations.any fun r => r.vi == vi && meetsRange r.declared l va

/-- Whether a page counts as pinned because an adopted run shadows it (R369). -/
def shadowPinned (s : State) (vi : Nat) (l : Leaf) (va : Nat) : Bool :=
  s.preds.any fun e => match e.2 with | some p => p.adopted && (shadowOf p vi (pageBase l va)).isSome | none => false

/-- The hub whose half of the tier, 2 TiB, holds a slot of a page's size; none past the 4 TiB (R9, R13) (log entry
136). -/
def slotOwner (slot size : Nat) : Option Nat := if slot + size / 65536 ≤ 2 ^ 26 then some (slot / 2 ^ 25) else none

/-- Begins a migration, on the engine of the hub that holds the page's slot (R257). -/
def startMigration (s : State) (m : Migration) : State := { s with migrations := s.migrations ++ [m] }

/-- MIGRATION_TO_TIER: the host or firmware orders a page that is not pinned and not declared to a slot of the tier (R257). -/
def execMigrationToTier (vi va : Nat) (slot : BitVec 32) (s : State) : Host.Outcome State Fault Refusal :=
  .next (match walkTree s vi va with
    | none => s
    | some l =>
      if l.pte.tgt ≠ 0 || l.pte.pin || migrating s vi va l || declaredByAny s vi l va || shadowPinned s vi l va then s
      else match slotOwner slot.toNat (pageSize l.level) with
        | none => s
        | some h => startMigration s
            { vi := vi, va := pageBase l va, size := pageSize l.level, toTier := true, target := slot.toNat, hub := h, start := tick s })

/-- Whether a COPY, FATOM or staging access that is parked has touched a page of the tier, the ground of a move back beside an ACCEPT (R257). -/
def wanted (s : State) (vi va : Nat) (l : Leaf) : Bool :=
  s.dies.any fun d => d.2.log.any fun e =>
    (e.fault.detail == 2 || e.fault.detail == 5) && e.fault.va / pageSize l.level == va / pageSize l.level &&
      (match getGrid s (getTeam s e.core e.cmd.tx).grid with | some g => g.vi == vi | none => false)

/-- MIGRATION_BACK: a page of the tier that is touched moves back to a frame of the HBM (R257). -/
def execMigrationBack (vi va : Nat) (frame : BitVec 32) (s : State) : Host.Outcome State Fault Refusal :=
  .next (match walkTree s vi va with
    | none => s
    | some l =>
      if l.pte.tgt ≠ 1 || migrating s vi va l || !wanted s vi va l || decide (2 ^ 24 < frame.toNat + pageSize l.level / 65536) then s
      else startMigration s { vi := vi, va := pageBase l va, size := pageSize l.level, toTier := false, target := frame.toNat,
                              hub := l.pte.frame / 2 ^ 25, start := tick s })

/-- A table's keys in a range moved to another range. -/
def moveKeys {α : Type} [DecidableEq α] (d : α) (t : Tbl α) (from_ dest size : Nat) : Tbl α :=
  let inside := fun (k lo : Nat) => decide (lo ≤ k) && decide (k < lo + size)
  let moved := t.filter fun e => inside e.1 from_
  let rest := t.filter fun e => !(inside e.1 from_) && !(inside e.1 dest)
  moved.foldl (fun t e => Tbl.put d t (e.1 - from_ + dest) e.2) rest

/-- The physical byte at which a byte of a moved page lies. -/
def movedKey (from_ dest size key : Nat) : Nat := if from_ ≤ key && decide (key < from_ + size) then key - from_ + dest else key

/-- A write unit that still waits or travels, with the bytes of a moved page at their new place. -/
def movedWrite (from_ dest size : Nat) (w : GWrite) : GWrite := { w with cells := w.cells.map fun c => (movedKey from_ dest size c.1, c.2) }

/-- Moves a page's bytes in every view, with their stamps and with the writes that have still to be applied, its seals and its generations (R257, R269, R281, R368)
(log entry 39). -/
def movePage (s : State) (from_ dest size : Nat) : State :=
  let s := { s with seals := moveKeys 0 s.seals (from_ / 16) (dest / 16) (size / 16) }
  let s := holders.foldl (fun s d => modView s d fun v => { v with
    bytes := moveKeys 0 v.bytes from_ dest size, stamps := moveKeys none v.stamps from_ dest size,
    held := v.held.map (movedWrite from_ dest size), flight := v.flight.map (movedWrite from_ dest size) }) s
  (List.range (size / 65536)).foldl (fun s j =>
    let n := Tbl.get 0 (getDie s (homeOf (from_ + j * 65536))).gens (keyFrame (from_ + j * 65536))
    modDie s (homeOf (dest + j * 65536)) fun d => { d with gens := Tbl.put 0 d.gens (keyFrame (dest + j * 65536)) n }) s

/-- The bits of a translation entry with another target and frame (R237). -/
def retarget (w tgt frame : Nat) : Nat :=
  w - w / 2 ^ 61 % 4 * 2 ^ 61 - w / 2 ^ 16 % 2 ^ 32 * 2 ^ 16 + tgt * 2 ^ 61 + frame % 2 ^ 32 * 2 ^ 16

/-- Rewrites a leaf entry by a write that hub 0 stamps (R237, R371). -/
def writeEntry (s : State) (l : Leaf) (w : Nat) : State := (stampWrite s hub0 (cellsAt l.entry w 8)).1

/-- A page comes to lie at a frame of a target, and its entry says so (R257). -/
def placePage (s : State) (l : Leaf) (va tgt frame : Nat) : State :=
  let s := movePage s (leafKey l (pageBase l va)) (physKey tgt (frame * 65536)) (pageSize l.level)
  writeEntry s l (retarget (viewNat s hub0 l.entry 8) tgt frame)

/-- MIGRATION_COMPLETE: the page lies at its new place, and its entry says so (R257). -/
def execMigrationComplete (i : Nat) (s : State) : Host.Outcome State Fault Refusal :=
  .next (match s.migrations[i]? with
    | none => s
    | some m =>
      let s := { s with migrations := s.migrations.eraseIdx i }
      match walkTree s m.vi m.va with
      | none => s
      | some l => placePage s l m.va (if m.toTier then 1 else 0) m.target)

end Sys2Proof.Machine
end

