-- ==== Sys2Proof/Machine/HubMem.lean ====
section
/-! DEFINITION. Global memory as a hub reads and writes it for an interface (R237, R266, R273), and VI_VIOL_ADDR (R417). -/
namespace Sys2Proof.Machine

/-- The holder that is the hub of a hardware queue slot (R332). -/
def slotHub (slot : Nat) : Nat := hub0 + slot / 128

/-- The physical byte of an interface's address. -/
def vaKey (s : State) (vi va : Nat) : Option Nat := (walkTree s vi va).map fun l => leafKey l va

/-- The seal of the page that an interface's address lies on. -/
def vaSeal (s : State) (vi va : Nat) : Nat := match walkTree s vi va with | some l => sealOf s vi l.pte | none => lostSeal

/-- One byte as a hub reads it: of HBM or the tier from its view, under the seal of its page; what the host or a peer device
holds, and an address without a valid page, give a free value (R419). -/
def hubByte (s : State) (h vi va i : Nat) : Byte :=
  match vaKey s vi (va + i) with
  | some key =>
    if keyTgt key < 2 then (readSealed s h (vaSeal s vi (va + i)) key).getD (Config.hostByte (s.freeNo + i))
    else if keyTgt key = 3 then Config.peerByte (s.freeNo + i) else Config.hostByte (s.freeNo + i)
  | none => Config.hostByte (s.freeNo + i)

/-- Reads `n` bytes. -/
def hubRead (s : State) (h vi va n : Nat) : List Byte × State :=
  ((List.range n).map (hubByte s h vi va), { s with freeNo := s.freeNo + n })

/-- The cells of bytes at an interface's address; an address without a valid page takes none. -/
def vaCells (s : State) (vi va : Nat) (bs : List Byte) : List (Nat × Byte) :=
  bs.zipIdx.filterMap fun e => (vaKey s vi (va + e.2)).map fun key => (key, e.1)

/-- Bytes at an interface's address take the seals of their pages; the cells of the rest of their blocks (R419). -/
def sealVa (s : State) (h vi va n : Nat) : State × List (Nat × Byte) :=
  (List.range n).foldl (fun x i => match vaKey x.1 vi (va + i) with
    | some key => let r := sealWrite x.1 h (vaSeal x.1 vi (va + i)) key 1; (r.1, x.2 ++ r.2)
    | none => x) (s, [])

/-- Writes bytes as one unit that a hub stamps (R267). -/
def hubWrite (s : State) (h vi va : Nat) (bs : List Byte) : State × Option WriteId :=
  match vaCells s vi va bs with
  | [] => (s, none)
  | cells => let x := sealVa s h vi va bs.length; let r := stampWrite x.1 h (x.2 ++ cells); (r.1, some r.2)

/-- Records a violation; the first is kept until the host clears it (R417). -/
def violate (s : State) (vi cause addr : Nat) : State :=
  modVi s vi fun v => if v.viol.valid then v else { v with viol := { valid := true, cause := cause, addr := addr % 2 ^ 57 } }

/-! ## Fields of records -/

/-- `n` bytes of a record from byte `off`, little-endian. -/
def natAt (bs : List Byte) (off n : Nat) : Nat := natOf ((bs.drop off).take n)

/-- Whether the bits from `lo` to `hi` of a record are all zero. -/
def zeroBits (w lo hi : Nat) : Bool := w / 2 ^ lo % 2 ^ (hi + 1 - lo) == 0

/-- A record from fields: the value and the lowest bit of each. -/
def packFields (fs : List (Nat × Nat)) : Nat := fs.foldl (fun w f => w + f.1 * 2 ^ f.2) 0

end Sys2Proof.Machine
end

