-- ==== Sys2Proof/Machine/Barrier.lean ====
section
/-! DEFINITION. Barriers and their waves, the end of groups, EXIT and the basic-block counters (R153, R158, R181, R196 to R200). -/
namespace Sys2Proof.Machine

/-! ## Waves (R181, R182) -/

/-- The rate in A/µs that spaces waves on a cluster: the written rate, or the largest rate quoted to its reservations (R182). -/
def slopeRate (s : State) (cl : Nat) : Nat :=
  s.reservations.foldl (fun m r => r.rates.foldl (fun m e => if e.1 = cl then max m e.2 else m) m) (getCluster s cl).slope

/-- The ticks between waves (R181). -/
def waveTicks (s : State) (cl : Nat) : Nat :=
  let l := max 1 (slopeRate s cl)
  (12000 + l - 1) / l

/-- The groups of each wave: on each slot, the lowest-indexed group still waiting (R181). -/
def wavesOf (t : Team) (gs : List Nat) : List (List Nat) :=
  let onSlot := fun (sl : Nat) => gs.filter fun g => (groupAt t g).slot == sl
  (List.range 16).filterMap fun i =>
    match (List.range 4).filterMap fun sl => (onSlot sl)[i]? with
    | [] => none
    | w => some w

/-- Puts groups into waves, the first due now, and resets the team's progress counts; a group that waits in the cycle of its release is not ready in it
(R177, R178, R181) (log entry 15). -/
def releaseGroups (s : State) (k tx : Nat) (gs : List Nat) : State :=
  let step := waveTicks s (clusterOf k) * tickUnits
  let c := cyc s k
  let now := s.time
  modTeam s k tx fun t =>
    let ws := (wavesOf t gs).zipIdx.map fun e => (⟨now + e.2 * step, e.1⟩ : Wave)
    let t := gs.foldl (fun t g => modGroupIn t g fun x =>
      { x with wait := x.wait.map (fun w => { w with kind := .wave }), bubble := max x.bubble (c + 1) }) t
    { t with waves := t.waves ++ ws, openedAt := c + 1,
             groups := t.groups.map fun e => (e.1, { e.2 with progress := 0 }) }

/-- The first cycle of a core that begins at or after the present time. -/
def firstCycle (s : State) (k : Nat) : Nat := cyclesAt (getCluster s (clusterOf k)) (s.time - 1) + 1

/-- BARRIER_WAVE_RELEASE: every wave that is due goes, of whichever opening; its groups may issue from the first cycle that begins then or later
(R177, R181). -/
def execBarrierWaveRelease (core tx : Nat) (s : State) : Host.Outcome State Fault Refusal :=
  .next (
    let due := fun (w : Wave) => decide (w.due ≤ s.time)
    let go := ((getTeam s core tx).waves.filter due).flatMap (·.groups)
    if go.isEmpty then s
    else
      let c := firstCycle s core
      modTeam s core tx fun t =>
        go.foldl (fun t g => modGroupIn t g fun x => { x with wait := none, bubble := max x.bubble c })
          { t with waves := t.waves.filter fun w => !(due w) })

/-! ## Arrivals and openings (R198) -/

/-- The groups of a team that have not ended. -/
def liveGroups (t : Team) : List Nat := (List.range t.ngroups).filter fun g => !(groupAt t g).ended

def barAt (t : Team) (n : Nat) : Barrier := Tbl.get {} t.bars n

/-- The arrivals that open a barrier: its expected count, or every live group for count 0. -/
def barTarget (t : Team) (e : Nat) : Nat := if e = 0 then (liveGroups t).length else e

/-- The groups waiting on a barrier. -/
def waitersOn (t : Team) (n : Nat) : List Nat :=
  (List.range t.ngroups).filter fun g => match (groupAt t g).wait with
    | some w => (match w.kind with | .barrier b _ => b == n | _ => false)
    | none => false

/-- Opens a barrier: a new phase, and its waiting groups go in waves (R198). -/
def openBarrier (s : State) (k tx n : Nat) : State :=
  let gs := waitersOn (getTeam s k tx) n
  let s := modTeam s k tx fun t =>
    let b := barAt t n
    let t := gs.foldl (fun t g => modGroupIn t g fun x => { x with w := Tbl.put 0 x.w n 0 }) t
    { t with bars := Tbl.set t.bars n { b with a := 0, ph := (b.ph + 1) % 2 ^ 32 } }
  releaseGroups s k tx gs

/-- Opens a barrier whose arrivals have reached their target (R198). -/
def checkBarrier (s : State) (k tx n : Nat) : State :=
  let t := getTeam s k tx
  let b := barAt t n
  if 1 ≤ b.a && barTarget t b.e ≤ b.a then openBarrier s k tx n else s

/-- An arrival of a group: it counts, and the group records the phase (R198). -/
def arriveAt (s : State) (k tx g n cnt : Nat) : State :=
  modTeam s k tx fun t =>
    let b := barAt t n
    let b := { b with e := if b.a = 0 then cnt else b.e, a := b.a + 1 }
    modGroupIn { t with bars := Tbl.set t.bars n b } g fun x => { x with w := Tbl.put 0 x.w n (b.ph + 1) }

/-- Whether an arrival is refused: a count above the team's group count, or one that differs within a phase (R197, R198). -/
def arriveBad (t : Team) (n cnt : Nat) : Bool :=
  let b := barAt t n
  decide (t.ngroups < cnt) || (b.a != 0 && b.e != cnt)

/-- The phase that a group waits to see pass: the one it recorded, or the present one (R198). -/
def waitPhase (t : Team) (g n : Nat) : Nat :=
  let w := Tbl.get 0 (groupAt t g).w n
  if w = 0 then (barAt t n).ph else w - 1

/-- Makes the issuing group wait. -/
def curWait (s : State) (act : List Nat) (kind : WaitKind) : State :=
  let w : Wait := ⟨kind, s.time, s.cur.lanes, maskOf act, s.cur.pc, s.cur.len⟩
  onGroup s fun g => { g with wait := some w }

/-- ARRIVE (R198). -/
def execArrive (g : Guard) (b : Fin 16) (count : Spec) (s : State) : Host.Outcome State Fault Refusal :=
  .next (groupWord s g fun act =>
    let cnt := (curU s count).toNat
    if arriveBad (curTeam s) b cnt then trapActive s act ⟨.bounds, 0, 0, 0⟩
    else advance (checkBarrier (arriveAt s s.cur.core s.cur.tx s.cur.group b cnt) s.cur.core s.cur.tx b))

/-- WAITBAR (R198). -/
def execWaitbar (g : Guard) (b : Fin 16) (s : State) : Host.Outcome State Fault Refusal :=
  .next (groupWord s g fun act =>
    let t := curTeam s
    let x := waitPhase t s.cur.group b
    if (barAt t b).ph = x then curWait (advance s) act (.barrier b x)
    else advance (onGroup s fun grp => { grp with w := Tbl.put 0 grp.w b 0 }))

/-- BAR: an arrival and a wait in one issue; the group that opens the barrier goes in its wave like any other (R181, R198). -/
def execBar (g : Guard) (b : Fin 16) (count : Spec) (s : State) : Host.Outcome State Fault Refusal :=
  .next (groupWord s g fun act =>
    let cnt := (curU s count).toNat
    if arriveBad (curTeam s) b cnt then trapActive s act ⟨.bounds, 0, 0, 0⟩
    else
      let s := arriveAt s s.cur.core s.cur.tx s.cur.group b cnt
      let s := curWait (advance s) act (.barrier b (waitPhase (curTeam s) s.cur.group b))
      checkBarrier s s.cur.core s.cur.tx b)

/-- Whether a group waits at a barrier, or at FETCH. -/
def atBarrier (g : Group) : Bool := match g.wait with | some w => (match w.kind with | .barrier _ _ => true | _ => false) | none => false
def atFetch (g : Group) : Bool := match g.wait with | some w => (match w.kind with | .fetch _ => true | _ => false) | none => false

/-- Whether no arrival can follow: every live group waits at a barrier or at FETCH, and some at a barrier (R200, R243). -/
def deadlocked (t : Team) : Bool :=
  let gs := liveGroups t
  (gs.any fun g => atBarrier (groupAt t g)) && gs.all fun g => atBarrier (groupAt t g) || atFetch (groupAt t g)

/-- The LIMIT_WAIT of one waiting group: its lanes park at the word that waits (R200, R385). -/
def deadlockGroup (k tx : Nat) (s : State) (g : Nat) : State :=
  match (getGroup s k tx g).wait with
  | none => s
  | some w =>
    let ls := liveLanes (getGroup s k tx g) (BitVec.allOnes 32)
    let s := modGroup s k tx g fun x => setPc { x with wait := none } (ls.filter fun l => w.sub.getLsbD l) w.pc
    trapAt s k tx g w.pc (ls.map fun l => ⟨l, ⟨.limitWait, 2, 0, 0⟩⟩)

/-- Whether some group of a team has issued or ended in the present cycle. -/
def issuedNow (s : State) (k tx : Nat) : Bool := (getTeam s k tx).groups.any fun e => decide (cyc s k < e.2.issuedAt)

/-- BARRIER_DEADLOCK: on the cycle after that in which the team's last group came to wait or ended (R200) (log entry 21). -/
def execBarrierDeadlock (core tx : Nat) (s : State) : Host.Outcome State Fault Refusal :=
  .next (if deadlocked (getTeam s core tx) && !(issuedNow s core tx) && !(ending s (getTeam s core tx).grid) &&
      (liveGroups (getTeam s core tx)).all (trapRoom s core tx) && decide ((liveGroups (getTeam s core tx)).length ≤ freeTraps (getCore s core)) then (liveGroups (getTeam s core tx)).foldl (deadlockGroup core tx) s else s)

/-! ## Basic-block counters (R158) -/

/-- Flushes one entry of the core's cache: a device-scope atomic add. -/
def flushEntry (k : Nat) (s : State) (e : Nat × Nat × Nat) : State :=
  match teamGrid s (getTeam s k e.1) with
  | none => s
  | some g => pushFatom s k e.1 0 0 .add true (g.descr.bbbase + 8 * e.2.1) (BitVec.ofNat 64 e.2.2) 0 none none false

/-- Flushes the whole cache of a core (R153, R158, R397). -/
def flushAll (s : State) (k : Nat) : State :=
  let es := (getCore s k).bbcache
  es.foldl (flushEntry k) (modCore s k fun c => { c with bbcache := [] })

/-- Adds 1 to an entry of the cache, least recently used first; a miss with the cache full flushes that one. -/
def countBlock (s : State) (k tx i : Nat) : State :=
  let es := (getCore s k).bbcache
  let rest := es.filter fun e => !(e.1 == tx && e.2.1 == i)
  match es.find? fun e => e.1 == tx && e.2.1 == i with
  | some e => modCore s k fun c => { c with bbcache := rest ++ [(tx, i, e.2.2 + 1)] }
  | none =>
    match es with
    | e :: es' =>
      if 256 ≤ es.length then flushEntry k (modCore s k fun c => { c with bbcache := es' ++ [(tx, i, 1)] }) e
      else modCore s k fun c => { c with bbcache := es ++ [(tx, i, 1)] }
    | [] => modCore s k fun c => { c with bbcache := [(tx, i, 1)] }

/-- BBHINT (R158) (log entry 12). -/
def execBbhint (g : Guard) (a : Spec) (s : State) : Host.Outcome State Fault Refusal :=
  .next (groupWord s g fun act =>
    let len := match curGrid s with | some gr => gr.descr.bblen | none => 0
    let i := (curU s a).toNat
    if len = 0 then advance s
    else if len ≤ i then trapActive s act ⟨.bounds, 0, 0, 0⟩
    else advance (countBlock s s.cur.core s.cur.tx i))

/-! ## The end of lanes, groups and teams (R153) -/

/-- Whether a group ends: every lane has exited. -/
def groupOver (g : Group) : Bool := allLanes.all fun l => (laneAt g l).st == .exited

/-- After lanes have exited: the group ends, count-0 barriers are checked, and the team's last group flushes the cache (R153, R198). -/
def endGroup (s : State) (k tx g : Nat) : State :=
  if !groupOver (getGroup s k tx g) || (getGroup s k tx g).ended then s
  else
    let now := cyc s k
    let s := modGroup s k tx g fun x => { x with ended := true, wait := none, issuedAt := max x.issuedAt (now + 1) }
    let s := (List.range 16).foldl (fun s n => checkBarrier s k tx n) s
    if (liveGroups (getTeam s k tx)).isEmpty then flushAll s k else s

/-- EXIT (R153). -/
def execExit (g : Guard) (s : State) : Host.Outcome State Fault Refusal :=
  .next (
    let next := curNext s
    let s := onGroup s fun grp => modLanes grp (subLanes s) fun _ ln =>
      if guardIn g ln then { ln with st := .exited } else { ln with pc := next }
    endGroup s s.cur.core s.cur.tx s.cur.group)

end Sys2Proof.Machine
end

