-- ==== Sys2Proof/Machine/Waits.lean ====
section
/-! DEFINITION. The words that wait at their place: WAITC, CNTSET and FENCE (R227, R228, R251, R252, R274, R275), and the end of such a wait. -/
namespace Sys2Proof.Machine

/-! ## The end of a wait -/

/-- The text of a team's kernel. -/
def teamText (s : State) (t : Team) : List Word := match teamGrid s t with | some g => g.kernel.text | none => []

/-- A group's wait ends: the lanes of the word's issue go on past it. -/
def endWait (s : State) (k tx g : Nat) : State :=
  match (getGroup s k tx g).wait with
  | none => s
  | some w =>
    let next := nextPc (teamText s (getTeam s k tx)) w.pc w.len
    modGroup s k tx g fun x => setPc { x with wait := none } (lanesOf w.sub) next

/-- A group's wait ends in a trap: the lanes of `active` park at the word, and the other issuing lanes go on past it (R86). -/
def trapWait (s : State) (k tx g : Nat) (c : Cause) : State :=
  match (getGroup s k tx g).wait with
  | none => s
  | some w =>
    let next := nextPc (teamText s (getTeam s k tx)) w.pc w.len
    let s := modGroup s k tx g fun x => setPc { x with wait := none } (lanesOf (w.sub &&& ~~~w.mask)) next
    trapAt s k tx g w.pc ((lanesOf w.mask).map fun l => ⟨l, c⟩)

/-! ## WAITC (R251) -/

/-- A counter's value. -/
def ctrValue (t : Team) (a : Nat) : Nat := readBytes t.sp a 4

/-- The check of a counter address (R251). -/
def ctrCheck (ws a : Nat) : Option Cause :=
  if a % 4 ≠ 0 then some (addrCause .misalign (some a)) else if ws < a + 4 then some (addrCause .bounds (some a)) else none

/-- WAITC checks its counter and waits until it reaches the target or the bound runs out (R251) (log entry 31). -/
def execWaitc (g : Guard) (ctr target : Spec) (bound : Word) (s : State) : Host.Outcome State Fault Refusal :=
  .next (groupWord s g fun act =>
    let a := (curU s ctr).toNat
    let tgt := curU s target
    match ctrCheck (curWS s) a with
    | some c => trapActive s act c
    | none =>
      if tgt.toNat ≤ ctrValue (curTeam s) a then advance s
      else curWait s act (.waitc a tgt bound.toNat 0 (curCore s).serial))

/-- Whether a group waits in a WAITC whose counter has reached its target. -/
def waitcMet (t : Team) (g : Nat) : Bool :=
  match (groupAt t g).wait with
  | some w => (match w.kind with | .waitc a tgt _ _ _ => decide (tgt.toNat ≤ ctrValue t a) | _ => false)
  | none => false

/-- WAITC_SATISFIED (R251). -/
def execWaitcSatisfied (core tx g : Nat) (s : State) : Host.Outcome State Fault Refusal :=
  .next (if waitcMet (getTeam s core tx) g then endWait s core tx g else s)

/-- Whether a group waits in a WAITC whose bound has run out (R251, R400). -/
def waitcLate (s : State) (t : Team) (g : Nat) : Bool :=
  match (groupAt t g).wait with
  | some w => (match w.kind with
    | .waitc _ _ bound waited _ => decide (w.since / tickUnits + bound ≤ tick s + waited)
    | _ => false)
  | none => false

/-- Whether a command naming a counter, issued before the WAITC, is overdue (R251, R259). -/
def overdue (s : State) (t : Team) (a before : Nat) : Bool :=
  t.issued.any fun i => i.ctr == some a && !i.incremented && decide (i.serial < before) && decide (i.owed < tick s)

/-- WAITC_TIMEOUT: LIMIT_WAIT for every lane of `active`; the device is named if an awaited command is overdue (R251). A group that termination has
stopped traps no more (R388). -/
def execWaitcTimeout (core tx g : Nat) (s : State) : Host.Outcome State Fault Refusal :=
  let t := getTeam s core tx
  .next (match (groupAt t g).wait with
    | none => s
    | some w =>
      match w.kind with
      | .waitc a _ _ _ before =>
        if waitcLate s t g && !waitcMet t g && trapRoom s core tx g && !(ending s t.grid) then
          let s := if overdue s t a before then blame s t.grid .device else s
          trapWait s core tx g ⟨.limitWait, 1, BitVec.ofNat 32 a, 0⟩
        else s
      | _ => s)

/-! ## CNTSET (R252) -/

/-- The number of the first command of its core that a CNTSET at an offset does not await: the first issued in or after the cycle in which the CNTSET came
to be the group's selected word (R252). -/
def cntFrom (c : Core) (g : Group) (pc : Nat) : Nat :=
  match g.cntMark with
  | some (p, n) => if p = pc then n else c.serialAt
  | none => c.serialAt

/-- The commands that a CNTSET awaits: those up to a number that name the counter and have not made their increment. -/
def awaited (t : Team) (a before : Nat) : List Nat :=
  (t.issued.filter fun i => i.ctr == some a && !i.incremented && decide (i.serial < before)).map (·.serial)

/-- Whether every command of a list has made its increment. -/
def incremented (t : Team) (ns : List Nat) : Bool := ns.all fun n => !(t.issued.any fun i => i.serial == n && !i.incremented)

def writeCtr (t : Team) (a : Nat) (v : Word) : Team := { t with sp := writeBytes t.sp a v.toNat 4 }

/-- CNTSET writes a counter once every command of the team that names it has made its increment (R252) (log entry 30). -/
def execCntset (g : Guard) (ctr value : Spec) (s : State) : Host.Outcome State Fault Refusal :=
  .next (groupWord s g fun act =>
    let a := (curU s ctr).toNat
    let v := curU s value
    match ctrCheck (curWS s) a with
    | some c => trapActive s act c
    | none =>
      match awaited (curTeam s) a (cntFrom (curCore s) (curGroup s) s.cur.pc) with
      | [] => advance (onTeam s fun t => writeCtr t a v)
      | ns => curWait s act (.cntset a v ns))

/-- CNTSET_WRITE (R252). -/
def execCntsetWrite (core tx g : Nat) (s : State) : Host.Outcome State Fault Refusal :=
  .next (match (getGroup s core tx g).wait with
    | none => s
    | some w =>
      match w.kind with
      | .cntset a v ns =>
        if incremented (getTeam s core tx) ns then endWait (modTeam s core tx fun t => writeCtr t a v) core tx g else s
      | _ => s)

/-! ## FENCE (R227, R228, R274, R275) -/

/-- Whether every earlier RST and RATOM of the lanes of a mask is ready (R228). -/
def remotesDone (c : Core) (tx g : Nat) (mask : BitVec 32) : Bool :=
  !(c.remotes.any fun r => r.tx == tx && r.group == g && (match r.op with | .ld _ => false | _ => true) &&
      r.lanes.any fun l => mask.getLsbD l.lane)

/-- The commands that a fence covers (R274). -/
def fenceCovers (t : Team) (g : Nat) (mask : BitVec 32) : List Nat :=
  (t.issued.filter fun i => i.wback || (i.group == g && i.mask &&& mask != 0)).map (·.serial)

/-- The writes of a covered command, none while it still has elements to perform or is parked; a command that was parked satisfies a fence only after
its replay has completed (R275). -/
def coveredWrites (s : State) (k tx : Nat) (i : Issued) : Option (List WriteId × Nat × Nat) :=
  if i.done then some (i.writes, i.pendingHost, i.pendingPeer)
  else
    match ((getCore s k).copyq ++ (getTeam s k tx).jobs).find? fun c => c.serial == i.serial with
    | some c => if c.replayed then none else match c.st with
      | .last | .back _ _ => some (c.writes, c.pendingHost, c.pendingPeer)
      | _ => none
    | none => none

/-- The condition of a scope for a covered command (R275). -/
def fenceMeets (s : State) (k tx : Nat) (sc : Scope) (i : Issued) : Bool :=
  if !i.store then i.done
  else match coveredWrites s k tx i with
    | none => false
    | some (ws, h, p) =>
      let die := ws.all (appliedAt s (dieOf k))
      match sc with
      | .dev => die && ws.all (appliedAll s)
      | .sys => die && ws.all (appliedAll s) && h == 0 && p == 0
      | _ => die

/-- Whether a fence's condition holds (R228, R275). -/
def fenceDone (s : State) (k tx g : Nat) (mask : BitVec 32) (sc : Scope) (ns : List Nat) : Bool :=
  match sc with
  | .thread | .group | .team => true
  | .cluster => remotesDone (getCore s k) tx g mask
  | _ => remotesDone (getCore s k) tx g mask &&
      (getTeam s k tx).issued.all fun i => !ns.contains i.serial || fenceMeets s k tx sc i

/-- FENCE: done at once for the scopes of one team, else the group waits for the accesses it covers (R228, R275). -/
def execFence (g : Guard) (sc : Scope) (s : State) : Host.Outcome State Fault Refusal :=
  .next (groupWord s g fun act =>
    let ns := fenceCovers (curTeam s) s.cur.group (maskOf act)
    if fenceDone s s.cur.core s.cur.tx s.cur.group (maskOf act) sc ns then advance s else curWait s act (.fence sc ns))

/-- FENCE_COMPLETE (R228, R275). -/
def execFenceComplete (core tx g : Nat) (s : State) : Host.Outcome State Fault Refusal :=
  .next (match (getGroup s core tx g).wait with
    | none => s
    | some w =>
      match w.kind with
      | .fence sc ns => if fenceDone s core tx g w.mask sc ns then endWait s core tx g else s
      | _ => s)

/-! ## Remote accesses at their target (R217 to R219) -/

/-- REMOTE_ACCESS_ENTRY: a part enters the target's scratchpad order, and its lanes act there in ascending order (R217, R219). -/
def execRemoteAccessEntry (core i : Nat) (s : State) : Host.Outcome State Fault Refusal :=
  .next (match (getCore s core).remotes[i]? with
    | none => s
    | some r =>
      if r.entered || netCyc s core < r.entry then s
      else
        let mark := fun (res : List (Nat × BitVec 128)) (s : State) =>
          modCore s core fun c => { c with remotes := c.remotes.set i { r with entered := true, results := res } }
        match placeOf s r.target r.grid with
        | none => mark [] s
        | some tx =>
          let m := memSteps r.op.mem (getTeam s r.target tx).sp (r.lanes.map fun l => (l.lane, l.off, l.val, 0))
          mark m.2 (modTeam s r.target tx fun t => { t with sp := m.1 }))

/-- What a lane receives from a remote access: its destination and the last-result entry that its issue shifted in (R48, R219). -/
def receiveLane (r : Remote) (l : RemoteLane) (x : BitVec 128) (ln : Lane) : Lane :=
  match r.op with
  | .st _ => ln
  | .ld .w64 => writeYAt (writePair ln r.dst (x.setWidth 64)) l.ysh (x.setWidth 32)
  | .ld .w128 => writeYAt (writeQuad ln r.dst x) l.ysh (x.setWidth 32)
  | _ => writeYAt (writeSpec ln r.dst (x.setWidth 32)) l.ysh (x.setWidth 32)

/-- REMOTE_RESULT_READY: a part is ready; its lanes receive their results, and once no part is left the scoreboard clears (R217). -/
def execRemoteResultReady (core i : Nat) (s : State) : Host.Outcome State Fault Refusal :=
  .next (match (getCore s core).remotes[i]? with
    | none => s
    | some r =>
      if !r.entered || netCyc s core < r.ready then s
      else
        let s := modCore s core fun c => { c with remotes := c.remotes.eraseIdx i }
        let left := (getCore s core).remotes.any fun x => x.tag == r.tag
        modGroup s core r.tx r.group fun g =>
          let g := r.lanes.foldl (fun g l =>
            match r.results.find? fun e => e.1 == l.lane with
            | some e => modLane g l.lane (receiveLane r l e.2)
            | none => g) g
          if left then g else { g with pend := g.pend.filter fun p => p.tag != r.tag })

end Sys2Proof.Machine
end

