-- ==== Sys2Proof/Machine/Matrix.lean ====
section
/-! DEFINITION. The paired matrix engine: reservations, MMA and its stages, tiles and their names, TMOV, TSET and TZERO (R276 to R304). -/
namespace Sys2Proof.Machine

/-! ## Contexts, pairs and names (R282, R290, R291) -/

/-- The number of the context of a team, for a word of that team; a team whose kernel has a matrix instruction holds one (R282). -/
def ctxNo (t : Team) : Nat := t.ctx.getD 0

/-- The matrix context of the issuing team, and a change of it. -/
def curCtx (s : State) : Ctx := getCtx s (pairOf s.cur.core) (ctxNo (curTeam s))
def onCtx (s : State) (f : Ctx → Ctx) : State := modCtx s (pairOf s.cur.core) (ctxNo (curTeam s)) f

/-- The tile name that a tile field gives; none for a g value above 7 (R298). -/
def tileName (grp : Group) (sp : Spec) : Option Nat :=
  match sp with
  | .t n => some n
  | sp => let v := (uval grp sp).toNat; if 7 < v then none else some v

/-- The physical pair that a name maps to. -/
def mapped (c : Ctx) (t : Nat) : Option Nat := Tbl.get none c.names t

/-- Whether a physical pair is free (R290). -/
def pairFree (c : Ctx) (p : Nat) : Bool :=
  !((List.range 8).any fun t => mapped c t == some p) && !(c.mmas.any fun m => m.pair == p && m.st != .retired) &&
    !(c.ops.any fun o => o.pair == p) && !(c.drains.any fun d => d.pair == p)

/-- The lowest-numbered free pair (R291). -/
def freePair (c : Ctx) : Option Nat := (List.range 12).find? (pairFree c)

/-- Maps a name to a fresh pair, whose elements start at +0.0 (R291). -/
def mapFresh (c : Ctx) (t p : Nat) : Ctx :=
  { c with names := Tbl.put none c.names t (some p), tiles := Tbl.set c.tiles p [],
           mmas := c.mmas.map fun m => if m.pair = p then { m with waited := true } else m }

/-- Unmaps a name (R291). -/
def unmap (c : Ctx) (t : Nat) : Ctx := { c with names := Tbl.put none c.names t none }

/-- Whether a word needs a fresh pair for a name. -/
def needsPair (c : Ctx) (t : Nat) (fresh : Bool) : Bool := fresh || (mapped c t).isNone

/-- Whether a word waits before it issues, for want of a free pair (R291). -/
def noPair (c : Ctx) (t : Option Nat) (fresh : Bool) : Bool :=
  match t with
  | some t => needsPair c t fresh && (freePair c).isNone
  | none => false

/-- The pair that a name denotes, mapped fresh where the word needs that (R291). -/
def denote (c : Ctx) (t : Nat) (fresh : Bool) : Ctx × Nat :=
  if needsPair c t fresh then
    let p := (freePair c).getD 0
    (mapFresh c t p, p)
  else (c, (mapped c t).getD 0)

/-! ## Stages of an MMA (R287) -/

/-- Whether an MMA has ended capture. -/
def Mma.captured (m : Mma) : Bool :=
  match m.st with
  | .captured _ | .retired => true
  | _ => false

/-- The operand latches in use (R287). -/
def latchesUsed (c : Ctx) : Nat := (c.mmas.filter fun m => !m.captured).length

/-- Whether an MMA that a team has issued names an entry and has not ended capture (R293). -/
def entryInUse (c : Ctx) (rid : Nat) : Bool := c.mmas.any fun m => (m.ridA == rid || m.ridB == rid) && !m.captured

/-! ## RSV, RLS and OPFENCE (R276, R277, R292 to R294) -/

/-- Whether a reservation entry is usable: 12 cycles after the RSV that wrote it (R293). -/
def entryUsable (t : Team) (now rid : Nat) : Bool := decide (Tbl.get 0 t.rsvReady rid ≤ now)

/-- The window and entry sizes of a team's launch. -/
def descrOf (s : State) (k tx : Nat) : Descr := match teamDescr s (getTeam s k tx) with | some d => d | none => shapelessDescr
where
  shapelessDescr : Descr :=
    { lstart := 0, lenergy := 0, ltime := 0, accby := 0, bblen := 0, bbbase := 0, plim := 0, slice := 0, defw := false,
      sign := false, debug := false, fpen := 0, nr := 0, wo16 := 0, ws64 := 0, bws := 0, bwc := 0, prio := 0, loose := false,
      floor := 0, dies := 0, cores := 0, x := 0, y := 0, z := 0, args := 0, image := 0, mbz := false }

/-- RSV's checks and effect (R293) (log entry 54). -/
def rsvEffect (d : Descr) (t : Team) (now rid rec : Nat) : Except Cause Team :=
  if descrNR d ≤ rid then .error ⟨.bounds, 0, 0, 0⟩
  else if rec % 16 ≠ 0 then .error (addrCause .misalign (some rec))
  else if descrWS d < rec + 16 then .error (addrCause .bounds (some rec))
  else
    let r := rsvRec (readBytes t.sp rec 16)
    match r.check (descrWO d) with
    | some c => .error ⟨c, 0, 0, 0⟩
    | none => .ok { t with rsv := Tbl.set t.rsv rid (some r), rsvReady := Tbl.put 0 t.rsvReady rid (now + 12) }

/-- RLS's check and effect (R293). -/
def rlsEffect (d : Descr) (t : Team) (rid : Nat) : Except Cause Team :=
  if descrNR d ≤ rid then .error ⟨.bounds, 0, 0, 0⟩ else .ok { t with rsv := Tbl.set t.rsv rid none }

/-- The outcome of a word on its team. -/
def commitTeam (s : State) (act : List Nat) : Except Cause Team → State
  | .error c => trapActive s act c
  | .ok t => advance (onTeam s fun _ => t)

/-- RSV writes a reservation entry from its record once no MMA of the team still reads the entry (R293). -/
def execRsv (g : Guard) (rid rec : Spec) (s : State) : Host.Outcome State Fault Refusal :=
  .next (groupWord s g fun act =>
    let r := (curU s rid).toNat
    let a := (curU s rec).toNat
    if entryInUse (curCtx s) r then curWait s act (.rsv r a)
    else commitTeam s act (rsvEffect (descrOf s s.cur.core s.cur.tx) (curTeam s) (cyc s s.cur.core) r a))

/-- RLS drops a reservation entry, under the same wait (R293). -/
def execRls (g : Guard) (rid : Spec) (s : State) : Host.Outcome State Fault Refusal :=
  .next (groupWord s g fun act =>
    let r := (curU s rid).toNat
    if entryInUse (curCtx s) r then curWait s act (.rls r)
    else commitTeam s act (rlsEffect (descrOf s s.cur.core s.cur.tx) (curTeam s) r))

/-- What a waiting RSV or RLS does once no MMA needs the entry, the entry is usable and the slot is free; none where the wait is another or goes on (R293). -/
def entryWait (s : State) (k tx g : Nat) : Option (Except Cause Team) :=
  let t := getTeam s k tx
  let c := getCtx s (pairOf k) (ctxNo t)
  match (groupAt t g).wait with
  | none => none
  | some w =>
    let open_ := fun (rid : Nat) => !(entryInUse c rid) && entryUsable t (cyc s k) rid && slotFree s k (groupAt t g).slot
    match w.kind with
    | .rsv rid rec => if open_ rid then some (rsvEffect (descrOf s k tx) t (cyc s k) rid rec) else none
    | .rls rid => if open_ rid then some (rlsEffect (descrOf s k tx) t rid) else none
    | _ => none

/-- RSV_ENTRY_USABLE: a waiting RSV or RLS acts, and takes its slot for the cycle; else the entries that have become usable are marked so (R293)
(log entry 54). -/
def execRsvEntryUsable (core tx g : Nat) (s : State) : Host.Outcome State Fault Refusal :=
  .next (match entryWait s core tx g with
    | none =>
      let now := cyc s core
      if (getTeam s core tx).rsvReady.any fun e => decide (e.2 ≤ now) then
        modTeam s core tx fun t => { t with rsvReady := t.rsvReady.filter fun e => !decide (e.2 ≤ now) }
      else s
    | some (.error c) => trapWait (holdSlot s core (getGroup s core tx g).slot) core tx g c
    | some (.ok t) => endWait (modTeam (holdSlot s core (getGroup s core tx g).slot) core tx fun _ => t) core tx g)

/-- OPFENCE: operand-buffer writes placed before it precede the captures of the group's later MMAs (R277, R294). -/
def execOpfence (g : Guard) (s : State) : Host.Outcome State Fault Refusal :=
  .next (groupWord s g fun _ =>
    let n := (curTeam s).obNo
    advance (onGroup s fun grp => { grp with obFence := n }))

/-! ## MMA at issue (R286, R295, R296, R319) -/

/-- The record of a usable entry. -/
def entryOf (t : Team) (nr rid : Nat) : Option RsvRec := if rid < nr then Tbl.get none t.rsv rid else none

/-- The image of a program of a team, where the kernel defines it (R305). -/
def progImage (c : Core) (t : Team) (prog : Nat) : Option (List Word) :=
  match Tbl.get 0 t.slots prog with
  | 0 => none
  | n + 1 => some (Tbl.get [] c.drainStore n)

/-- The entry copies of a drain; none for BOUNDS (R318). -/
def entryCopies (c : Core) (t : Team) (nr prog : Nat) (sc : Option Nat) : Option (List (Nat × RsvRec)) :=
  match progImage c t prog with
  | none => none
  | some img =>
    match programRids img sc with
    | none => none
    | some rids => rids.eraseDups.mapM fun r => (entryOf t nr r).map fun e => (r, e)

/-- The A lines of an MMA: the index registers of all 32 lanes (R286). -/
def aLines (grp : Group) (vn : Fin 1536) : List Nat :=
  (allLanes.map fun l => (readSpec grp l (.v vn)).toNat) ++ allLanes.map fun l => (readSpec grp l (specPlus (.v vn) 1)).toNat

/-- The operands of an MMA that has passed its checks. -/
structure MmaArgs where
  recA : RsvRec
  recB : RsvRec
  k : Nat
  rows : List Nat
  copies : Option (List (Nat × RsvRec))

/-- A record that MMA may read (R296). -/
def mmaEntry (t : Team) (nr rid : Nat) : Except Cause RsvRec :=
  match entryOf t nr rid with
  | none => .error ⟨.bounds, 0, 0, 0⟩
  | some r => if r.kind = 3 then .error ⟨.format, 0, 0, 0⟩ else .ok r

/-- The checks of MMA in the order of R296, with those of its drain last (R319). `rows` are its A lines. -/
def mmaCheck (core : Core) (t : Team) (nr charge : Nat) (rows : List Nat) (ra rb : Nat) (e : MmaExt) : Except Cause MmaArgs :=
  match mmaEntry t nr ra, mmaEntry t nr rb with
  | .error c, _ => .error c
  | _, .error c => .error c
  | .ok a, .ok b =>
    match pairingK a b with
    | none => .error ⟨.format, 0, 0, 0⟩
    | some k =>
      if charge < pairingPj a b then .error ⟨.format, 0, 0, 0⟩
      else if e.ak.toNat % k ≠ 0 || e.bk.toNat % k ≠ 0 then .error ⟨.misalign, 0, 0, 0⟩
      else if !((rows.all fun q => a.lineOk q e.ak.toNat k) && (bLines e.bcol.toNat).all fun q => b.lineOk q e.bk.toNat k) then
        .error ⟨.bounds, 0, 0, 0⟩
      else
        match e.dprog with
        | none => .ok ⟨a, b, k, rows, none⟩
        | some p =>
          match entryCopies core t nr p none with
          | none => .error ⟨.bounds, 0, 0, 0⟩
          | some cs => .ok ⟨a, b, k, rows, some cs⟩

/-- A drain that joins the end of its context's queue (R317). -/
def queueDrain (c : Ctx) (d : Drain) : Ctx := { c with drains := c.drains ++ [{ d with seq := c.seq + 1 }], seq := c.seq + 1 }

/-- MMA in a context: the mapping, the queued MMA with its gather (R287), and its drain (R291, R296, R319). -/
def mmaQueue (c : Ctx) (now group pc tv ra rb fence obNo : Nat) (a : MmaArgs) (e : MmaExt) : Ctx :=
  let (c, p) := denote c tv e.new
  let start := max (now + 2) c.gatherEnd
  let m : Mma :=
    { seq := c.seq + 1, group := group, pair := p, ridA := ra, ridB := rb, recA := a.recA, recB := a.recB, rows := a.rows,
      ak := e.ak.toNat, bk := e.bk.toNat, bcol := e.bcol.toNat, k := a.k, fence := fence, obNo := obNo,
      st := .gathering (start + 8) }
  let c := { c with mmas := c.mmas ++ [m], seq := c.seq + 1, gatherEnd := start + 8 }
  match e.dprog, a.copies with
  | some prog, some cs =>
    queueDrain (unmap c tv)
      { seq := 0, group := group, pc := pc, pair := p, prog := prog.val, sb := 0, sc := none, rpitch := 0, cpitch := 0,
        keep := false, copies := cs }
  | _, _ => c

/-- Whether an MMA waits before it issues: no free latch, or no free pair (R287, R291) (log entry 49). -/
def mmaBlocked (c : Ctx) (tv : Option Nat) (fresh : Bool) : Bool := decide (2 ≤ latchesUsed c) || noPair c tv fresh

/-- MMA; while it waits before its issue it does nothing (R177, R296). -/
def execMma (g : Guard) (tile ra rb : Spec) (vn : Fin 1536) (e : MmaExt) (s : State) : Host.Outcome State Fault Refusal :=
  .next (groupWord s g fun act =>
    let grp := curGroup s
    let tv := tileName grp tile
    if mmaBlocked (curCtx s) tv e.new then s
    else
      match tv with
      | none => trapActive s act ⟨.bounds, 0, 0, 0⟩
      | some tv =>
        let a := (uval grp ra).toNat
        let b := (uval grp rb).toNat
        let t := curTeam s
        let charge := match curGrid s with | some gr => gr.kernel.mmaCharge | none => 0
        match mmaCheck (curCore s) t (curNR s) charge (aLines grp vn) a b e with
        | .error c => trapActive s act c
        | .ok args =>
          let now := cyc s s.cur.core
          advance (onCtx s fun c => mmaQueue c now s.cur.group s.cur.pc tv a b grp.obFence t.obNo args e))

/-! ## Gather, capture and retirement (R277, R278, R287) -/

/-- What a byte may be seen to hold by a gather whose MMA has the write numbers `fence` and `obNo` (R277) (log entry 44). -/
def seenValues (t : Team) (m : Mma) (b : Nat) : List Byte :=
  Tbl.get 0 t.ob b ::
    ((Tbl.get [] t.obOld b).filter fun e => decide (m.fence < e.1) && decide (e.1 ≤ m.obNo)).map (·.2)

/-- The bytes of a list of runs. -/
def spanBytes (l : List (Nat × Nat)) : List Nat := (l.flatMap fun sp => (List.range (sp.2 - sp.1)).map (sp.1 + ·)).eraseDups

/-- Collects operand bytes; where a byte may be seen old or new, a free choice decides (R277). -/
def gatherBytes (t : Team) (m : Mma) : List Nat → Nat → Tbl Byte → Tbl Byte × Nat
  | [], n, l => (l, n)
  | b :: bs, n, l =>
    match seenValues t m b with
    | [x] => gatherBytes t m bs n (Tbl.put 0 l b x)
    | xs => gatherBytes t m bs (n + 1) (Tbl.put 0 l b (xs.getD (Config.choose n % xs.length) 0))

/-- Replaces the MMA of a number. -/
def setMma (c : Ctx) (m : Mma) : Ctx := { c with mmas := c.mmas.map fun x => if x.seq = m.seq then m else x }

/-- The first MMA of a context whose gather has ended by a cycle. -/
def gatherEnded (now : Nat) (c : Ctx) : Option Mma :=
  c.mmas.find? fun m => match m.st with | .gathering d => decide (d ≤ now) | _ => false

/-- The team that holds a context. -/
def homeTeam (s : State) (c : Ctx) : Team := match c.home with | some (k, tx) => getTeam s k tx | none => {}

/-- The cycle count of a pair's cores. -/
def pairCyc (s : State) (pair : Nat) : Nat := cyc s (2 * pair)

/-- MMA_GATHER_DONE (R286, R287). -/
def execMmaGatherDone (pair ctx : Nat) (s : State) : Host.Outcome State Fault Refusal :=
  .next (
    let c := getCtx s pair ctx
    match gatherEnded (pairCyc s pair) c with
    | none => s
    | some m =>
      let r := gatherBytes (homeTeam s c) m (spanBytes m.spans) s.freeNo []
      { modCtx s pair ctx fun c => setMma c { m with st := .gathered, latch := r.1 } with freeNo := r.2 })

/-- The MMA of a context that captures next, where its gather has ended by a cycle (R287). -/
def captureHead (now : Nat) (c : Ctx) : Option Mma :=
  match c.mmas.find? fun m => match m.st with | .gathering _ | .gathered => true | _ => false with
  | some m => (match m.st with
    | .gathered => some m
    | .gathering d => if d ≤ now then some m else none
    | _ => none)
  | none => none

/-- The other context of a pair. -/
def otherCtx (n : Nat) : Nat := 1 - n

/-- Whether a context may start a capture: its head has been gathered, the arrays are free, and the other context does not go first (R287) (log entry 50). -/
def canCapture (now : Nat) (u : PairUnit) (n : Nat) : Option Mma :=
  if now < u.arraysFree then none
  else match captureHead now (ctxAt u n) with
    | some m =>
      if m.st = .gathered && !(u.lastCapture == n && (captureHead now (ctxAt u (otherCtx n))).isSome) then some m else none
    | none => none

/-- MMA_CAPTURE_START (R287). -/
def execMmaCaptureStart (pair ctx : Nat) (s : State) : Host.Outcome State Fault Refusal :=
  .next (
    let now := pairCyc s pair
    match canCapture now (getPair s pair) ctx with
    | none => s
    | some m =>
      let s := modCtx s pair ctx fun c => setMma c { m with st := .capturing (now + 8) (now + 24) }
      modPair s pair fun u => { u with arraysFree := now + 8, lastCapture := ctx })

/-- The MMA whose capture has ended by a cycle. -/
def captureEnded (now : Nat) (c : Ctx) : Option (Mma × Nat) :=
  c.mmas.findSome? fun m => match m.st with | .capturing d r => if d ≤ now then some (m, r) else none | _ => none

/-- MMA_CAPTURE_END: the latch is free again (R287). -/
def execMmaCaptureEnd (pair ctx : Nat) (s : State) : Host.Outcome State Fault Refusal :=
  .next (match captureEnded (pairCyc s pair) (getCtx s pair ctx) with
    | some (m, r) => modCtx s pair ctx fun c => setMma c { m with st := .captured r }
    | none => s)

/-- The chunk length of a pairing (R106). -/
def chunkLen (a b : RsvRec) : Nat := if a.width = 16 then 8 else min 32 (min a.block b.block)

/-- A line cut into chunks: the elements of each and its scale (R105, R106). -/
def lineChunks (r : RsvRec) (rd : Nat → Byte) (q k0 k ch : Nat) : List (List Num × Num) :=
  (List.range (k / ch)).map fun c =>
    ((List.range ch).map fun i => r.value (r.code rd (q * r.lineLen + k0 + c * ch + i)), r.scale rd q (k0 + c * ch))

/-- The exact, scaled sum of one chunk (R106) (log entry 46). -/
def chunkSum (a b : List Num × Num) : Num :=
  match (sumNum .rn ((List.zipWith Num.mul a.1 b.1).map (·.1))).1, a.2, b.2 with
  | .fin neg m e, .fin _ _ x, .fin _ _ y => .fin (neg && m != 0) m (e + x + y)
  | .inf neg, .fin _ _ _, .fin _ _ _ => .inf neg
  | _, _, _ => .nan false

/-- One accumulation: one rounding to nearest even (R106). -/
def accStep (acc : Word) (x : Num) : Word := bitsR (FFmt.f32.sumOf .rn false [] [FFmt.f32.num acc.toNat, x])

/-- An element of D after an MMA's chunks, in ascending k (R106). -/
def accumulate (acc : Word) (a b : List (List Num × Num)) : Word := (List.zipWith chunkSum a b).foldl accStep acc

/-- The tile after an MMA's accumulation; elements that use an undefined operand byte take free values (R278, R296). -/
def mmaResult (m : Mma) (free : Nat) (old : Tbl Word) : Tbl Word :=
  let rd := fun (b : Nat) => Tbl.get 0 m.latch b
  let ch := chunkLen m.recA m.recB
  let a := m.rows.map fun q => lineChunks m.recA rd q m.ak m.k ch
  let b := (bLines m.bcol).map fun q => lineChunks m.recB rd q m.bk m.k ch
  let t := (List.range 2048).filterMap fun n =>
    let x := accumulate (Tbl.get 0 old n) (a.getD (n / 32) []) (b.getD (n % 32) [])
    if x = 0 then none else some (n, x)
  freeElems t free (m.undefined m.dirty ++ m.blurred)

/-- Whether a half of a drain has read its rows by a cycle (R316). -/
def halfRead (now : Nat) : HalfSt → Bool
  | .running st => decide (st + 32 ≤ now)
  | .done => true
  | _ => false

/-- Whether every drain of a pair issued before `seq` has read it (R289). -/
def drainsRead (now : Nat) (c : Ctx) (p seq : Nat) : Bool :=
  c.drains.all fun d => d.pair != p || decide (seq ≤ d.seq) || (halfRead now d.half0 && halfRead now d.half1)

/-- Whether every MMA to a pair issued before `seq` has retired: the per-tile interlock (R289). -/
def interlock (c : Ctx) (p seq : Nat) : Bool := c.mmas.all fun m => m.pair != p || decide (seq ≤ m.seq) || m.st == .retired

/-- Whether no TSET, and with `reads` no TMOV, of a pair issued before `seq` is still to act (R289). -/
def opsDone (c : Ctx) (p seq : Nat) (reads : Bool) : Bool :=
  c.ops.all fun o => o.pair != p || decide (seq ≤ o.seq) || (!reads && o.set.isNone)

/-- The first MMA that may retire by a cycle (R287, R289) (log entry 48). -/
def canRetire (now : Nat) (c : Ctx) : Option Mma :=
  c.mmas.find? fun m => match m.st with
    | .captured r => decide (r ≤ now) && interlock c m.pair m.seq && opsDone c m.pair m.seq true && drainsRead now c m.pair m.seq
    | _ => false

/-- The MMAs that are still outstanding: not retired, or with no MMAW completed since (R278). -/
def outstanding (ms : List Mma) : List Mma := ms.filter fun m => !(m.waited && m.st == .retired)

/-- MMA_RETIRE (R106, R287, R296). -/
def execMmaRetire (pair ctx : Nat) (s : State) : Host.Outcome State Fault Refusal :=
  .next (match canRetire (pairCyc s pair) (getCtx s pair ctx) with
    | none => s
    | some m =>
      let free := s.freeNo
      let s := modCtx s pair ctx fun c =>
        let c := modTile (setMma c { m with st := .retired, latch := [] }) m.pair (mmaResult m free)
        { c with mmas := outstanding c.mmas }
      { s with freeNo := s.freeNo + 2048 })

/-! ## MMAW (R297) -/

/-- Whether every MMA of a group has ended capture. -/
def mmawDone (c : Ctx) (g : Nat) : Bool := c.mmas.all fun m => m.group != g || m.captured

/-- An MMAW of a group completes: later writes of the operand buffer no longer affect its MMAs (R278). -/
def mmawMark (c : Ctx) (g : Nat) : Ctx :=
  { c with mmas := outstanding (c.mmas.map fun m => if m.group = g then { m with waited := true } else m) }

/-- MMAW: the group is not ready until every MMA that it has issued has ended capture (R297). -/
def execMmaw (g : Guard) (s : State) : Host.Outcome State Fault Refusal :=
  .next (groupWord s g fun act =>
    if mmawDone (curCtx s) s.cur.group then advance (onCtx s fun c => mmawMark c s.cur.group) else curWait s act .mmaw)

/-- MMAW_COMPLETE (R297). -/
def execMmawComplete (core tx g : Nat) (s : State) : Host.Outcome State Fault Refusal :=
  .next (
    let t := getTeam s core tx
    match (groupAt t g).wait with
    | some w =>
      if w.kind = .mmaw && mmawDone (getCtx s (pairOf core) (ctxNo t)) g then
        endWait (modCtx s (pairOf core) (ctxNo t) fun c => mmawMark c g) core tx g
      else s
    | none => s)

/-! ## TMOV, TSET and TZERO (R298, R299) -/

/-- The lanes that only shift their last-result file and go on. -/
def idleAdvance (s : State) (d : Spec) (ls : List Nat) : State :=
  let next := curNext s
  onGroup s fun grp => modLanes grp ls fun _ ln => { idleLane false d ln with pc := next }

/-- TMOV: the shift happens at issue, and the row is read after the interlock (R299). -/
def execTmov (g : Guard) (d tile : Spec) (row : BitVec 5) (s : State) : Host.Outcome State Fault Refusal :=
  .next (
    let grp := curGroup s
    match active s g with
    | [] => idleAdvance s d (subLanes s)
    | act =>
      match tileName grp tile >>= mapped (curCtx s) with
      | none => trapAll (idleAdvance s d ((subLanes s).filter fun l => !act.contains l)) act ⟨.bounds, 0, 0, 0⟩
      | some p =>
        let tag := (curCore s).remoteNo + 1
        let s := onCore s fun c => { c with remoteNo := tag }
        let s := onCtx s fun c => { c with
          seq := c.seq + 1,
          ops := c.ops ++ [{ seq := c.seq + 1, group := s.cur.group, pair := p, row := row.toNat, set := none, dst := d,
                             lanes := act.map fun l => (l, (laneAt grp l).ysh + 1), tag := tag }] }
        let s := idleAdvance s d (subLanes s)
        onGroup s fun grp => { grp with pend := grp.pend ++ pendTagged d 1 (maskOf act) tag })

/-- Whether a TMOV or TSET may act (R289). -/
def opReady (now : Nat) (c : Ctx) (o : TileOp) : Bool :=
  interlock c o.pair o.seq && opsDone c o.pair o.seq o.set.isSome && (o.set.isNone || drainsRead now c o.pair o.seq)

/-- The pending entries of an access become ready at a cycle. -/
def readyPends (tag ready : Nat) (g : Group) : Group := { g with pend := g.pend.map fun p => if p.tag = tag then { p with ready := some ready } else p }

/-- TMOV_READ: each lane receives its element, ready 6 cycles later (R299). -/
def execTmovRead (pair ctx i : Nat) (s : State) : Host.Outcome State Fault Refusal :=
  .next (
    let c := getCtx s pair ctx
    let now := pairCyc s pair
    match c.ops[i]?, c.home with
    | some o, some (k, tx) =>
      if o.set.isNone && opReady now c o then
        let t := tileOfPair c o.pair
        let s := modCtx s pair ctx fun c => { c with ops := c.ops.eraseIdx i }
        modGroup s k tx o.group fun g =>
          let g := modLanes g (o.lanes.map (·.1)) fun l ln =>
            let x := Tbl.get 0 t (elemKey o.row l)
            match o.lanes.find? fun e => e.1 == l with
            | some e => writeYAt (writeSpec ln o.dst x) e.2 x
            | none => ln
          readyPends o.tag (now + 6) g
      else s
    | _, _ => s)

/-- TSET: the values are read at issue, and written after the interlock (R299). -/
def execTset (g : Guard) (tile a : Spec) (row : BitVec 5) (s : State) : Host.Outcome State Fault Refusal :=
  .next (groupWord s g fun act =>
    let grp := curGroup s
    let tv := tileName grp tile
    if noPair (curCtx s) tv false then s
    else
      match tv with
      | none => trapActive s act ⟨.bounds, 0, 0, 0⟩
      | some tv =>
        let tag := (curCore s).remoteNo + 1
        let s := onCore s fun c => { c with remoteNo := tag }
        let s := onCtx s fun c =>
          let (c, p) := denote c tv false
          { c with
            seq := c.seq + 1,
            ops := c.ops ++ [{ seq := c.seq + 1, group := s.cur.group, pair := p, row := row.toNat,
                               set := some (act.map fun l => (l, readSpec grp l a)), dst := .zero, lanes := [], tag := tag }] }
        advance (onGroup s fun grp => { grp with pend := grp.pend ++ [⟨.t tv, none, maskOf act, tag⟩] }))

/-- TSET_WRITE: the tile's name is free for other words 4 cycles later (R299, R300). -/
def execTsetWrite (pair ctx i : Nat) (s : State) : Host.Outcome State Fault Refusal :=
  .next (
    let c := getCtx s pair ctx
    let now := pairCyc s pair
    match c.ops[i]? with
    | some o =>
      match o.set with
      | some vs =>
        if opReady now c o then
          let s := modCtx s pair ctx fun c =>
            modTile (markSet { c with ops := c.ops.eraseIdx i } o.pair (vs.map fun e => elemKey o.row e.1)) o.pair fun t =>
              vs.foldl (fun t e => Tbl.put 0 t (elemKey o.row e.1) e.2) t
          match c.home with
          | some (k, tx) => modGroup s k tx o.group (readyPends o.tag (now + 4))
          | none => s
        else s
      | none => s
    | none => s)

/-- TZERO (R291, R299). -/
def execTzero (g : Guard) (tile : Spec) (s : State) : Host.Outcome State Fault Refusal :=
  .next (groupWord s g fun act =>
    let tv := tileName (curGroup s) tile
    if noPair (curCtx s) tv true then s
    else
      match tv with
      | none => trapActive s act ⟨.bounds, 0, 0, 0⟩
      | some tv => advance (onCtx s fun c => { (denote c tv true).1 with seq := c.seq + 1 }))

end Sys2Proof.Machine
end

