-- ==== Sys2Proof/Machine/Drain.lean ====
section
/-! DEFINITION. Drains: DRAIN, DRAINW and DPLD, the start of a half, the commit of a row, faults and their resumption (R305 to R328). -/
namespace Sys2Proof.Machine

/-! ## Halves and pipelines (R316, R317) -/

/-- A half of a drain, 0 for the home core's and 1 for the follower's, and its first uncommitted row. -/
def Drain.half (d : Drain) (h : Nat) : HalfSt := if h = 0 then d.half0 else d.half1
def Drain.next (d : Drain) (h : Nat) : Nat := if h = 0 then d.next0 else d.next1
def Drain.setHalf (d : Drain) (h : Nat) (x : HalfSt) : Drain := if h = 0 then { d with half0 := x } else { d with half1 := x }
def Drain.setNext (d : Drain) (h n : Nat) : Drain := if h = 0 then { d with next0 := n } else { d with next1 := n }

/-- Whether a half has committed its last row. -/
def HalfSt.isDone : HalfSt → Bool
  | .done => true
  | _ => false

/-- Whether a drain has committed its last row on both halves. -/
def Drain.finished (d : Drain) : Bool := d.half0.isDone && d.half1.isDone

/-- Changes the drain of a number; a drain that is over leaves its context. -/
def modDrain (c : Ctx) (seq : Nat) (f : Drain → Drain) : Ctx :=
  { c with drains := (c.drains.map fun d => if d.seq = seq then f d else d).filter fun d => !d.finished }

/-- The home core of a context. -/
def homeCore (c : Ctx) : Nat := match c.home with | some (k, _) => k | none => 0

/-- Whether a half runs on the pipeline of the pair's odd core. -/
def onOdd (c : Ctx) (h : Nat) : Bool := (homeCore c + h) % 2 == 1

def pipeOf (u : PairUnit) (odd : Bool) : DrainPipe := if odd then u.pipe1 else u.pipe0
def setPipe (u : PairUnit) (odd : Bool) (p : DrainPipe) : PairUnit := if odd then { u with pipe1 := p } else { u with pipe0 := p }

/-- The image that a drain runs, or will copy when it starts (R317). -/
def drainProgram (s : State) (c : Ctx) (d : Drain) : List Word :=
  match d.image with
  | some i => i.words
  | none => (progImage (getCore s (homeCore c)) (homeTeam s c) d.prog).getD []

/-- The length n of a program (R314). -/
def programLen (img : List Word) : Nat := (body img).length

/-- Whether a half's last commit comes before a cycle. -/
def halfBefore (h : HalfSt) (n first : Nat) : Bool :=
  match h with
  | .done => true
  | .running st => decide (st + 31 + n + 16 < first)
  | _ => false

/-- Whether every earlier drain of the same pair commits before a drain would that starts now (R280, R322) (log entry 47). -/
def earlierDone (s : State) (now : Nat) (c : Ctx) (d : Drain) : Bool :=
  let first := now + programLen (drainProgram s c d) + 16
  c.drains.all fun e => e.pair != d.pair || decide (d.seq ≤ e.seq) ||
    (let n := programLen (drainProgram s c e); halfBefore e.half0 n first && halfBefore e.half1 n first)

/-- Whether a half waits for its start with every earlier drain of its context started on that half, or is resumed (R317, R322). -/
def halfQueued (c : Ctx) (h : Nat) (d : Drain) : Bool :=
  match d.half h with
  | .resumed => true
  | .waiting => c.drains.all fun e => decide (d.seq ≤ e.seq) || e.half h != .waiting
  | _ => false

/-- Whether an MMA that has not retired waits for a drain's read of its pair: a save lets the MMA retire, and the drain read, first (R289, R302). -/
def mmaWaitsFor (c : Ctx) (d : Drain) : Bool := c.mmas.any fun m => m.pair == d.pair && decide (d.seq < m.seq) && m.st != .retired

/-- Whether a drain still starts while its team has stopped: an MMA that has not retired waits for it, or for a later one, before which it must start
(R302, R317). -/
def owedToSave (c : Ctx) (d : Drain) : Bool := c.drains.any fun e => decide (d.seq ≤ e.seq) && mmaWaitsFor c e

/-- The drain of a context whose half may start now, but for the pipeline (R289, R302, R317). -/
def halfReady (s : State) (now : Nat) (c : Ctx) (h : Nat) : Option Drain :=
  let halt := (homeTeam s c).stopped
  c.drains.find? fun d =>
    (!halt || owedToSave c d) && halfQueued c h d && interlock c d.pair d.seq && opsDone c d.pair d.seq false && earlierDone s now c d

/-- The half of the other context that uses the same pipeline. -/
def rivalHalf (c o : Ctx) (h : Nat) : Nat := if onOdd o h == onOdd c h then h else 1 - h

/-- The drain that starts a half now: its pipeline is free, and the other context does not go first (R317). -/
def canStart (s : State) (pair n h : Nat) : Option Drain :=
  let u := getPair s pair
  let c := ctxAt u n
  let o := ctxAt u (otherCtx n)
  let now := pairCyc s pair
  let p := pipeOf u (onOdd c h)
  if now < p.free || (p.last == n && (halfReady s now o (rivalHalf c o h)).isSome) then none else halfReady s now c h

/-! ## Faults (R321, R322) -/

/-- The trap record of a faulted drain. -/
def drainRecord (s : State) (k tx : Nat) (d : Drain) (detail row : Nat) : TrapRec :=
  { tick := tick s, aux := BitVec.ofNat 32 row, mask := 0, pc := d.pc, detail := detail, code := .drain, pslot := 0,
    group := d.group, teamx := tx, core := k,
    qid := match teamGrid s (getTeam s k tx) with | some g => g.qid | none => 0,
    drain := some d.seq, islot := (getGroup s k tx d.group).slot }

/-- Whether debugging is enabled for a team's launch (R322, R338). -/
def debugOf (s : State) (k tx : Nat) : Bool := match teamGrid s (getTeam s k tx) with | some g => g.descr.debug | none => false

/-- Whether a record is a drain's that no lane has parked under. -/
def unparked (tx g : Nat) (r : Option TrapRec) : Bool :=
  match r with
  | some r => r.code == .drain && r.teamx == tx && r.group == g && r.mask == 0
  | none => false

/-- The index of the first record of a faulted drain of a group that no lane has parked under (R322). -/
def heldRecord (c : Core) (tx g : Nat) : Option Nat := (List.range 512).find? fun i => unparked tx g (Tbl.get none c.traps i)

/-- Lanes park under a drain's record: no second record is written (R322). -/
def parkUnder (s : State) (k tx g i : Nat) (ls : List Nat) : State :=
  let s := modGroup s k tx g fun grp => modLanes grp ls fun _ ln => { ln with st := .parked }
  modCore s k fun c => { c with traps := c.traps.map fun e =>
    if e.1 = i then (e.1, e.2.map fun r => { r with mask := maskOf ls }) else e }

/-- Where debugging is enabled and the issuing group already waits in a DRAINW, the lanes of that DRAINW park at once (R322). -/
def parkWaiting (s : State) (k tx g : Nat) : State :=
  match (getGroup s k tx g).wait, heldRecord (getCore s k) tx g with
  | some w, some i =>
    (match w.kind with
    | .drainw _ =>
      if debugOf s k tx then
        let next := nextPc (teamText s (getTeam s k tx)) w.pc w.len
        let s := modGroup s k tx g fun x => setPc { x with wait := none } (lanesOf (w.sub &&& ~~~w.mask)) next
        parkUnder s k tx g i (lanesOf w.mask)
      else s
    | _ => s)
  | _, _ => s

/-- A half that is not over stops (R322). -/
def HalfSt.stop : HalfSt → HalfSt
  | .done => .done
  | _ => .stopped

/-- Whether the group of a drain can take the record of a fault (R384). -/
def drainRoom (s : State) (c : Ctx) (d : Drain) : Bool := match c.home with | some (k, tx) => trapRoom s k tx d.group | none => true

/-- The surroundings of a row of a drain (log entry 45). -/
def rowEnv (s : State) (c : Ctx) (d : Drain) (i : DrainImage) (row : Nat) : RowEnv :=
  let t := homeTeam s c
  let de := match teamDescr s t with | some d => (descrWS d, d.fpen) | none => (0, 0)
  { img := i.words, tables := i.tables, row := row, sb := d.sb, sc := d.sc, rpitch := d.rpitch, cpitch := d.cpitch,
    copies := d.copies, ob := t.ob, dirty := d.dirty, ws := de.1, fpen := de.2, free := s.freeNo }

/-- The block maxima that a running half has formed for its next row by a cycle: a row passes one micro-op in each cycle (R316, R323). -/
def formedMaxima (s : State) (c : Ctx) (d : Drain) (h now : Nat) : List Word :=
  match d.half h, d.image with
  | .running st, some im =>
    let row := 32 * h + d.next h
    rowMaxima (now + 1 - (st + d.next h)) (rowEnv s c d im row) ((List.range 32).map fun j => Tbl.get 0 im.tile (elemKey row j))
  | _, _ => if h = 0 then d.pbmax0 else d.pbmax1

/-- A drain with PBMAX as it stands when its halves stop (R323). -/
def Drain.withMaxima (s : State) (c : Ctx) (now : Nat) (d : Drain) : Drain :=
  { d with pbmax0 := formedMaxima s c d 0 now, pbmax1 := formedMaxima s c d 1 now }

/-- A drain faults in a tile row (R322). -/
def failDrain (s : State) (pair n : Nat) (d : Drain) (detail row : Nat) : State :=
  match (getCtx s pair n).home with
  | none => s
  | some (k, tx) =>
    let m := d.withMaxima s (getCtx s pair n) (pairCyc s pair)
    let s := modCtx s pair n fun c => modDrain c d.seq fun d => { d with pbmax0 := m.pbmax0, pbmax1 := m.pbmax1, fault := some detail, half0 := d.half0.stop, half1 := d.half1.stop }
    parkWaiting (pushTrap s k (drainRecord s k tx d detail row)) k tx d.group

/-- A stopped half waits for its pipeline again (R322). -/
def HalfSt.resume : HalfSt → HalfSt
  | .stopped => .resumed
  | h => h

/-- REPLAY of a drain's record (R322): each half restarts at its next row. -/
def resumeDrain (c : Ctx) (seq : Nat) : Ctx :=
  modDrain c seq fun d => { d with fault := none, half0 := d.half0.resume, half1 := d.half1.resume }

/-- SKIP and END of a drain's record (R322): the drain commits no further row. -/
def abandonDrain (c : Ctx) (seq : Nat) : Ctx := { c with drains := c.drains.filter fun d => d.seq != seq }

/-! ## The start of a half and the commit of a row (R316, R317) -/

/-- The image that a drain copies when it starts: its program, any MLUT table, and the tile that it reads (R317). -/
def copyImage (s : State) (c : Ctx) (d : Drain) : DrainImage :=
  let img := drainProgram s c d
  let tabs := ((body img).filter fun w => uOp w == 9).map fun w => bitsOf w 18 5
  { words := img,
    tables := tabs.eraseDups.map fun p => (p, (progImage (getCore s (homeCore c)) (homeTeam s c) p).getD []),
    tile := tileOfPair c d.pair }

/-- Whether a number is a program of a team's kernel (R305) (log entry 53). -/
def programDefined (t : Team) (p : Nat) : Bool := Tbl.get 0 t.slots p != 0

/-- DRAIN_HALF_START (R317, R321). -/
def execDrainHalfStart (pair ctx half : Nat) (s : State) : Host.Outcome State Fault Refusal :=
  .next (match canStart s pair ctx half with
    | none => s
    | some d =>
      let c := getCtx s pair ctx
      let now := pairCyc s pair
      let img := (d.image).getD (copyImage s c d)
      let legal := programLegal img.words (programDefined (homeTeam s c))
      if !legal && !(drainRoom s c d) then s
      else
      let s := modPair s pair fun u => setPipe u (onOdd c half) { free := now + 32, last := ctx }
      let s := modCtx s pair ctx fun c => modDrain c d.seq fun d =>
        { d.setHalf half (.running (now - d.next half)) with image := some img }
      if legal then s
      else failDrain s pair ctx d 4 (32 * half + d.next half))

/-- Performs the stores of a row in order (R324). -/
def performStores (s : State) (k tx : Nat) (l : List RowStore) : State := l.foldl (fun s r => localWrite s k tx r.ob r.at_ r.bytes) s

/-- The row of a half that is due to commit, with the image of its drain: in cycle S + ρ + n + 16, and after the last store of every earlier drain of the
pair (R280, R316, R322). -/
def commitDue (now : Nat) (c : Ctx) (d : Drain) (h : Nat) : Option DrainImage :=
  match d.half h, d.image with
  | .running st, some i => if st + d.next h + programLen i.words + 16 ≤ now && pairClear c d then some i else none
  | _, _ => none

/-- A half after the commit of a row in cycle `now`: over after row 31; a half that has been held back goes on with one row in a cycle (R316, R322). -/
def Drain.committed (d : Drain) (h now : Nat) (n : Nat) : Drain :=
  let d := d.setNext h (d.next h + 1)
  if 32 ≤ d.next h then d.setHalf h .done
  else match d.half h with
    | .running st => d.setHalf h (.running (max st (now + 1 - (d.next h + n + 16))))
    | _ => d

/-- DRAIN_ROW_COMMIT: either all of a row's stores are performed, or none is (R316, R321, R322); a store that comes from a byte which the row itself writes is
undefined (R324). -/
def execDrainRowCommit (pair ctx half i : Nat) (s : State) : Host.Outcome State Fault Refusal :=
  .next (
    let c := getCtx s pair ctx
    match c.drains[i]?, c.home with
    | some d, some (k, tx) =>
      match commitDue (pairCyc s pair) c d half with
      | none => s
      | some im =>
        let row := 32 * half + d.next half
        let x := (List.range 32).map fun j => Tbl.get 0 im.tile (elemKey row j)
        match rowStores (rowEnv s c d im row) x with
        | .error detail => if !(drainRoom s c d) then s else failDrain s pair ctx d detail row
        | .ok out =>
          let s := performStores { s with freeNo := s.freeNo + 512 } k tx out
          let own := taintedStores (madeEnv { d with image := some im } row) (obBytes out) out
          let free := s.freeNo
          let s := { modTeam s k tx (fun t => own.zipIdx.foldl (fun t x => undoStore t (free + x.2) x.1) t) with freeNo := free + own.length }
          let stop := (getTeam s k tx).stopped && !(mmaWaitsFor c d)
          let n := programLen im.words
          let now := pairCyc s pair
          let d' := { d with made := d.made ++ [(row, out)] }.committed half now n
          let d' := if stop && !(d'.half half).isDone then (d'.withMaxima s c now).setHalf half .stopped else d'
          modCtx s pair ctx fun c => modDrain c d.seq fun _ => d'
    | _, _ => s)

/-! ## DRAIN (R318) -/

/-- A uniform reservation id, none for the zero code (R79, R318). -/
def optRid (grp : Group) (sp : Spec) : Option Nat := if sp = .zero then none else some (uval grp sp).toNat

/-- Whether DRAIN's base and reservation id lie in the ranges of their fields: 21 bits (R323), and 0 to 15 (R68). -/
def drainRanges (sb : Nat) (sc : Option Nat) : Bool := decide (sb < 2 ^ 21) && sc.all fun r => decide (r ≤ 15)

/-- DRAIN queues a drain of a tile, after the checks of its operands' ranges, its tile, program and reservation (R68, R318, R319) (log entry 132). -/
def execDrain (g : Guard) (tile sb rid : Spec) (e : DrainExt) (s : State) : Host.Outcome State Fault Refusal :=
  .next (groupWord s g fun act =>
    let grp := curGroup s
    let c := curCtx s
    let sc := optRid grp rid
    let base := (uval grp sb).toNat
    match tileName grp tile with
    | none => trapActive s act ⟨.bounds, 0, 0, 0⟩
    | some tv =>
      if !(drainRanges base sc) then trapActive s act ⟨.bounds, 0, 0, 0⟩
      else match mapped c tv, entryCopies (curCore s) (curTeam s) (curNR s) e.dprog.val sc with
      | some p, some cs =>
        advance (onCtx s fun c => queueDrain (if e.keep then c else unmap c tv)
          { seq := 0, group := s.cur.group, pc := s.cur.pc, pair := p, prog := e.dprog.val, sb := base, sc := sc,
            rpitch := e.rpitch.toNat, cpitch := e.cpitch.toNat, keep := e.keep, copies := cs })
      | _, _ => trapActive s act ⟨.bounds, 0, 0, 0⟩)

/-! ## DRAINW (R320, R322) -/

/-- Whether every drain queued before a number has committed its last row on both halves. -/
def drainsDone (c : Ctx) (before : Nat) : Bool := c.drains.all fun d => decide (before < d.seq)

/-- DRAINW; where debugging is enabled and a drain of the group is held, its lanes park here (R322). -/
def execDrainw (g : Guard) (s : State) : Host.Outcome State Fault Refusal :=
  .next (groupWord s g fun act =>
    let c := curCtx s
    match (if debugOf s s.cur.core s.cur.tx then heldRecord (curCore s) s.cur.tx s.cur.group else none) with
    | some i =>
      let next := curNext s
      let rest := (subLanes s).filter fun l => !act.contains l
      parkUnder (onGroup s fun grp => setPc grp rest next) s.cur.core s.cur.tx s.cur.group i act
    | none => if drainsDone c c.seq then advance s else curWait s act (.drainw c.seq))

/-- DRAINW_COMPLETE (R320). -/
def execDrainwComplete (core tx g : Nat) (s : State) : Host.Outcome State Fault Refusal :=
  .next (
    let t := getTeam s core tx
    match (groupAt t g).wait with
    | some w =>
      (match w.kind with
      | .drainw n => if drainsDone (getCtx s (pairOf core) (ctxNo t)) n then endWait s core tx g else s
      | _ => s)
    | none => s)

/-! ## DPLD (R307) -/

/-- DPLD's checks. -/
def dpldCheck (t : Team) (ws prog addr : Nat) : Option Cause :=
  if !programDefined t prog then some ⟨.bounds, 0, 0, 0⟩
  else if addr % 16 ≠ 0 then some (addrCause .misalign (some addr))
  else if ws < addr + 128 then some (addrCause .bounds (some addr))
  else none

/-- Whether every drain of a program queued up to a number has started: its first half has (R306, R307) (log entry 144). -/
def programStarted (c : Ctx) (prog before : Nat) : Bool :=
  c.drains.all fun d => d.prog != prog || decide (before < d.seq) || d.image.isSome

/-- The 32 words of an image in a scratchpad (R306). -/
def imageAt (m : Tbl Byte) (addr : Nat) : List Word := (List.range 32).map fun i => BitVec.ofNat 32 (readBytes m (addr + 4 * i) 4)

/-- Writes a slot of the drain store from the team's scratchpad. -/
def loadSlot (s : State) (k tx prog addr : Nat) : State :=
  let t := getTeam s k tx
  let slot := Tbl.get 0 t.slots prog - 1
  modCore s k fun c => { c with drainStore := Tbl.set c.drainStore slot (imageAt t.sp addr) }

/-- DPLD loads a slot of the drain store, once no queued drain of the program has yet to start (R306). -/
def execDpld (g : Guard) (prog addr : Spec) (s : State) : Host.Outcome State Fault Refusal :=
  .next (groupWord s g fun act =>
    let p := (curU s prog).toNat
    let a := (curU s addr).toNat
    let c := curCtx s
    match dpldCheck (curTeam s) (curWS s) p a with
    | some cause => trapActive s act cause
    | none =>
      if programStarted c p c.seq then advance (loadSlot s s.cur.core s.cur.tx p a) else curWait s act (.dpld p a c.seq))

/-- DPLD_SLOT_WRITE (R307). -/
def execDpldSlotWrite (core tx g : Nat) (s : State) : Host.Outcome State Fault Refusal :=
  .next (
    let t := getTeam s core tx
    match (groupAt t g).wait with
    | some w =>
      (match w.kind with
      | .dpld p a n =>
        if programStarted (getCtx s (pairOf core) (ctxNo t)) p n then endWait (loadSlot s core tx p a) core tx g else s
      | _ => s)
    | none => s)

end Sys2Proof.Machine
end

