-- ==== Sys2Proof/Machine/System.lean ====
section
/-! DEFINITION. The system words: special registers and the return from a trap record (R51, R52, R389 to R391). -/
namespace Sys2Proof.Machine

/-! ## Special registers (R51, R52) -/

/-- Whether a number is one of the firmware agent's (R51). -/
def firmwareNumber (n : Nat) : Bool := decide (0x100 ≤ n) && decide (n ≤ 0x3FF)

/-- The value of a kernel's special register in lane `l` of the issuing group; none for an unassigned number (R51). -/
def sregValue (s : State) (n l : Nat) : Option Word :=
  let t := curTeam s
  let grp := curGroup s
  let ln := laneAt grp l
  match n with
  | 0 => some (BitVec.ofNat 32 l)
  | 1 => some (BitVec.ofNat 32 s.cur.group)
  | 2 => some (BitVec.ofNat 32 grp.role)
  | 3 => some (BitVec.ofNat 32 t.index)
  | 4 => some (BitVec.ofNat 32 s.cur.core)
  | 5 => some (BitVec.ofNat 32 (clusterOnDie s.cur.core))
  | 6 => some (BitVec.ofNat 32 (dieOf s.cur.core))
  | 7 => some t.stile
  | 8 => some (match curGrid s with | some g => g.qid.setWidth 32 | none => 0)
  | 9 => some (match ln.meet with | some m => BitVec.ofNat 32 m | none => 0xFFFFFFFF)
  | 10 => some ln.flags
  | 11 => some (BitVec.ofNat 32 grp.budget)
  | _ => none

/-- The value that SREAD reads, or why it traps: PRIV for a firmware number in a kernel, ILLEGAL for an unassigned number (R52). -/
def sreadLane (s : State) (n l : Nat) : Except Cause Word :=
  if firmwareNumber n then
    if inAgent s then .ok (Tbl.get 0 (curCore s).fwRegs n) else .error ⟨.priv, 0, 0, 0⟩
  else match sregValue s n l with
    | some x => .ok x
    | none => .error ⟨.illegal, 7, 0, 0⟩

/-- SREAD; a g destination takes the value of the register for the group (R52). -/
def execSread (g : Guard) (d : Spec) (num : BitVec 11) (s : State) : Host.Outcome State Fault Refusal :=
  .next (match d with
    | .g _ => groupWord s g fun act =>
      match sreadLane s num.toNat (act.headD 0) with
      | .ok x => advance (onGroup s fun grp => writeG grp d x)
      | .error c => trapActive s act c
    | _ => laneWord s fun _ l ln =>
      if guardIn g ln then (sreadLane s num.toNat l).map fun x => shiftY (writeSpec ln d x) x else .ok (shiftY ln (heldIn ln d)))

/-- SWRITE: S_FPFLAGS of each lane of `active`; a firmware number for the agent; PRIV for a read-only number (R52) (log entry 9). -/
def execSwrite (g : Guard) (num : BitVec 11) (a : Spec) (s : State) : Host.Outcome State Fault Refusal :=
  .next (
    if num = 10 then
      laneWord s fun grp l ln => .ok (if guardIn g ln then { ln with flags := Flags.written (readSpec grp l a) } else ln)
    else if firmwareNumber num.toNat && inAgent s then
      groupWord s g fun act =>
        let x := readSpec (curGroup s) (act.getLastD 0) a
        advance (onCore s fun c => { c with fwRegs := Tbl.put 0 c.fwRegs num.toNat x })
    else if firmwareNumber num.toNat || (sregValue s num.toNat 0).isSome then
      groupWord s g fun act => trapActive s act ⟨.priv, 0, 0, 0⟩
    else groupWord s g fun act => trapActive s act ⟨.illegal, 7, 0, 0⟩)

/-! ## RETT (R389 to R391) -/

/-- The length in bytes of the word whose first parcel is `p` (R58). -/
def wordLen (p : Word) : Nat :=
  match p.toNat % 4 with
  | 0 => 8
  | 1 => 12
  | 2 => 16
  | _ => 4

/-- The record of an index of a core's trap table. -/
def trapOf (c : Core) (i : Nat) : Option TrapRec := if i < 512 then Tbl.get none c.traps i else none

/-- The lanes of a record after RETT; the word they parked at is the one at their PC (R390, R322). -/
def returnLanes (s : State) (k : Nat) (r : TrapRec) (act : RettAct) : State :=
  let text := teamText s (getTeam s k r.teamx)
  modGroup s k r.teamx r.group fun g => modLanes g (lanesOf r.mask) fun _ ln =>
    returnLane act r (nextPc text ln.pc (wordLen (parcelAt text ln.pc))) ln

/-- What RETT does to the drain of a DRAIN record (R390). -/
def returnDrain (s : State) (k : Nat) (r : TrapRec) (act : RettAct) : State :=
  match r.drain, (getTeam s k r.teamx).ctx with
  | some seq, some n =>
    modCtx s (pairOf k) n fun c => match act with
      | .replay => resumeDrain c seq
      | _ => abandonDrain c seq
  | _, _ => s

/-- RETT on a record of a core (R390). -/
def returnRecord (s : State) (k i : Nat) (r : TrapRec) (act : RettAct) : State :=
  let s := returnDrain (returnLanes s k r act) k r act
  let s := modCore s k fun c => { c with traps := Tbl.put none c.traps i none }
  match act with
  | .end_ => endGroup s k r.teamx r.group
  | _ => s

/-- RETT: PRIV outside the firmware agent's group slot; BOUNDS for the agent where the record is free (R70, R390). -/
def execRett (g : Guard) (rec : Spec) (act : RettAct) (s : State) : Host.Outcome State Fault Refusal :=
  .next (groupWord s g fun ls =>
    if !inAgent s then trapActive s ls ⟨.priv, 0, 0, 0⟩
    else
      let i := (curU s rec).toNat
      match trapOf (curCore s) i with
      | none => trapActive s ls ⟨.bounds, 0, 0, 0⟩
      | some r => advance (returnRecord s s.cur.core i r act))

end Sys2Proof.Machine
end

