-- ==== Sys2Proof/Machine/Placement.lean ====
section
/-! DEFINITION. Placing teams on cores and groups on issue slots, and the start and the retirement of a team (R33, R153, R166 to R170, R207, R220,
R282, R305). -/
namespace Sys2Proof.Machine

/-! ## Groups on slots (R167) -/

/-- The role and budget of each group of a kernel, in the order of its `.role` lines (R38, R337), which the header does not keep (log entry 113). -/
def groupRoles (k : Kernel) : List (Nat × Nat) :=
  let p := List.replicate k.pgroups (0, k.pbudget)
  let c := List.replicate k.cgroups (1, k.cbudget)
  if k.pgroups = 0 then c else if k.cgroups = 0 then p else if Config.consumersFirst k.hash then c ++ p else p ++ c

/-- The groups of a team. -/
def groupCount (k : Kernel) : Nat := k.pgroups + k.cgroups

/-- A slot's free register names and free positions. -/
structure SlotRoom where
  names : Nat
  places : Nat
  deriving DecidableEq, Repr

/-- The rooms of an empty core. -/
def emptyRooms : List SlotRoom := List.replicate 4 ⟨2048, 4⟩

/-- A slot with a group of a budget on it. -/
def SlotRoom.take (r : SlotRoom) (b : Nat) : SlotRoom := ⟨r.names - b, r.places - 1⟩

/-- The slot for a group: most free names, ties to the lower number (R167). -/
def chooseSlot (rooms : List SlotRoom) (b : Nat) : Option Nat :=
  ((List.range 4).filter fun i => match rooms[i]? with | some r => decide (1 ≤ r.places) && decide (b ≤ r.names) | none => false).foldl
    (fun best i => match best with
      | none => some i
      | some j => if (rooms.getD j ⟨0, 0⟩).names < (rooms.getD i ⟨0, 0⟩).names then some i else some j) none

/-- The slots of groups placed in order; none where some group finds none (R167, R168). -/
def placeGroups : List SlotRoom → List Nat → Option (List Nat)
  | _, [] => some []
  | rooms, b :: bs =>
    match chooseSlot rooms b with
    | none => none
    | some i => (placeGroups (rooms.set i ((rooms.getD i ⟨0, 0⟩).take b)) bs).map (i :: ·)

/-- The rooms that the teams of a core's two places leave; the firmware agent's slot is its own (R169, R176). -/
def roomsOf (c : Core) : List SlotRoom :=
  ([0, 1].filterMap (teamAt c)).foldl (fun rooms t =>
    t.groups.foldl (fun rooms g => rooms.set g.2.slot ((rooms.getD g.2.slot ⟨0, 0⟩).take g.2.budget)) rooms) emptyRooms

/-- The slots of a kernel's groups on a core. -/
def slotsFor (c : Core) (k : Kernel) : Option (List Nat) := placeGroups (roomsOf c) ((groupRoles k).map (·.2))

/-! ## Teams on cores (R169, R207, R282, R305) -/

/-- The places of a core that hold teams of grids. -/
def heldPlaces (c : Core) : List Nat := [0, 1].filter fun tx => (teamAt c tx).isSome

/-- The lower free place of a core. -/
def freePlace (c : Core) : Option Nat := [0, 1].find? fun tx => (teamAt c tx).isNone

/-- Whether a pair's reservation holds a pair. -/
def pairReserved (s : State) (p : Nat) : Bool := s.reservations.any fun r => r.pairs.contains p

/-- The lowest free matrix context of a core's pair (R282). -/
def freeCtx (s : State) (k : Nat) : Option Nat := [0, 1].find? fun n => (getCtx s (pairOf k) n).home.isNone

/-- The drain-store slots that no team of a core uses. -/
def freeSlots (c : Core) : List Nat :=
  (List.range 32).filter fun i => !(c.teams.any fun e => match e.2 with
    | some t => t.slots.any fun x => x.2 == i + 1
    | none => false)

/-- Whether a team of a grid fits on a core beside the teams there (R169, R207, R305). -/
def fitsCore (s : State) (k gid : Nat) (gr : Grid) : Bool :=
  let c := getCore s k
  let others := (heldPlaces c).filterMap fun tx => (teamAt c tx).bind fun t => (teamGrid s t).map fun g => (t.grid, g.descr)
  (freePlace c).isSome && !(others.any fun o => o.1 == gid) &&
    decide (others.foldl (fun n o => n + descrWS o.2) (descrWS gr.descr) ≤ 2097152) &&
    decide (others.foldl (fun n o => n + descrWO o.2) (descrWO gr.descr) ≤ 524288) &&
    decide (others.foldl (fun n o => n + descrNR o.2) (descrNR gr.descr) ≤ 16) &&
    decide (gr.kernel.progs.length ≤ (freeSlots c).length) && (slotsFor c gr.kernel).isSome &&
    (!gr.kernel.matrix || (freeCtx s k).isSome)

/-- Binds a context to a team that uses the matrix unit (R282). -/
def bindCtx (s : State) (k tx : Nat) (matrix : Bool) (x : Ctx) : State × Option Nat :=
  match (if matrix then freeCtx s k else none) with
  | some n => (modCtx s (pairOf k) n fun _ => { x with home := some (k, tx) }, some n)
  | none => (s, none)

/-- Writes drain programs into free slots of a core: the core, and the map from program number to slot plus 1 (R305). -/
def writeSlots (c : Core) (progs : List (Nat × List Word)) : Core × Tbl Nat :=
  (List.zip progs (freeSlots c)).foldl (fun a e =>
    ({ a.1 with drainStore := Tbl.set a.1.drainStore e.2 e.1.2 }, Tbl.set a.2 e.1.1 (e.2 + 1))) (c, [])

/-- The first word of `.text`: legal pad parcels at its start are passed over (R35, R59). -/
def firstPc (text : List Word) : Nat := skipPads text (text.length / 8 + 1) 0

/-- The lanes of a group at their start: PC 0, or the first word after leading pad blocks (R45, R59). -/
def startLanes (text : List Word) : Tbl Lane :=
  match firstPc text with
  | 0 => []
  | pc => allLanes.map fun l => (l, { pc := pc })

/-- The groups of a team at their start values (R45). -/
def startGroups (k : Kernel) (slots : List Nat) : Tbl Group :=
  (List.zip (groupRoles k) slots).zipIdx.map fun e =>
    (e.2, { slot := e.1.2, role := e.1.1.1, budget := e.1.1.2, lanes := startLanes k.text })

/-- How many teams have been placed on a cluster in the present tick, and the count of one more (R428). -/
def placedNow (s : State) (cl : Nat) : Nat := if (getCluster s cl).placedAt = tick s + 1 then (getCluster s cl).placed else 0
def countPlaced (s : State) (cl : Nat) : State :=
  let n := placedNow s cl
  let now := tick s
  modCluster s cl fun c => { c with placedAt := now + 1, placed := n + 1 }

/-- Places a team on a core: its groups take their positions and names, and do not issue yet (R166, R167, R169, R305). -/
def placeTeam (s : State) (gid : Nat) (gr : Grid) (k idx : Nat) : State :=
  match freePlace (getCore s k), slotsFor (getCore s k) gr.kernel with
  | some tx, some slots =>
    let (s, n) := bindCtx s k tx gr.kernel.matrix {}
    let w := writeSlots (getCore s k) gr.kernel.progs
    let order := placedNow s (clusterOf k)
    let s := countPlaced s (clusterOf k)
    modCore s k fun _ => setTeam w.1 tx
      { grid := gid, index := idx, ctx := n, slots := w.2, groups := startGroups gr.kernel slots, order := order }
  | _, _ => s

/-- Places a grid's teams on cores in ascending core number (R170). -/
def placeTeams (s : State) (gid : Nat) (gr : Grid) (cores : List Nat) : State :=
  cores.zipIdx.foldl (fun s e => placeTeam s gid gr e.1 e.2) s

/-! ## Dealing pairs (R340, R353) -/

/-- The dies of a mask, where 0 means any die, that have not tripped (R338, R343, R430). -/
def usableDies (s : State) (mask : Nat) : List Nat :=
  (List.range 8).filter fun d => (mask == 0 || mask / 2 ^ d % 2 == 1) && (getDie s d).tripped.isNone

/-- Deals the pairs of a list of dies in ascending die order, one pair per die in turn, each die its lowest-numbered pairs that pass. -/
def dealPairs (dies : List Nat) (ok : Nat → Bool) : List Nat :=
  let own := dies.map fun d => (List.range 54).filterMap fun i => if ok (54 * d + i) then some (54 * d + i) else none
  (List.range 54).flatMap fun r => own.filterMap fun l => l[r]?

/-- The cores of `n` teams on dealt pairs, ascending: an odd `n` leaves the second core of the last pair (R170, R340); none where the pairs do not
suffice. -/
def coresOf (pairs : List Nat) (n : Nat) : Option (List Nat) :=
  let need := (n + 1) / 2
  if pairs.length < need then none
  else
    let cs := (((pairs.take need).flatMap fun p => [2 * p, 2 * p + 1]).take n)
    some (allCores.filter cs.contains)

/-- The contexts of a pair that no team holds (R282). -/
def freeCtxs (s : State) (p : Nat) : Nat := ([0, 1].filter fun n => (getCtx s p n).home.isNone).length

/-- Whether teams of a grid fit on cores of one pair, each on one of its own (R169, R282). -/
def fitsOn (s : State) (gid : Nat) (g : Grid) (p : Nat) (ks : List Nat) : Bool :=
  ks.all (fun k => fitsCore s k gid g) && (!g.kernel.matrix || decide (ks.length ≤ freeCtxs s p))

/-- The lowest-numbered pair of the first die in turn that has one to give, and the dies in the order of the next turn; `past` are the dies passed over. -/
def dealOne (ok : Nat → Bool) (past : List Nat) : List Nat → Option (Nat × List Nat)
  | [] => none
  | d :: ds =>
    match (List.range 54).find? fun i => ok (54 * d + i) with
    | some i => some (54 * d + i, ds ++ past ++ [d])
    | none => dealOne ok (past ++ [d]) ds

/-- Deals `n` pairs one per die in turn; `ok` is told how many pairs are still to come. -/
def dealTurns (ok : Nat → Nat → Bool) : Nat → List Nat → List Nat → Option (List Nat)
  | 0, _, _ => some []
  | n + 1, dies, taken =>
    match dealOne (fun p => ok n p && !taken.contains p) [] dies with
    | none => none
    | some (p, ds) => (dealTurns ok n ds (p :: taken)).map (p :: ·)

/-- The cores for `n` teams of a LOOSE grid: pairs without a reservation that pass a test and on which the grid's own teams fit, of the last pair of an odd
number one team (R353); none where the pairs do not suffice. -/
def dealCores (s : State) (gid : Nat) (g : Grid) (n : Nat) (test : Nat → Bool) : Option (List Nat) :=
  let ok := fun (left p : Nat) =>
    !pairReserved s p && test p && fitsOn s gid g p (if left = 0 && n % 2 = 1 then [2 * p] else [2 * p, 2 * p + 1])
  (dealTurns ok ((n + 1) / 2) (usableDies s g.descr.dies) []).bind fun ps => coresOf ps n

/-- The cores on which a LOOSE grid can be placed (R353). -/
def looseCores (s : State) (gid : Nat) (g : Grid) : Option (List Nat) := dealCores s gid g g.descr.cores fun _ => true

/-! ## TEAM_START (R33, R45, R166, R196, R222) -/

/-- The core of team `n` of a grid, and its place there. -/
def teamNo (s : State) (gid n : Nat) : Option (Nat × Nat) := (teamsOf s gid).find? fun e => (getTeam s e.1 e.2).index == n

/-- TEAM_START: the data image is written, and every group becomes eligible to issue (R33, R166). -/
def execTeamStart (grid n : Nat) (s : State) : Host.Outcome State Fault Refusal :=
  .next (match teamNo s grid n, getGrid s grid with
    | some (k, tx), some gr =>
      let t := getTeam s k tx
      if t.ngroups = 0 && !t.groups.isEmpty && gr.st = .running then
        let c := cyc s k
        let s := modTeam s k tx fun t => { t with ngroups := groupCount gr.kernel, sp := writeList [] 0 gr.kernel.data, startCycle := c }
        modCore s k fun co => { co with slots := co.slots.map fun e => (e.1,
          let sl := e.2.clear tx
          if (heldPlaces co).length ≤ 1 then { sl with lastTeam := none } else sl) }
      else s
    | _, _ => s)

/-! ## TEAM_RETIRE (R153, R220, R243, R322) -/

/-- Whether a team's groups have all ended. -/
def teamOver (t : Team) : Bool := decide (0 < t.ngroups) && (List.range t.ngroups).all fun g => (groupAt t g).ended

/-- Whether a die's log holds a command of a team. -/
def logged (s : State) (k tx : Nat) : Bool := (getDie s (dieOf k)).log.any fun e => e.core == k && e.cmd.tx == tx

/-- Whether every COPY, drain and write-back of a team has completed. -/
def engineQuiet (s : State) (k tx : Nat) : Bool :=
  let t := getTeam s k tx
  !((getCore s k).copyq.any (·.tx == tx)) && !(t.jobs.any isWback) && !(logged s k tx) &&
    (match t.ctx with | some n => (getCtx s (pairOf k) n).drains.isEmpty | none => true)

/-- Whether a team can retire. -/
def canRetireTeam (s : State) (k tx : Nat) : Bool :=
  let t := getTeam s k tx
  !t.retiring && teamOver t && engineQuiet s k tx

/-- The teams of a grid in the cluster of a core. -/
def clusterTeams (s : State) (gid k : Nat) : List (Nat × Nat) := (teamsOf s gid).filter fun e => clusterOf e.1 == clusterOf k

/-- A predicted run finishes when its last team retires (R365, R371, R377). -/
def finishPred (s : State) (gid : Nat) : State :=
  match getPred s gid, getGrid s gid with
  | some p, some g =>
    if p.adopted || p.finished.isSome || decide (g.retired < g.cores.length) then s
    else
      let s := addPrdEnergy s (runEnergy s g)
      { s with preds := Tbl.set s.preds gid (some { p with finished := some (tick s) }) }
  | _, _ => s

/-- TEAM_RETIRE. The window stays until every team of the grid in the cluster has retired (R220). -/
def execTeamRetire (core tx : Nat) (s : State) : Host.Outcome State Fault Refusal :=
  .next (
    if !canRetireTeam s core tx then s
    else
      let gid := (getTeam s core tx).grid
      let s := keepWrites s core tx
      let s := match (getTeam s core tx).ctx with
        | some n => modCtx s (pairOf core) n fun _ => {}
        | none => s
      let s := modTeam s core tx fun t => { t with retiring := true, ctx := none, jobs := [], issued := [] }
      let s := finishPred (modGrid s gid fun g => { g with retired := g.retired + 1 }) gid
      let ts := clusterTeams s gid core
      let kept := match getGrid s gid with
        | some g => g.kernel.remote && g.saved.any fun x => clusterOf x.core == clusterOf core
        | none => false
      if !kept && ts.all fun e => (getTeam s e.1 e.2).retiring then ts.foldl (fun s e => releaseTeam s e.1 e.2) s else s)

end Sys2Proof.Machine
end

