-- ==== Sys2Proof/Machine/Image.lean ====
section
/-! DEFINITION. The records of the launch side: queue descriptors (R331), command packets (R335), kernel images (R239, R337), launch descriptors (R338),
quotation records (R344, R345) and event records (R349). -/
namespace Sys2Proof.Machine

/-- A queue descriptor (R331). -/
def qdescrOf (w : Nat) : QDescr :=
  { vec := fieldAt w 256 16, eidx := fieldAt w 192 64, ebase := fieldAt w 128 64, cticks := fieldAt w 96 32, ccount := fieldAt w 80 16,
    ballast := fieldAt w 76 1 == 1, elog := fieldAt w 68 4, clog := fieldAt w 64 4, cbase := fieldAt w 0 64,
    mbz := !(zeroBits w 272 511 && zeroBits w 77 79 && zeroBits w 72 75) }

/-- Whether a queue descriptor can be mapped (R331). -/
def QDescr.ok (d : QDescr) : Bool :=
  !d.mbz && decide (d.vec < 2048) && d.eidx % 8 == 0 && d.ebase % 64 == 0 && decide (1 ≤ d.ccount) && decide (4 ≤ d.elog) &&
    decide (4 ≤ d.clog) && d.cbase % 64 == 0

/-- A command packet (R335), with its MBZ bits and the fields that its command does not use. -/
def packetOf (w : Nat) : Packet :=
  let opc := fieldAt w 0 8
  let arg := fieldAt w 64 64
  let launch := opc == 1 || opc == 4
  { opc := opc, tag := fieldAt w 16 16, arg := BitVec.ofNat 64 arg, qrec := fieldAt w 128 64, srec := fieldAt w 192 64,
    mbz := !(zeroBits w 256 511 && zeroBits w 32 63 && zeroBits w 8 15) || (!launch && !(zeroBits w 128 255)) ||
      (launch && !(arg % 128 == 0 && fieldAt w 128 7 == 0 && fieldAt w 192 8 == 0)) ||
      (opc == 5 && !((fieldAt w 96 3 == 5 || fieldAt w 96 3 == 6) && zeroBits w 99 127)) }

/-! ## The kernel image (R239, R337) -/

/-- A region entry (R239); its flag `mbz` says that a bit that must be zero is set, or an extent is out of range. -/
def regionOf (w : Nat) : Region :=
  let nd := fieldAt w 2 2
  let dk := fieldAt w 6 1 == 1
  let used := fun k => decide (k ≤ nd)
  let e := [fieldAt w 128 32, fieldAt w 160 32, fieldAt w 192 32]
  let st := [signedAt w 256 64, signedAt w 320 64, signedAt w 384 64]
  let aff := (List.range 3).map fun k => (List.range 4).map fun j => signedAt w (448 + 128 * k + 32 * j) 32
  { dir := fieldAt w 0 2, ndim := nd, elog := fieldAt w 4 2, dk := dk, rid := fieldAt w 8 4, spoff := fieldAt w 16 21, arg := fieldAt w 37 6,
    bconst := signedAt w 64 64, e := e, s := st, aff := aff,
    mbz := !(zeroBits w 832 1023 && zeroBits w 224 255 && zeroBits w 43 63 && zeroBits w 12 15 && zeroBits w 7 7) ||
      (if dk then fieldAt w 16 21 != 0 else fieldAt w 8 4 != 0 || fieldAt w 16 4 != 0) ||
      (List.range 3).any fun k =>
        if used k then e.getD k 0 == 0 || decide (65535 < e.getD k 0)
        else e.getD k 0 != 0 || st.getD k 0 != 0 || (aff.getD k []).any (· != 0) }

def up16 (n : Nat) : Nat := (n + 15) / 16 * 16

/-- The parts of an image: the header as a number, and the offsets of `.data`, the regions, the tables, the programs and the end (R337). -/
structure Layout where
  head : Nat
  text : Nat
  data : Nat
  nreg : Nat
  ntab : Nat
  nprog : Nat
  tablen : Nat
  dataAt : Nat
  regAt : Nat
  tabAt : Nat
  progAt : Nat
  end_ : Nat
  deriving DecidableEq, Repr

def layoutOf (head : Nat) : Layout :=
  let text := fieldAt head 64 32
  let data := fieldAt head 96 32
  let nreg := fieldAt head 192 5
  let tablen := fieldAt head 320 32
  let nprog := fieldAt head 203 6
  let d := 256 + up16 text
  let r := d + up16 data
  let t := r + 128 * nreg
  let p := t + up16 tablen
  ⟨head, text, data, nreg, fieldAt head 197 6, nprog, tablen, d, r, t, p, p + 136 * nprog⟩

/-- Whether the budget of a role is legal: 64 to 1,536 in multiples of 64 (R38). -/
def budgetOk (groups budget : Nat) : Bool := if groups = 0 then budget == 0 else decide (64 ≤ budget) && decide (budget ≤ 1536) && budget % 64 == 0

/-- The checks of a header (R337). -/
def Layout.ok (l : Layout) : Bool :=
  let h := l.head
  let team := fieldAt h 128 6
  let pg := fieldAt h 134 5
  let cg := fieldAt h 176 5
  fieldAt h 0 32 == 0x4C594E31 && fieldAt h 32 16 == 1 && zeroBits h 48 63 && zeroBits h 139 143 && zeroBits h 189 191 && zeroBits h 209 223 &&
    zeroBits h 231 255 && zeroBits h 352 2047 && l.text % 32 == 0 && decide (l.text ≤ 2 ^ 24) && decide (l.data ≤ 2 ^ 21) &&
    decide (1 ≤ team) && decide (team ≤ 16) && team == pg + cg && decide (pg ≤ 15) && budgetOk pg (fieldAt h 144 16) &&
    (cg == 0 || budgetOk cg (fieldAt h 160 16)) && decide (fieldAt h 181 5 ≤ 16) && fieldAt h 186 2 != 3 && decide (l.nreg ≤ 16) &&
    decide (l.ntab ≤ 32) && decide (l.nprog ≤ 32) && decide (fieldAt h 224 7 ≤ 64)

/-- The target tables of their part; none where they do not fill it, or where one does not hold 1 to 256 entries (R148, R337) (log entry 116). -/
def tablesOf (bs : List Byte) : Nat → Option (List (List Nat))
  | 0 => if bs.isEmpty then some [] else none
  | n + 1 =>
    let k := natAt bs 0 4
    if k = 0 || 256 < k || bs.length < 4 + 4 * k then none
    else (tablesOf (bs.drop (4 + 4 * k)) n).map ((List.range k).map (fun i => natAt bs (4 + 4 * i) 4) :: ·)

/-- The drain programs of their part, in ascending number; none where a prefix is wrong (R337). -/
def progsOf (bs : List Byte) (n : Nat) : Option (List (Nat × List Word)) :=
  let ps := (List.range n).map fun i => (natAt bs (136 * i) 8, (List.range 32).map fun j => BitVec.ofNat 32 (natAt bs (136 * i + 8 + 4 * j) 4))
  if (ps.all fun p => decide (p.1 < 32)) && (List.zip ps (ps.drop 1)).all fun e => decide (e.1.1 < e.2.1) then some ps else none

/-- Whether the padding of a part is zero. -/
def padOk (bs : List Byte) (off n : Nat) : Bool := ((bs.drop (off + n)).take (up16 n - n)).all (· == 0)

/-- What COPY.STORE, FATOM, BBHINT and SREAD of S_QUOTE make of a kernel that calls itself pure (R361). -/
def impure : Instr → Bool
  | .fatom _ _ _ _ _ _ | .bbhint _ _ => true
  | .copy _ _ _ _ _ e => e.store
  | .sread _ _ n => n == 8
  | _ => false

/-- The kernel of an image of `n` bytes; none for a header or a layout that fails R337. The charges are filled in by the walk. -/
def kernelOf (bs : List Byte) : Option Kernel :=
  let l := layoutOf (natAt bs 0 256)
  let h := l.head
  let part := fun (off n : Nat) => (bs.drop off).take n
  if !l.ok || bs.length ≠ l.end_ || !(padOk bs 256 l.text && padOk bs l.dataAt l.data && padOk bs l.tabAt l.tablen) then none
  else match tablesOf (part l.tabAt l.tablen) l.ntab, progsOf (part l.progAt (136 * l.nprog)) l.nprog with
    | some tabs, some progs =>
      let text := (List.range (l.text / 4)).map fun i => BitVec.ofNat 32 (natAt bs (256 + 4 * i) 4)
      let ws := sweepWords text l.ntab
      some { text := text, data := part l.dataAt l.data,
             regions := (List.range l.nreg).map fun i => regionOf (natAt bs (l.regAt + 128 * i) 128),
             tables := tabs, progs := progs, argMask := BitVec.ofNat 64 (fieldAt h 256 64), args8 := fieldAt h 224 7,
             pure_ := fieldAt h 188 1 == 1 && !(ws.any fun w => impure w.2),
             issue := match fieldAt h 186 2 with | 0 => .urg | 1 => .gto | _ => .rr,
             depth := fieldAt h 181 5, cgroups := fieldAt h 176 5, cbudget := fieldAt h 160 16, pgroups := fieldAt h 134 5,
             pbudget := fieldAt h 144 16, hash := Sha.hashField bs, copyCharge := [], mmaCharge := 8200, places := [],
             matrix := ws.any fun w => isMatrix w.2, remote := ws.any fun w => isRemote w.2 }
    | _, _ => none

/-! ## The launch descriptor (R338) -/

def descrOfRec (w : Nat) : Descr :=
  { lstart := fieldAt w 640 64, lenergy := fieldAt w 576 64, ltime := fieldAt w 512 64, accby := fieldAt w 480 32, bblen := fieldAt w 448 13,
    bbbase := fieldAt w 384 64, plim := fieldAt w 352 32, slice := fieldAt w 320 32, defw := fieldAt w 312 1 == 1, sign := fieldAt w 311 1 == 1,
    debug := fieldAt w 310 1 == 1, fpen := BitVec.ofNat 5 (fieldAt w 305 5), nr := fieldAt w 300 5, wo16 := fieldAt w 294 6,
    ws64 := fieldAt w 288 6, bws := fieldAt w 272 16, bwc := fieldAt w 256 16, prio := fieldAt w 252 4, loose := fieldAt w 251 1 == 1,
    floor := fieldAt w 248 3, dies := fieldAt w 240 8, cores := fieldAt w 224 16, z := fieldAt w 192 32, y := fieldAt w 160 32,
    x := fieldAt w 128 32, args := fieldAt w 64 64, image := fieldAt w 0 64,
    mbz := !(zeroBits w 704 1023 && zeroBits w 461 479 && zeroBits w 313 319) }

/-- The ranges of a descriptor's fields (R338). -/
def Descr.ok (d : Descr) (ballast : Bool) : Bool :=
  !d.mbz && decide (1 ≤ d.x) && decide (1 ≤ d.y) && decide (1 ≤ d.z) && decide (1 ≤ d.cores) && decide (d.cores ≤ 864) &&
    decide (d.floor ≤ 5) && decide (d.prio ≤ 11) && (d.prio != 11 || ballast) && decide (d.bws ≤ 2600) && decide (d.bwc ≤ 2600) &&
    decide (d.accby ≤ 10000000) && decide (d.bblen ≤ 4096) && d.bbbase % 8 == 0 && d.args % 8 == 0 && d.image % 256 == 0 &&
    (if d.defw then d.ws64 == 0 && d.wo16 == 0 && d.nr == 0
     else decide (1 ≤ d.ws64) && decide (d.ws64 ≤ 32) && decide (d.wo16 ≤ 32) && decide (d.nr ≤ 16)) &&
    (if d.loose then decide (1 ≤ d.slice) && decide (d.slice ≤ 1000000) else d.slice == 0)

/-! ## The quotation record and the signed block (R339, R344, R345) -/

/-- The quotation record; after a refusal every field is zero but QID, QTICK, TAG, VI, SLOT, STATUS, DETAIL and OFFSET (R339, R344). -/
def quoteRec (x : Quotation) : Nat :=
  let own := [(x.qid.toNat, 0), (x.qtick % 2 ^ 64, 64), (x.status, 480), (x.vi, 488), (x.slot, 496), (x.tag, 512), (x.detail, 528), (x.offset, 536)]
  if x.status ≠ 0 then packFields own
  else packFields (own ++
    [(x.terms.wct % 2 ^ 64, 128), (x.terms.wce % 2 ^ 64, 192), (x.est % 2 ^ 64, 256), (x.accby % 2 ^ 64, 320), (x.descr.cores, 384), (x.dies, 400),
     (x.floor, 408), (if x.descr.loose then 1 else 0, 411), (x.descr.bwc, 416), (x.descr.bws, 432), (x.power16, 448),
     (match x.kernel with | some k => k.hash | none => 0, 640)])

/-- The signed block (R345): the record, the signature of the record and the serial, and the serial. -/
def signedBlock (rec_ : Nat) (n : Nat) : List Byte :=
  let r := bytesOf rec_ 128
  let ser := bytesOf Config.serial.toNat 8
  let sg := Ecdsa.sign n (r ++ ser)
  r ++ Sha.toBytes sg.1.toNat 48 ++ Sha.toBytes sg.2.toNat 48 ++ ser ++ List.replicate 24 0

/-! ## The event record (R349) -/

def sat (v n : Nat) : Nat := min v (2 ^ n - 1)

def blameNum : Blame → Nat
  | .none => 0
  | .caller => 1
  | .device => 2
  | .host => 3

def bit (b : Bool) : Nat := if b then 1 else 0

def eventRec (e : EvRec) : Nat :=
  packFields [(e.status, 0), (blameNum e.blame, 8), (bit e.claimed, 10), (bit e.tovr, 11), (bit e.eovr, 12), (e.tag, 16), (e.trap, 32), (e.detail, 40),
    (e.tcore, 48), (e.qid.toNat, 64), (e.start % 2 ^ 64, 128), (e.end_ % 2 ^ 64, 192), (e.qtime % 2 ^ 64, 256), (e.qenergy % 2 ^ 64, 320),
    (e.aenergy % 2 ^ 64, 384), (e.tpc % 2 ^ 24, 448), (sat e.tcount 16, 472), (sat ((e.excused + 999) / 1000) 24, 488)]

end Sys2Proof.Machine
end

