-- ==== Sys2Proof/Machine/TeamStep.lean ====
section
/-! DEFINITION. FETCH and the team step, and the arrival of results (R232, R241 to R243). -/
namespace Sys2Proof.Machine

/-- FETCH: the group arrives, and waits for the team step (R243). -/
def execFetch (g : Guard) (d : Fin 128) (s : State) : Host.Outcome State Fault Refusal :=
  .next (groupWord s g fun act =>
    onGroup (curWait (advance s) act (.fetch d)) fun x => { x with arrived := true })

/-- Whether every live group of a team has arrived at FETCH (R245) (log entry 143). -/
def allArrived (t : Team) : Bool :=
  let gs := liveGroups t
  !gs.isEmpty && gs.all fun g => atFetch (groupAt t g)

/-! ## Claims (R242) -/

/-- The teams of a grid. -/
def teamCount (d : Descr) : Nat := d.cores

/-- The next tile that a team may claim: the dispenser's, within the team's share. -/
def claimable (gr : Grid) (t : Team) : Option Tile :=
  if gr.nextTile < tileCount gr.descr && t.handed < ceilDiv (tileCount gr.descr) (teamCount gr.descr) then
    some (tileAt gr.descr gr.nextTile)
  else none

/-- A team claims a tile into next, to be staged into a half: the dispenser serves the claims of a tick together (R242, R243). -/
def claimTile (s : State) (k tx half : Nat) : State :=
  let bases := match teamGrid s (getTeam s k tx) with
    | some gr => gr.kernel.regions.map fun r => regionBase (getTeam s k tx) r half
    | none => []
  modTeam s k tx fun t => { t with next := none, claim := some (half, bases) }

/-- The dispenser serves a team's claim: it hands out the next tile, whose staging starts, or none (R242, R243). -/
def serveClaim (s : State) (k tx : Nat) : State :=
  let t := getTeam s k tx
  match t.claim with
  | none => s
  | some (half, bases) =>
    let s := modTeam s k tx fun t => { t with claim := none }
    match teamGrid s t with
    | none => s
    | some gr =>
      match claimable gr t with
      | none => s
      | some tile =>
        let s := modGrid s t.grid fun g => { g with nextTile := g.nextTile + 1 }
        let s := modTeam s k tx fun t => { t with next := some (tile, half), handed := t.handed + 1 }
        startStaging s k tx gr half bases tile

/-- Whether no claim that may still come in the present tick goes before a team's: the dispenser has no tile for it, or no team with a lower number has a claim
open or may make one (R242, R358) (log entry 29). -/
def firstInTurn (s : State) (k tx : Nat) : Bool :=
  let t := getTeam s k tx
  match teamGrid s t with
  | none => true
  | some gr => (claimable gr t).isNone || (teamsOf s t.grid).all fun e =>
      let u := getTeam s e.1 e.2
      decide (t.index ≤ u.index) || (u.claim.isNone && (u.done || (claimable gr u).isNone))

/-- The claim of a team's first step, for which the step waits: it is served at once where no other can go before it (R242, R243, R358). -/
def claimFirst (s : State) (k tx : Nat) : State :=
  let s := claimTile s k tx 0
  if firstInTurn s k tx then serveClaim s k tx else s

/-- The claims that a tick has brought, each with its team's number, core and place. -/
def claimsNow (s : State) : List (Nat × Nat × Nat) :=
  s.cores.flatMap fun e => [0, 1].filterMap fun tx =>
    (teamAt e.2 tx).bind fun t => if t.claim.isSome then some (t.index, e.1, tx) else none

/-- The dispensers serve the claims of a tick in ascending team number (R242). -/
def serveClaims (s : State) : State :=
  (sorted (fun a b => decide (a.1 ≤ b.1)) (claimsNow s)).foldl (fun s e => serveClaim s e.2.1 e.2.2) s

/-! ## The region check (R241) -/

/-- Whether a region of a reservation can be used. -/
def regionUsable (t : Team) (r : Region) : Bool :=
  !r.dk || (match Tbl.get none t.rsv r.rid with
    | some e => decide (2 * r.half ≤ 16 * (e.size16 - e.doff16))
    | none => false)

/-- BOUNDS at the FETCH for the active lanes of one group; its other lanes have gone on (R86, R241). -/
def fetchTrap (k tx : Nat) (s : State) (g : Nat) : State :=
  match (getGroup s k tx g).wait with
  | none => s
  | some w =>
    let s := modGroup s k tx g fun x => setPc { x with wait := none, arrived := false } (lanesOf w.mask) w.pc
    trapAt s k tx g w.pc ((lanesOf w.mask).map fun l => ⟨l, ⟨.bounds, 0, 0, 0⟩⟩)

/-! ## The team step (R243) -/

/-- Saves a team at its team step, or holds it there; set by the save rules (R393). -/
def preemptPending (t : Team) : Bool := t.preempt.isSome

/-- The first part of a team step, when every live group has arrived: the region check, the write-back, and the first claim. -/
def stepBegin (s : State) (k tx : Nat) : State :=
  let t := getTeam s k tx
  match teamGrid s t with
  | none => s
  | some gr =>
    if !(gr.kernel.regions.all (regionUsable t)) then
      if (liveGroups t).all (trapRoom s k tx) then (liveGroups t).foldl (fetchTrap k tx) s else s
    else
      let s := match t.current with
        | some (tile, hc) => modTeam (startWriteBack s k tx gr hc tile) k tx fun t => { t with current := none }
        | none => s
      let s := if t.first && !(preemptPending t) then modTeam (claimFirst s k tx) k tx fun t => { t with first := false } else s
      modTeam s k tx fun t => { t with stepping := true }

/-- What FETCH delivers to a group (R243), ready 24 cycles later (R261). -/
def fetchDeliver (now : Nat) (xs : List Word) (g : Group) : Group :=
  match g.wait with
  | none => g
  | some w =>
    match w.kind with
    | .fetch d =>
      let g := xs.zipIdx.foldl (fun g e => writeG g (specPlus (.g (Fin.ofNat 128 d)) e.2) e.1) g
      { g with arrived := false, pend := g.pend ++ (List.range 4).map fun i => ⟨.g (d + i), some (now + 24), w.sub, 0⟩ }
    | _ => g

/-- Delivers to every arrived group and releases them in waves (R181, R243). -/
def stepRelease (s : State) (k tx : Nat) (xs : List Word) : State :=
  let gs := (liveGroups (getTeam s k tx)).filter fun g => atFetch (groupAt (getTeam s k tx) g)
  let now := cyc s k
  let s := modTeam s k tx fun t => gs.foldl (fun t g => modGroupIn t g (fetchDeliver now xs)) { t with stepping := false }
  releaseGroups s k tx gs

/-- The words of a FETCH record: x, y, z and the half (R243). -/
def tileWords (t : Tile) (hc : Nat) : List Word := [BitVec.ofNat 32 t.x, BitVec.ofNat 32 t.y, BitVec.ofNat 32 t.z, BitVec.ofNat 32 hc]

/-- Whether the second part of a step can run: the team's claim has been served, and there is no next tile, or it is staged into a free half. -/
def stepReady (s : State) (k tx : Nat) : Bool :=
  (getTeam s k tx).claim.isNone && match (getTeam s k tx).next with
    | none => true
    | some (_, h) => halfFree s k tx h && staged s k tx h

/-- Whether a step may read the reservation entries that the team's regions name: every RSV that its groups have issued has made its entry usable (R293,
R330). -/
def entriesReady (s : State) (k : Nat) (t : Team) : Bool :=
  match teamGrid s t with
  | some gr => !(gr.kernel.regions.any (·.dk)) || t.rsvReady.all fun e => decide (e.2 ≤ cyc s k)
  | none => true

/-- The second part of a team step: the next tile is handed out, or done is returned (R243). -/
def stepEnd (s : State) (k tx : Nat) : State :=
  match (getTeam s k tx).next with
  | none =>
    let s := modTeam s k tx fun t => { t with stile := 0xFFFFFFFF, done := true }
    stepRelease s k tx (List.replicate 4 0xFFFFFFFF)
  | some (tile, h) =>
    let now := tick s
    let ex := match teamGrid s (getTeam s k tx) with | some g => g.excused | none => 0
    let s := modTeam s k tx fun t => { t with
      current := some (tile, h), stile := BitVec.ofNat 32 tile.t, tileTick := now, tileExcused := ex }
    let s := claimTile s k tx (1 - h)
    stepRelease s k tx (tileWords tile h)

/-! ## RESULT_WRITEBACK (R232) -/

/-- Whether an entry of the scoreboard has come due by a cycle. -/
def arrivedBy (now : Nat) (p : Pend) : Bool := match p.ready with | some c => decide (c ≤ now) | none => false

/-- RESULT_WRITEBACK: results whose latency has passed clear the scoreboard (R177, R232). -/
def execResultWriteback (core tx g : Nat) (s : State) : Host.Outcome State Fault Refusal :=
  .next (
    let now := cyc s core
    if (getGroup s core tx g).pend.any (arrivedBy now) then
      modGroup s core tx g fun x => { x with pend := x.pend.filter fun p => !arrivedBy now p }
    else s)

end Sys2Proof.Machine
end

