-- ==== Sys2Proof/Machine/Save.lean ====
section
/-! DEFINITION. Pre-emption: requests, saves at a team step and forced saves, resets, restores and migration (R353, R392 to R402), the claim of trap
records (R387), agents' tickets (R450), and the host's control of contexts (R396). -/
namespace Sys2Proof.Machine

/-! ## What a save keeps (R394, R397, R400) -/

/-- The commands of a team in its engines and in its die's log, in issue order, as log entries (R394, R397). -/
def teamCmds (s : State) (k tx : Nat) : List Cmd :=
  let own := ((getCore s k).copyq.filter fun c => c.tx == tx) ++ (getTeam s k tx).jobs ++
    ((getDie s (dieOf k)).log.filter fun e => e.core == k && e.cmd.tx == tx).map (·.cmd)
  own.foldl (fun l c => insertCmd (restartCmd c) l) []

/-- A wait at a save: a word that has not taken effect is saved as not issued, but for WAITC, which keeps the ticks it has waited (R394, R400). -/
def savedWait (now : Nat) (w : Wait) : Option Wait :=
  match w.kind with
  | .waitc a t b n before => some { w with kind := .waitc a t b (n + (now / tickUnits - w.since / tickUnits)) before }
  | .cntset _ _ _ | .fence _ _ | .mmaw | .drainw _ | .dpld _ _ _ | .rsv _ _ | .rls _ => none
  | .barrier _ _ | .wave | .fetch _ => some w

/-- A group at a save (R397). -/
def savedGroup (now : Nat) (g : Group) : Group :=
  { g with wait := g.wait.bind (savedWait now), pend := [], bubble := 0, issuedAt := 0, cntMark := none }

/-- A team at a save (R397) (log entry 78). -/
def savedTeam (now : Nat) (t : Team) : Team :=
  { t with groups := t.groups.map fun e => (e.1, savedGroup now e.2), jobs := [], ctx := none, slots := [], rsvReady := [],
           stepping := false, preempt := none, saving := none, stopped := false, openedAt := 0 }

/-- A half of a drain at a save (R323). -/
def savedHalf : HalfSt → HalfSt
  | .running _ => .stopped
  | h => h

/-- A context at a save: its names, the pairs that a name or a drain holds, its drains and its unawaited MMAs (R302, R323). -/
def savedCtx (s : State) (now : Nat) (c : Ctx) : Ctx :=
  let kept := fun p => (List.range 8).any (fun n => mapped c n == some p) || c.drains.any fun d => d.pair == p
  { c with home := none, gatherEnd := 0, tiles := c.tiles.filter fun e => kept e.1,
           drains := c.drains.map fun d => { d.withMaxima s c now with half0 := savedHalf d.half0, half1 := savedHalf d.half1 } }

/-- The records of a team in its core's trap table. -/
def teamTraps (c : Core) (tx : Nat) : List TrapRec :=
  c.traps.filterMap fun e => match e.2 with | some r => if r.teamx = tx then some r else none | none => none

/-- The drain programs of a team with their slots' contents (R305, R397). -/
def teamProgs (c : Core) (t : Team) : List (Nat × List Word) :=
  t.slots.map fun e => (e.1, Tbl.get [] c.drainStore (e.2 - 1))

/-- The groups of a place that hold the GTO claim of their slots (R178, R397). -/
def teamClaims (c : Core) (tx : Nat) : List Nat := c.slots.filterMap fun e => e.2.claimOf tx

/-- The bytes of a team's save area (R397): 16 KiB and 128 bytes for each register of the budget a group, 4 KiB for its operand file, the windows, 4 KiB
for a matrix context and 512 bytes for each saved drain. -/
def saveBytes (d : Descr) (t : Team) (ctx : Option Ctx) : Nat :=
  (t.groups.map fun e => 16384 + 128 * e.2.budget + 4096).sum + descrWS d + descrWO d +
    (match ctx with | some c => 4096 + 512 * c.drains.length | none => 0)

/-- The slots of a core on which a restored team stands: its groups hold their claims again, and nothing of an earlier team of its place is left
(R178, R397, R398). -/
def claimSlots (slots : Tbl Slot) (tx : Nat) (on : List Nat) (claims : List Nat) : Tbl Slot :=
  claims.foldl (fun m g => Tbl.mod {} m (on.getD g 0) fun sl => sl.setClaim tx (some g)) (slots.map fun e => (e.1, e.2.clear tx))

/-! ## Requests (R392) -/

/-- Asks for the pre-emption of a running context (R392): each of its teams saves at its next team step. -/
def requestSave (s : State) (gid : Nat) (host : Bool) : State :=
  match getGrid s gid with
  | none => s
  | some g =>
    if g.st ≠ .running then s
    else
      let now := tick s
      let s := (teamsOf s gid).foldl (fun s e => modTeam s e.1 e.2 fun t => { t with preempt := some now }) s
      modGrid s gid fun g => { g with st := .saving, req := some now, hostReq := host, sliceEnd := none }

/-- A list of a priority level (R353). -/
def levelList (s : State) (n : Nat) : List Nat := Tbl.get [] s.prio n

def setLevel (s : State) (n : Nat) (l : List Nat) : State := { s with prio := Tbl.put [] s.prio n l }

/-- A grid joins its level at the tail, or leaves it (R348, R353, R396). -/
def joinLevel (s : State) (gid : Nat) (g : Grid) : State :=
  if g.loose then setLevel s g.descr.prio ((levelList s g.descr.prio).filter (· != gid) ++ [gid]) else s
def leaveLevel (s : State) (gid : Nat) (g : Grid) : State :=
  if g.loose then setLevel s g.descr.prio ((levelList s g.descr.prio).filter (· != gid)) else s

/-! ## The end of a save (R397, R402) -/

/-- The teams of a grid that still have to be saved or to retire. -/
def liveTeams (s : State) (gid : Nat) : List (Nat × Nat) := (teamsOf s gid).filter fun e => !(getTeam s e.1 e.2).retiring

/-- STATE of VI_CTXCTL. -/
def setCtx (s : State) (vi n : Nat) : State := modVi s vi fun v => { v with ctxstate := n }

/-- Closes the save of a context once its last team has been saved: a host's STOP holds it, and names the host for a BOUND context (R392, R395,
R396). -/
def closeSave (s : State) (gid : Nat) : State :=
  match getGrid s gid with
  | none => s
  | some g =>
    if g.st ≠ .saving || g.saved.isEmpty || !(liveTeams s gid).isEmpty then s
    else if g.hostReq then
      let s := modGrid s gid fun x => { x with st := .stopped, events := if g.loose then x.events else x.events ++ [{ tick := g.req.getD 0, blame := .host }], req := none }
      leaveLevel (setCtx s g.vi 2) gid g
    else modGrid s gid fun x => { x with st := .saved, req := none }

/-- Saves one team and releases its place (R393, R394, R397). -/
def saveTeam (s : State) (k tx : Nat) (forced : Bool) : State :=
  let t := getTeam s k tx
  let c := getCore s k
  let ctx := t.ctx.map fun n => savedCtx s (pairCyc s (pairOf k)) (getCtx s (pairOf k) n)
  let sv : SavedTeam :=
    { core := k, tx := tx, forced := forced, team := savedTeam s.time t, cmds := teamCmds s k tx, traps := teamTraps c tx,
      ctx := ctx, progs := teamProgs c t, claims := teamClaims c tx, size := match teamDescr s t with | some d => saveBytes d t ctx | none => 0 }
  closeSave (recount (releaseTeam s k tx) t.grid fun g => { g with saved := g.saved ++ [sv] }) t.grid

/-- Whether a command has reached an element boundary: a FATOM is between its request and its old value until it completes (R394). -/
def atBoundary (c : Cmd) : Bool :=
  match c.st with
  | .home | .back _ _ => false
  | _ => true

/-- Whether a stopped team has nothing left that a save waits for: matrix work, remote accesses, an atomic at its home (R220, R302, R394). -/
def teamQuiet (s : State) (k tx : Nat) : Bool :=
  matrixQuiet s k tx && (match (getTeam s k tx).ctx with | some n => (getCtx s (pairOf k) n).ops.isEmpty | none => true) &&
    !((getCore s k).remotes.any fun r => r.tx == tx) && (getCore s k).copyq.all fun c => c.tx != tx || atBoundary c

/-- Whether what a core's cache of counters held of a team has been added in memory, or waits in the command log (R158, R397). -/
def flushed (c : Core) (tx : Nat) : Bool := c.copyq.all fun x => x.tx != tx || !(isFlush x) || isBlocked x

/-- Stops a team for its save: its core flushes its counters (R158, R393, R394, R397). -/
def stopToSave (s : State) (k tx : Nat) (f : Team → Team) : State := modTeam (flushAll s k) k tx fun t => { (f t) with stopped := true }

/-- Whether a team has stopped for its save. -/
def stoppedToSave (t : Team) : Bool := t.stopped && t.preempt.isSome && (t.stepping || t.saving.isSome)

/-- Whether a record ends its grid (R387). -/
def ends (g : Grid) (c : TrapCode) : Bool :=
  match c with
  | .bkpt | .watch => false
  | .fp | .drain => !g.descr.debug
  | _ => true

/-- Whether a grid has a trap that ends it, so that a save does not complete and a host's RESET comes too late (R388, R402). -/
def trapped (g : Grid) : Bool := g.traps.any fun r => ends g r.code

/-- Whether a team can be saved now: it has stopped and is quiet, and so have its grid's other teams of the cluster where the grid uses remote accesses
(R220), and its counts of basic blocks have been flushed (R397). After a trip of its die no save completes (R435), nor once a trap ends the grid (R402). -/
def saveReady (s : State) (k tx : Nat) : Bool :=
  let t := getTeam s k tx
  (getDie s (dieOf k)).tripped.isNone && flushed (getCore s k) tx &&
  let one := fun (e : Nat × Nat) => stoppedToSave (getTeam s e.1 e.2) && teamQuiet s e.1 e.2
  one (k, tx) && (match teamGrid s t with
    | some g => !(trapped g) && (!g.kernel.remote || ((liveTeams s t.grid).filter fun e => clusterOf e.1 == clusterOf k).all one)
    | none => true)

/-! ## TEAM_STEP (R243, R393) -/

/-- Whether a grid's teams run. -/
def runs (s : State) (gid : Nat) : Bool := match getGrid s gid with | some g => g.st == .running || g.st == .saving | none => false

/-- TEAM_STEP: its first part once every live group has arrived and the reservations of its regions are usable (R330), its second once the next tile is staged; under a request the step saves the team
instead (R243, R393). -/
def execTeamStep (core tx : Nat) (s : State) : Host.Outcome State Fault Refusal :=
  .next (
    let t := getTeam s core tx
    if t.saving.isSome || t.retiring || !runs s t.grid then s
    else if !t.stepping then
      if allArrived t && entriesReady s core t then stepBegin s core tx else s
    else if preemptPending t then
      if !t.stopped then stopToSave s core tx id
      else if saveReady s core tx then saveTeam s core tx false
      else s
    else if stepReady s core tx then stepEnd s core tx
    else s)

/-! ## TIME_SLICE_END (R353, R392, R402) -/

/-- Whether a grid's last team has retired. -/
def gridOver (g : Grid) : Bool := !g.cores.isEmpty && decide (g.cores.length ≤ g.retired)

/-- TIME_SLICE_END: a request for the context, whose entry goes to the tail of its level; retirement wins (R353, R356, R402). -/
def execTimeSliceEnd (grid : Nat) (s : State) : Host.Outcome State Fault Refusal :=
  .next (match getGrid s grid with
    | none => s
    | some g =>
      match g.sliceEnd with
      | none => s
      | some e =>
        if tick s < e || g.st ≠ .running then s
        else if gridOver g then modGrid s grid fun g => { g with sliceEnd := none }
        else joinLevel (requestSave s grid false) grid g)

/-! ## Forced saves (R394, R395) -/

/-- The ticks after the request at which a forced save begins: PLIM, or T for a BOUND context (R394). -/
def saveLimit (g : Grid) : Nat := if g.loose then g.descr.plim else g.terms.t

/-- The teams whose forced save is due: a team at its team step is saved by it (R402). -/
def lateTeams (s : State) (gid : Nat) (g : Grid) : List (Nat × Nat) :=
  (liveTeams s gid).filter fun e =>
    let t := getTeam s e.1 e.2
    t.saving.isNone && !t.stepping && !(allArrived t) && (match t.preempt with | some r => decide (r + saveLimit g ≤ tick s) | none => false)

/-- FORCED_SAVE_START: the late teams stop issuing (R394). -/
def execForcedSaveStart (grid : Nat) (s : State) : Host.Outcome State Fault Refusal :=
  .next (match getGrid s grid with
    | none => s
    | some g =>
      if g.st ≠ .saving then s
      else
        let now := tick s
        (lateTeams s grid g).foldl (fun s e => stopToSave s e.1 e.2 fun t => { t with saving := some now }) s)

/-- The teams under a forced save that are ready. -/
def forcedReady (s : State) (gid : Nat) : List (Nat × Nat) :=
  (liveTeams s gid).filter fun e => (getTeam s e.1 e.2).saving.isSome && saveReady s e.1 e.2

/-- FORCED_SAVE_COMPLETE (R394, R397). -/
def execForcedSaveComplete (grid : Nat) (s : State) : Host.Outcome State Fault Refusal :=
  .next (match getGrid s grid with
    | none => s
    | some g => if g.st ≠ .saving then s else closeSave ((forcedReady s grid).foldl (fun s e => saveTeam s e.1 e.2 true) s) grid)

/-- The team whose forced save has passed its deadline; a save that completes in the deadline's tick completes, and a trap that ends the grid comes first
(R395, R402). -/
def stalledTeam (s : State) (gid : Nat) : Option (Nat × Nat) :=
  (liveTeams s gid).find? fun e =>
    (match (getTeam s e.1 e.2).saving with | some b => decide (b + 20000 ≤ tick s) | none => false) && !saveReady s e.1 e.2

/-- DETAIL of a reset: 1 if the tile in progress had run longer than T since it was handed out, not counting excused time, else 2 (R395). -/
def resetDetail (s : State) (g : Grid) (t : Team) : Nat :=
  if t.current.isSome && decide (g.terms.t + (g.excused - t.tileExcused) < tick s - t.tileTick) then 1 else 2

/-- FORCED_SAVE_TIMEOUT: the context ends by reset (R395). The status carries DETAIL in its second byte. -/
def execForcedSaveTimeout (grid : Nat) (s : State) : Host.Outcome State Fault Refusal :=
  .next (match getGrid s grid, stalledTeam s grid with
    | some g, some e =>
      if g.st ≠ .saving || trapped g then s
      else
        let d := resetDetail s g (getTeam s e.1 e.2)
        let s := if g.hostReq then setCtx s g.vi 0 else s
        let s := if g.loose then s else blame s grid (if d = 1 then .caller else .device)
        terminate s grid (2 + 256 * d)
    | _, _ => s)

/-! ## Taking cores (R365) -/

/-- Whether a grid holds a core of a list of pairs. -/
def onPairs (s : State) (gid : Nat) (pairs : List Nat) : Bool := (teamsOf s gid).any fun e => pairs.contains (pairOf e.1)

/-- The predictions that a binding's pairs discard, but for one (R365). -/
def dropPreds (s : State) (pairs : List Nat) (keep : Option Nat) : State :=
  ((s.preds.map (·.1)).filter fun i => running s i && some i != keep && onPairs s i pairs).foldl (fun s i => discard s i 8) s

/-- Discards the predictions on the cores of a list. -/
def dropPredsOn (s : State) (cores : List Nat) : State := dropPreds s ((cores.map pairOf).eraseDups) none

/-- The state without any prediction whose run holds cores. -/
def withoutPreds (s : State) : State := ((s.preds.map (·.1)).filter (running s)).foldl (fun s i => discard s i 8) s

/-! ## CONTEXT_RESTORE (R398 to R400) -/

/-- The serial numbers that a saved team knows, in order. -/
def savedSerials (sv : SavedTeam) : List Nat :=
  (sorted (fun a b => decide (a ≤ b)) ((sv.cmds.map (·.serial)) ++ sv.team.issued.map (·.serial))).eraseDups

/-- The new serial number of a command on a core whose next number is `base`. -/
def newSerial (olds : List Nat) (base n : Nat) : Nat := base + (olds.filter (· < n)).length

/-- A replayed command on its new core (R256, R398): it owes its engine time from the restore (log entry 77). -/
def restoredCmd (olds : List Nat) (base tx now owed : Nat) (c : Cmd) : Cmd :=
  { c with serial := newSerial olds base c.serial, tx := tx, issued := now, owed := max now owed + (c.owed - c.issued) }

/-- A wait on its new core: the rest of a WAITC's bound runs from now (R400). -/
def restoredWait (olds : List Nat) (base time : Nat) (w : Wait) : Wait :=
  match w.kind with
  | .waitc a t b n before => { w with since := time, kind := .waitc a t b n (newSerial olds base before) }
  | _ => w

/-- A half of a drain after a restore: it restarts at its next row, unless the drain is held by a fault (R322, R323). -/
def restoredDrain (d : Drain) : Drain :=
  if d.fault.isSome then d else { d with half0 := d.half0.resume, half1 := d.half1.resume }

/-- The context of a saved team, to be bound again. -/
def restoredCtx (sv : SavedTeam) : Ctx := match sv.ctx with | some c => { c with drains := c.drains.map restoredDrain } | none => {}

/-- Puts the records of a saved team in its new core's table (R398). -/
def restoreTraps (s : State) (k tx : Nat) (rs : List TrapRec) : State :=
  rs.foldl (fun s r => match freeTrap (getCore s k) with
    | some i => modCore s k fun c => { c with traps := Tbl.set c.traps i (some { r with core := k, teamx := tx }) }
    | none => s) s

/-- Restores one team on a core: its place and state, then its commands, then its groups (R398), whose first issue is spaced from those of teams placed on
the cluster in the same tick (R428). -/
def restoreTeam (s : State) (gid : Nat) (g : Grid) (sv : SavedTeam) (k : Nat) : State :=
  match freePlace (getCore s k), slotsFor (getCore s k) g.kernel with
  | some tx, some slots =>
    let (s, n) := bindCtx s k tx g.kernel.matrix (restoredCtx sv)
    let w := writeSlots (getCore s k) sv.progs
    let olds := savedSerials sv
    let c := w.1
    let now := tick s
    let cmds := sv.cmds.map fun x => restoredCmd olds c.serial tx now (if onCopyEngine x then c.owedC else c.owedS) x
    let delay := placedNow s (clusterOf k) * waveTicks s (clusterOf k) * tickUnits
    let first := if delay = 0 then 0 else cyclesAt (getCluster s (clusterOf k)) (s.time + delay)
    let s := countPlaced s (clusterOf k)
    let grp := fun (e : Nat × Group) => (e.1, { e.2 with
      slot := slots.getD e.1 0, bubble := first, wait := e.2.wait.map (restoredWait olds c.serial s.time) })
    let t : Team := { sv.team with
      grid := gid, ctx := n, slots := w.2, groups := sv.team.groups.map grp, startCycle := cyc s k,
      jobs := cmds.filter fun x => !(onCopyEngine x),
      issued := sv.team.issued.map fun i =>
        let sn := newSerial olds c.serial i.serial
        { i with serial := sn, owed := match cmds.find? fun x => x.serial == sn with | some x => x.owed | none => i.owed } }
    let c := { c with
      slots := claimSlots c.slots tx slots sv.claims, serial := c.serial + olds.length, copyq := c.copyq ++ cmds.filter onCopyEngine,
      owedC := (cmds.filter onCopyEngine).foldl (fun m x => max m x.owed) c.owedC,
      owedS := (cmds.filter fun x => !(onCopyEngine x)).foldl (fun m x => max m x.owed) c.owedS }
    restoreTraps (modCore s k fun _ => setTeam c tx t) k tx sv.traps
  | _, _ => s

/-- Whether a saved team goes back to the core it left: after a forced save, and where the grid uses remote accesses (R220, R399). -/
def sameCore (g : Grid) (sv : SavedTeam) : Bool := sv.forced || g.kernel.remote || !g.loose

/-- The cores for the saved teams of a grid, in their order; none where they do not fit (R399). -/
def restoreCores (s : State) (gid : Nat) (g : Grid) : Option (List Nat) :=
  let fixed := (g.saved.filter (sameCore g)).map (·.core)
  let free := g.saved.filter fun x => !(sameCore g x)
  let home := (fixed.map pairOf).eraseDups
  if !(home.all fun p => fitsOn s gid g p (fixed.filter fun k => pairOf k == p) && (!g.loose || !pairReserved s p)) then none
  else match dealCores s gid g free.length fun p => !home.contains p with
    | none => none
    | some cs => some (g.saved.foldl (fun (a : List Nat × List Nat) x =>
        if sameCore g x then (a.1 ++ [x.core], a.2) else (a.1 ++ [a.2.headD 0], a.2.drop 1)) ([], cs)).1

/-- Whether the queue's earlier grids have completed (R334). -/
def queueFree (s : State) (gid : Nat) (g : Grid) : Bool :=
  !(s.grids.any fun e => match e.2 with
    | some x => decide (e.1 < gid) && x.vi == g.vi && x.q == g.q && !running s e.1
    | none => false)

/-- Whether a grid waits for the comparison of a matching prediction (R370). -/
def awaitsPred (s : State) (gid : Nat) : Bool :=
  s.preds.any fun e => match e.2 with | some p => !p.adopted && p.launch.any fun l => l.1 == gid | none => false

/-- The runnable contexts of a level: a grid behind an earlier one of its queue is not runnable (R334, R353). -/
def runnable (s : State) (n : Nat) : List Nat :=
  (levelList s n).filter fun gid => match getGrid s gid with
    | some g => g.st != .waiting || queueFree s gid g
    | none => false

/-- Whether a predicted run is served: one runs, or one waits for cores that ballast still holds (R353, R364, R392). -/
def predWaits (s : State) : Bool :=
  (s.preds.any fun e => match e.2 with | some p => p.finished.isNone && !p.adopted | none => false) ||
    s.queues.any fun e => match e.2 with | some q => q.wants | none => false

/-- The first entry of the lowest non-empty level that does not run (R353); ballast waits for the predicted runs, which come before
it, and for the power controller (R433) (log entry 63). -/
def nextLoose (s : State) : Option Nat :=
  match (List.range 12).find? fun n => !(runnable s n).isEmpty with
  | none => none
  | some n =>
    if n = 11 && (!s.ballastOn || s.ballastSet = 0 || predWaits s) then none
    else (runnable s n).find? fun gid => match getGrid s gid with
      | some g => g.st == .waiting || g.st == .saved
      | none => false

/-- Whether a saved context's turn has come: a BOUND context goes back to its own cores (R347, R353). -/
def mayRestore (s : State) (gid : Nat) (g : Grid) : Bool := g.st == .saved && (!g.loose || nextLoose s == some gid)

/-- The cores of a grid after its teams have moved. -/
def movedCores (g : Grid) (cs : List Nat) : List Nat :=
  (g.cores.filter fun k => !(g.saved.any fun x => x.core == k)) ++ cs

/-- Puts a saved grid's teams back on cores. -/
def restoreOn (s : State) (gid : Nat) (g : Grid) (cs : List Nat) : State :=
  let s := (List.zip g.saved cs).foldl (fun s e => restoreTeam s gid g e.1 e.2) s
  recount s gid fun x => { x with
    st := .running, saved := [], cores := movedCores g cs, req := none,
    sliceEnd := if g.loose then some (tick s + g.descr.slice * 1000) else none }

/-- CONTEXT_RESTORE; predicted runs make way (R365, R398 to R400). -/
def execContextRestore (grid : Nat) (s : State) : Host.Outcome State Fault Refusal :=
  .next (match getGrid s grid with
    | none => s
    | some g =>
      if !mayRestore s grid g then s
      else match restoreCores s grid g with
        | some cs => restoreOn s grid g cs
        | none =>
          match restoreCores (withoutPreds s) grid g with
          | some cs => restoreOn (dropPredsOn s cs) grid g cs
          | none => s)

/-! ## TEAM_MIGRATE (R401) -/

/-- Whether a team can be migrated: a LOOSE context at a team step with nothing outstanding, no barrier wait, no parked lane, and no remote access in
its kernel (R401). -/
def canMigrate (s : State) (k tx : Nat) : Bool :=
  let t := getTeam s k tx
  match teamGrid s t with
  | none => false
  | some g =>
    g.loose && g.st == .running && g.pred.isNone && !g.kernel.remote && t.stepping && !t.stopped && t.jobs.isEmpty &&
      !((getCore s k).copyq.any fun c => c.tx == tx) && !(logged s k tx) && teamQuiet s k tx &&
      !((liveGroups t).any fun n => atBarrier (groupAt t n)) && (teamTraps (getCore s k) tx).isEmpty

/-- Saves a team and restores it on another core. -/
def migrateTo (s : State) (core tx dest gid : Nat) (g : Grid) : State :=
  let s1 := saveTeam (flushAll s core) core tx false
  match (getGrid s1 gid).bind fun x => x.saved.getLast? with
  | none => s
  | some sv =>
    recount (restoreTeam s1 gid g sv dest) gid fun x => { x with saved := x.saved.dropLast, cores := g.cores.map fun k => if k = core then dest else k }

/-- TEAM_MIGRATE: the team is saved at its team step and restored on another core of the DIES mask; predicted runs make way (R365, R399, R401). -/
def execTeamMigrate (core tx dest : Nat) (s : State) : Host.Outcome State Fault Refusal :=
  .next (
    let gid := (getTeam s core tx).grid
    match getGrid s gid with
    | none => s
    | some g =>
      if !canMigrate s core tx || !((usableDies s g.descr.dies).contains (dieOf dest)) || pairReserved s (pairOf dest) then s
      else if fitsCore s dest gid g then migrateTo s core tx dest gid g
      else if fitsCore (withoutPreds s) dest gid g then migrateTo (dropPredsOn s [dest]) core tx dest gid g
      else s)

/-! ## TRAP_RECORD_CLAIM (R374, R387) -/

/-- The tie order of records of one core (R387). -/
def recordBefore (a b : TrapRec) : Bool :=
  let ka := [a.tick, a.teamx, a.group, a.islot]
  let kb := [b.tick, b.teamx, b.group, b.islot]
  decide (ka < kb)

/-- The index of the record that the core's agent claims next. -/
def nextRecord (c : Core) : Option (Nat × TrapRec) :=
  c.traps.foldl (fun best e => match e.2 with
    | none => best
    | some r =>
      if r.claimed then best
      else match best with
        | none => some (e.1, r)
        | some b => if recordBefore r b.2 then some (e.1, r) else best) none

/-- TRAP_RECORD_CLAIM: the grid ends, or its lanes are held for the debugger; a trap in a predicted run discards the prediction (R374, R387). -/
def execTrapRecordClaim (core : Nat) (s : State) : Host.Outcome State Fault Refusal :=
  .next (match nextRecord (getCore s core) with
    | none => s
    | some (i, r) =>
      let s := modCore s core fun c => { c with traps := Tbl.set c.traps i (some { r with claimed := true }) }
      let gid := (getTeam s core r.teamx).grid
      match getGrid s gid with
      | none => s
      | some g =>
        if r.teamx = 2 then s
        else if running s gid then discard s gid 6
        else if ends g r.code then terminate s gid 1
        else s)

/-! ## Hubs -/

def getHub (s : State) (h : Nat) : Hub := Tbl.get {} s.hubs h
def modHub (s : State) (h : Nat) (f : Hub → Hub) : State := { s with hubs := Tbl.mod {} s.hubs h f }

/-! ## VI_CTXCTL (R396, R402) -/

/-- The grid that VI_CTXQID names: a grid of this interface (R396). -/
def ctxGrid (s : State) (vi : Nat) : Option (Nat × Grid) :=
  s.grids.findSome? fun e => match e.2 with
    | some g => if g.qid == (getVi s vi).ctxqid && g.vi == vi && !running s e.1 && g.st != .finished then some (e.1, g) else none
    | none => none

/-- Whether VI_CTXQID names a grid of another interface, which is a violation (R396, R417). -/
def foreignGrid (s : State) (vi : Nat) : Bool :=
  s.grids.any fun e => match e.2 with
    | some g => g.qid == (getVi s vi).ctxqid && g.vi != vi && !running s e.1 && g.st != .finished
    | none => false

/-- An action on the named context; while STATE is saving it is ignored, and an unknown context or one of another interface is refused (R396). -/
def ctxAction (s : State) (vi : Nat) (f : Nat → Grid → State) : State :=
  if (getVi s vi).ctxstate = 1 then s
  else match ctxGrid s vi with
    | none => let s := setCtx s vi 3; if foreignGrid s vi then violate s vi 3 0x3008 else s
    | some (gid, g) => f gid g

/-- VI_CTXCTL_STOP: pre-empt and hold (R396). -/
def execViCtxctlStop (vi : Nat) (s : State) : Host.Outcome State Fault Refusal :=
  .next (ctxAction s vi fun gid g =>
    let host := fun (x : Grid) => if g.loose then x.events else x.events ++ [{ tick := tick s, blame := .host }]
    match g.st with
    | .running => if gridOver g then setCtx s vi 0 else setCtx (requestSave s gid true) vi 1
    | .saving => setCtx (modGrid s gid fun x => { x with hostReq := true }) vi 1
    | .waiting | .saved => leaveLevel (setCtx (modGrid s gid fun x => { x with st := .stopped, events := host x }) vi 2) gid g
    | .stopped => setCtx s vi 2
    | _ => setCtx s vi 0)

/-- VI_CTXCTL_RESUME: a stopped context may be restored, or start (R396). -/
def execViCtxctlResume (vi : Nat) (s : State) : Host.Outcome State Fault Refusal :=
  .next (ctxAction s vi fun gid g =>
    match g.st with
    | .stopped =>
      let st : GridSt := if g.saved.isEmpty then .waiting else .saved
      joinLevel (setCtx (modGrid s gid fun x => { x with st := st, hostReq := false }) vi 0) gid g
    | _ => setCtx s vi 0)

/-- VI_CTXCTL_RESET: the grid ends with STATUS HOSTSTOP, the host named for a BOUND context (R356, R396, R402). -/
def execViCtxctlReset (vi : Nat) (s : State) : Host.Outcome State Fault Refusal :=
  .next (ctxAction s vi fun gid g =>
    match g.st with
    | .terminating _ _ | .finished => setCtx s vi 0
    | _ =>
      if trapped g || gridOver g then setCtx s vi 0
      else
        let s := if g.loose then s else blame s gid .host
        terminate (leaveLevel (setCtx s vi 0) gid g) gid 3)

end Sys2Proof.Machine
end

