-- ==== Sys2Proof/Machine/Power.lean ====
section
/-! DEFINITION. Power, current and heat: points and their changes (R423, R424), the governor (R425), droop (R426, R427), heat (R429 to
R432), and their registers (R434). -/
namespace Sys2Proof.Machine

/-! ## Points (R12, R423, R424) -/

/-- The voltage of a point in units of 0.5 mV (R423). -/
def pointVolts (p : Nat) : Nat :=
  match p with
  | 0 => 1400 | 1 => 1280 | 2 => 1180 | 3 => 1100 | 4 => 1020 | _ => 960

/-- The ticks of a frequency switch (R424). -/
def switchTicks : Nat := 70

/-- The core voltage at a tick, while it slews at 0.5 mV a tick (R424). -/
def voltsAt (c : Cluster) (now : Nat) : Nat :=
  match c.change with
  | .slewUp t due => pointVolts t - (due - now)
  | .slewDown t due => pointVolts t + (due - now)
  | _ => c.mv2

/-- The periods from the base to the start of the cycle `d` cycles on, and the periods of that cycle (R426). -/
def periodsBefore (c : Cluster) (d : Nat) : Nat :=
  let a := stretchAhead c
  let k := stretchLeft c
  if d < a then d else if d < a + k then a + 2 * (d - a) else d + k
def periodsOf (c : Cluster) (d : Nat) : Nat :=
  if stretchAhead c ≤ d && d < stretchAhead c + stretchLeft c then 2 else 1

/-- The time at which a cluster's cycle began, and the time at which it ends. -/
def cycleStart (c : Cluster) (time : Nat) : Nat := c.cycTime + period c.cur * periodsBefore c (cyclesAt c time - c.cycBase)
def cycleEnd (c : Cluster) (time : Nat) : Nat := cycleStart c time + period c.cur * periodsOf c (cyclesAt c time - c.cycBase)

/-- Counts a cluster's cycles from now at new settings: the cycle in progress ends when it would have ended, so no cycle is lost (R424). -/
def rebase (c : Cluster) (time : Nat) (f : Cluster → Cluster) : Cluster :=
  if clockStopped c then f c
  else
    let n := cyclesAt c time
    let c' := f { c with cycBase := n }
    let at_ := if cycleStart c time = time then time else cycleEnd c time - period c'.cur * periodsOf c' 0
    { c' with cycTime := at_ }

/-- Orders a change to a point (R424): an order replaces a change in progress, from the voltage that it has reached (log entry 95). -/
def orderPoint (c : Cluster) (p time : Nat) : Cluster :=
  let now := time / tickUnits
  let v := voltsAt c now
  let goal := pointVolts p
  let c := { c with mv2 := v }
  if p = c.cur && v = goal then { c with change := .none }
  else if clockStopped c then
    { c with cur := p, change := if v < goal then .slewUp p (now + (goal - v)) else if goal < v then .slewDown p (now + (v - goal)) else .none }
  else if v < goal then { c with change := .slewUp p (now + (goal - v)) }
  else if p = c.cur then { c with change := .slewDown p (now + (v - goal)) }
  else { c with change := .switch p (now + switchTicks) }

/-- A cluster that has come to its point is no longer kept below it by a throttle (R403, R431). -/
def recovered (c : Cluster) : Cluster :=
  { c with throttled := c.throttled && (c.throttle != .run || c.change != .none || (c.held != 7 && decide (c.held < c.cur))) }

/-- A cluster of the package moves to a point, unless its throttle holds it (R423, R431). -/
def setPoint (s : State) (cl p : Nat) : State :=
  modCluster s cl fun c => if c.throttle = .run then orderPoint c p s.time else { c with before := p }

/-- VOLTAGE_SLEW_DONE: the voltage has reached the target; an upward change then orders its switch (R424). -/
def execVoltageSlewDone (cl : Nat) (s : State) : Host.Outcome State Fault Refusal :=
  .next (
    let now := tick s
    match (getCluster s cl).change with
    | .slewUp t due =>
      if now < due then s
      else modCluster s cl fun c => recovered { c with
        mv2 := pointVolts t, change := if c.cur = t then .none else .switch t (now + switchTicks) }
    | .slewDown t due => if now < due then s else modCluster s cl fun c => recovered { c with mv2 := pointVolts t, change := .none }
    | _ => s)

/-- FREQUENCY_SWITCH_DONE: the switch takes effect from the next cycle boundary; a downward change then slews its voltage (R424). -/
def execFrequencySwitchDone (cl : Nat) (s : State) : Host.Outcome State Fault Refusal :=
  .next (
    let now := tick s
    match (getCluster s cl).change with
    | .switch t due =>
      if now < due then s
      else modCluster s cl fun c =>
        let c := rebase c s.time fun c => { c with cur := t }
        recovered { c with change := if pointVolts t < c.mv2 then .slewDown t (now + (c.mv2 - pointVolts t)) else .none }
    | _ => s)

/-! ## Held points (R347, R423) -/

/-- Holds a cluster at the point of a reservation (R347). -/
def holdPoint (s : State) (cl p : Nat) : State := setPoint (modCluster s cl fun c => { c with held := p }) cl p

/-- The first reservation that has a core of a cluster. -/
def clusterHolder (s : State) (cl : Nat) : Option Reservation := s.reservations.find? fun r => r.pairs.any fun p => clusterOf (2 * p) == cl

/-- Orders the point of a new reservation on a cluster, unless an earlier one holds the cluster at another: that one's point stands until it ends
(R347). -/
def orderHeld (s : State) (cl : Nat) : State :=
  match clusterHolder s cl with
  | some r => if (getCluster s cl).held = r.point then s else holdPoint s cl r.point
  | none => s

/-- Lets a cluster's point go when no reservation holds it any longer, so that a fixed point applies again; else the first reservation left holds it
(R347, R423). -/
def letPoint (s : State) (cl : Nat) : State :=
  if (clusterHolder s cl).isSome then orderHeld s cl
  else
    let c := getCluster s cl
    let s := modCluster s cl fun c => { c with held := 7 }
    if c.mode then setPoint s cl c.req else s

/-! ## CL_DVFS, CL_SLOPE, DRP_THRESH (R423, R434) -/

/-- A denial in PWR_DENY (R423, R434): cause 0 for the voltage floor, 1 for a held point. -/
def deny (s : State) (cause cl : Nat) : State := { s with denyCount := min (s.denyCount + 1) (2 ^ 32 - 1), denyCause := cause, denyCluster := cl }

/-- Why a point written to REQ or CEIL is denied, if it is. -/
def denial (c : Cluster) (p : Nat) : Option Nat := if 6 ≤ p then some 0 else if c.held ≠ 7 && c.held < p then some 1 else none

/-- CL_DVFS_WRITE: a denied field keeps its old value (R423). -/
def execClDvfsWrite (cl : Nat) (val : DWord) (s : State) : Host.Outcome State Fault Refusal :=
  .next (
    let c := getCluster s cl
    let req := fieldAt val.toNat 0 3
    let ceil := fieldAt val.toNat 4 3
    let s := match denial c req with | some x => deny s x cl | none => s
    let s := match denial c ceil with | some x => deny s x cl | none => s
    let s := modCluster s cl fun c => { c with
      mode := fieldAt val.toNat 3 1 == 1,
      req := if (denial c req).isSome then c.req else req,
      ceil := if (denial c ceil).isSome then c.ceil else ceil }
    let c := getCluster s cl
    if c.held = 7 && c.mode then setPoint s cl c.req else s)

def clamp (lo hi n : Nat) : Nat := max lo (min hi n)

/-- CL_SLOPE_WRITE (R434). -/
def execClSlopeWrite (cl : Nat) (val : DWord) (s : State) : Host.Outcome State Fault Refusal :=
  .next (modCluster s cl fun c => { c with slope := clamp 600 12000 (fieldAt val.toNat 0 16) })

/-- DRP_THRESH_WRITE (R434). -/
def execDrpThreshWrite (cl : Nat) (val : DWord) (s : State) : Host.Outcome State Fault Refusal :=
  .next (modCluster s cl fun c => { c with droopMv := clamp 10 100 (fieldAt val.toNat 0 7) })

/-! ## Sensors and caps (R341, R429) -/

/-- A sensor's reading in 1/16 °C. -/
def sensorOf (d : Die) (i : Nat) : Int := (Tbl.get 0 d.temps i).toInt

/-- THM_WARN, THM_THROTTLE and THM_TRIP, in 1/16 °C: read-only, so each is a constant (R434). -/
def thmWarn : Int := 1600
def thmThrottle : Int := 1760
def thmTrip : Int := 2000

/-- The cap of a reading: P5 at THM_THROTTLE or above (R341, R343). -/
def capOf (t : Int) : Nat := if t < thmWarn then 0 else if t < 1680 then 2 else if t < thmThrottle then 4 else 5

/-- The cap of a die by its hottest sensor. -/
def dieCap (d : Die) : Nat := ((List.range 16).map fun i => capOf (sensorOf d i)).foldl max 0

/-- Whether a die stands at THM_THROTTLE or above. -/
def dieHot (d : Die) : Bool := (List.range 16).any fun i => decide (thmThrottle ≤ sensorOf d i)

/-! ## The governor (R425) -/

/-- Whether the governor chooses a cluster's point (log entry 96). -/
def governed (c : Cluster) : Bool := c.held == 7 && !c.mode && c.throttle == .run

/-- The point to which a governed cluster steps: one slower or one faster, within its limits. -/
def governStep (c : Cluster) (cap ratio : Nat) : Nat :=
  let lim := max c.ceil (max cap c.limit)
  if 160 ≤ ratio then max lim (min 5 (c.cur + 1)) else if ratio ≤ 48 then max lim (c.cur - 1) else c.cur

/-- GOVERNOR_SAMPLE: every 10,000 ticks (R425). -/
def execGovernorSample (cl : Nat) (s : State) : Host.Outcome State Fault Refusal :=
  .next (
    let c := getCluster s cl
    let now := tick s
    if now < c.sampleDue then s
    else
      let n := cyclesAt c s.time
      let s := modCluster s cl fun c => { c with sampleDue := now + 10000, sampleCyc := n, stallIdle := 0 }
      if !governed c then s
      else
        let ratio := if n ≤ c.sampleCyc then 0 else min 255 (c.stallIdle * 256 / (n - c.sampleCyc))
        let s := modCluster s cl fun c => { c with ratio := ratio }
        let p := governStep c (dieCap (getDie s (cl / 9))) ratio
        if p = c.cur then s else setPoint s cl p)

/-! ## Droop (R426, R427) -/

/-- The margin of droop that a grid's worst-case time holds at a held point, in periods (R427). -/
def droopMargin (wct p : Nat) : Nat := wct * tickUnits / (100 * period p)

/-- The bound grids to which a cluster is granted, by number, from their acceptance to their records. -/
def boundOn (s : State) (cl : Nat) : List (Nat × Grid) :=
  s.grids.filterMap fun e => match e.2 with
    | some g => if !g.loose && g.cores.any (fun k => clusterOf k == cl) && g.st != .finished then some (e.1, g) else none
    | none => none

/-- Whether a throttle keeps a cluster below a point: its clock stands, or it has not yet come back from P5 or from a cap (R403, R431). -/
def throttledBelow (s : State) (p cl : Nat) : Bool :=
  let x := getCluster s cl
  x.throttled && (clockStopped x || decide (p < x.cur))

/-- The event of clusters that a BOUND grid takes while a throttle keeps them below its point: their first tick below it is the present one (R403). -/
def takenLow (s : State) (loose : Bool) (cores : List Nat) (p : Nat) : List BlameEv :=
  if !loose && cores.any (fun k => throttledBelow s p (clusterOf k)) then [{ tick := tick s, blame := .device }] else []

/-- The alarms of a cluster since a grid's start. -/
def alarmsOf (g : Grid) (cl n : Nat) : Nat := n - ((g.droop0.find? fun e => e.1 == cl).map (·.2)).getD n

/-- Names a device event of a tick of the bound grids on a cluster that pass a test (R351). -/
def blameBound (s : State) (cl tick : Nat) (f : Grid → Bool) : State :=
  (boundOn s cl).foldl (fun s e => if f e.2 then modGrid s e.1 fun g => { g with events := g.events ++ [{ tick := tick, blame := .device }] } else s) s

/-- Whether a droop raises its cluster's alarm by a time: the voltage falls more than DRP_THRESH below the setpoint (R426). -/
def dipAlarms (s : State) (e : Nat × Nat × Nat) : Bool := decide (e.1 ≤ s.time) && decide ((getCluster s e.2.1).droopMv < e.2.2)

/-- Takes the first droop of a cluster that raises its alarm from those to come. -/
def takeDip (s : State) (cl : Nat) : State :=
  match s.dips.find? fun e => e.2.1 == cl && dipAlarms s e with
  | some e => { s with dips := s.dips.erase e }
  | none => s

/-- DROOP_ALARM: the next 6 cycles are stretched, and issue is barred in odd cycles of the 64 after them; an alarm in either window restarts both
(R426) (log entries 98 and 99). While the clock stands, the next cycle is the first after the restart. -/
def execDroopAlarm (cl : Nat) (s : State) : Host.Outcome State Fault Refusal :=
  .next (
    let s := modCluster (takeDip s cl) cl fun c => rebase c s.time fun c =>
      let n := if clockStopped c then c.cycBase else c.cycBase + 1
      { c with stretchFrom := n, stretchTo := n + 6, barredTo := n + 70, droopCount := (c.droopCount + 1) % 2 ^ 64 }
    let c := getCluster s cl
    blameBound s cl (tick s) fun g =>
      let n := alarmsOf g cl c.droopCount
      let m := droopMargin g.terms.wct c.held
      decide (m < 38 * n) && decide (38 * (n - 1) ≤ m))

/-- Whether a slot may issue in a cycle: in the barred window only even-numbered cycles of it (R426). -/
def issueBarred (c : Cluster) (n : Nat) : Bool := decide (c.stretchTo ≤ n) && decide (n < c.barredTo) && (n - c.stretchTo) % 2 == 1

/-- DROOP_WINDOW_END: a window that has passed is forgotten (R426). -/
def execDroopWindowEnd (cl : Nat) (s : State) : Host.Outcome State Fault Refusal :=
  .next (
    let c := getCluster s cl
    let n := cyclesAt c s.time
    if c.barredTo ≠ 0 && decide (c.barredTo ≤ n) then
      modCluster s cl fun c => rebase c s.time fun c => { c with stretchFrom := 0, stretchTo := 0, barredTo := 0 }
    else s)

/-! ## Heat (R429 to R431) -/

/-- The time at which a cluster's clock stops: the next cycle boundary (R431). -/
def stopTime (c : Cluster) (time : Nat) : Nat := if clockStopped c || cycleStart c time = time then time else cycleEnd c time

/-- Stops a cluster's clock for 1,000 ticks; the cycle in progress is the last (R431), and its tick is that of the event (R403). -/
def stopClock (s : State) (cl sensor : Nat) : State :=
  let c := getCluster s cl
  let at_ := stopTime c s.time
  let s := blameBound s cl (at_ / tickUnits) fun _ => true
  modCluster s cl fun _ =>
    let n := if clockStopped c then c.cycBase else if at_ = s.time then cyclesAt c s.time else cyclesAt c s.time + 1
    orderPoint { c with
      cycBase := n, throttle := .stopped (tick s + 1000), sensor := sensor, throttled := true, stopAt := at_,
      before := if c.throttle = .run then (match c.change with | .slewUp t _ | .switch t _ | .slewDown t _ => t | .none => c.cur) else c.before }
      5 s.time

/-- The clusters of a die that a reading throttles (R430). -/
def throttledBy (sensor : Nat) : List Nat := if 6 ≤ sensor && sensor ≤ 14 then [sensor - 6] else List.range 9

/-- Starts the throttles that a die's readings call for. -/
def throttleDie (s : State) (die : Nat) : State :=
  ((List.range 16).filter fun i => decide (thmThrottle ≤ sensorOf (getDie s die) i)).foldl (fun s i =>
    (throttledBy i).foldl (fun s c =>
      match (getCluster s (9 * die + c)).throttle with
      | .stopped _ | .off => s
      | _ => stopClock s (9 * die + c) i) s) s

/-- SENSOR_SAMPLE: the 16 sensors of a die are read, every 10 ticks; a trip acts, else throttles do, until the rails are off (R429, R430, R435). -/
def execSensorSample (die : Nat) (temps : List (BitVec 16)) (s : State) : Host.Outcome State Fault Refusal :=
  .next (
    let now := tick s
    let s := modDie s die fun d => { d with
      temps := (List.zip (List.range 16) temps).foldl (fun t e => Tbl.put 0 t e.1 e.2) d.temps, sensorDue := now + 10 }
    let d := getDie s die
    let s := if (List.range 16).any fun i => decide (thmWarn ≤ sensorOf d i) then { s with pfInts := s.pfInts + 1 } else s
    if d.tripped.isNone && (List.range 16).any fun i => decide (thmTrip ≤ sensorOf d i) then
      modDie s die fun d => { d with tripped := some (now + 1000) }
    else throttleDie s die)

/-- THROTTLE_STOP_END: the cluster restarts at P5, or stops again; after a trip no restart follows (R431, R435). -/
def execThrottleStopEnd (cl : Nat) (s : State) : Host.Outcome State Fault Refusal :=
  .next (match (getCluster s cl).throttle with
    | .stopped due =>
      if tick s < due || (getDie s (cl / 9)).tripped.isSome then s
      else if thmThrottle ≤ sensorOf (getDie s (cl / 9)) (getCluster s cl).sensor then
        modCluster s cl fun c => { c with throttle := .stopped (due + 1000) }
      else modCluster s cl fun c => { c with throttle := .hold (due + 200), cycTime := s.time }
    | _ => s)

/-- The point to which a cluster goes after a throttle: its held or chosen point, or the cap of its sensor (R431). -/
def afterThrottle (c : Cluster) (d : Die) : Nat :=
  max (if c.held ≠ 7 then c.held else if c.mode then c.req else c.before) (capOf (sensorOf d c.sensor))

/-- THROTTLE_HOLD_END: the cluster steps to its point (R431). -/
def execThrottleHoldEnd (cl : Nat) (s : State) : Host.Outcome State Fault Refusal :=
  .next (match (getCluster s cl).throttle with
    | .hold due =>
      if tick s < due then s
      else
        let p := afterThrottle (getCluster s cl) (getDie s (cl / 9))
        modCluster (setPoint (modCluster s cl fun c => { c with throttle := .run }) cl p) cl recovered
    | _ => s)

/-- Whether a grid has a team on a die. -/
def onDie (s : State) (gid die : Nat) : Bool := (teamsOf s gid).any fun e => dieOf e.1 == die

/-- Resets a context whose die has tripped: STATUS RESET, device blame for a BOUND context; a prediction is discarded (R365, R430). -/
def tripGrid (s : State) (gid : Nat) : State :=
  match getGrid s gid with
  | none => s
  | some g =>
    if running s gid then discard s gid 8
    else terminate (if g.loose then s else blame s gid .device) gid 2

/-- DIE_POWER_OFF: the rails of a tripped die are off, at some moment within 1,000 ticks, and its contexts end by reset (R430). -/
def execDiePowerOff (die : Nat) (s : State) : Host.Outcome State Fault Refusal :=
  .next (match (getDie s die).tripped with
    | none => s
    | some _ =>
      if (getCluster s (9 * die)).throttle = .off then s
      else
        let s := ((s.grids.map (·.1)).filter fun i => onDie s i die).foldl tripGrid s
        let s := ((allCores.filter fun k => dieOf k == die).flatMap fun k => [(k, 0), (k, 1)]).foldl (fun s e =>
          if (teamAt (getCore s e.1) e.2).isSome then releaseTeam s e.1 e.2 else s) s
        (List.range 9).foldl (fun s c => modCluster s (9 * die + c) fun x => { x with
          cycBase := cyclesAt x s.time, throttle := .off, change := .none }) s)

/-- HBM_TEMP_SAMPLE, every 32,000 ticks: the refresh mode, and the hold of traffic from 105 °C down to 103 °C (R341, R432). -/
def execHbmTempSample (die stack : Nat) (temp : Byte) (s : State) : Host.Outcome State Fault Refusal :=
  let now := tick s
  .next (modDie s die fun d => { d with hbmStacks := Tbl.upd {} d.hbmStacks stack fun x =>
    let held := if 105 ≤ temp.toNat then true else if temp.toNat ≤ 103 then false else x.held
    { x with temp := temp, held := held, tempDue := now + 32000, rfsh := if held then 3 else if temp.toNat ≤ 85 then 0 else if temp.toNat ≤ 95 then 1 else 2 } })

end Sys2Proof.Machine
end

