-- ==== Sys2Proof/Machine/Queues.lean ====
section
/-! DEFINITION. Queues: signal stores and hardware slots (R331 to R334), event rings and interrupts (R350), the end of a reservation (R347), MARK and
BADCMD (R335, R336). -/
namespace Sys2Proof.Machine

/-! ## Places -/

/-- The number of queue `q` of an interface. -/
def queueKey (vi q : Nat) : Nat := vi * 1024 + q

def queueVi (k : Nat) : Nat := k / 1024

def getQueue (s : State) (k : Nat) : Option Queue := Tbl.get none s.queues k

def modQueue (s : State) (k : Nat) (f : Queue → Queue) : State :=
  match getQueue s k with
  | some q => { s with queues := Tbl.set s.queues k (some (f q)) }
  | none => s

/-- The hub, as a holder, that serves a queue: that of its slot, else hub 0. -/
def queueHub (q : Queue) : Nat := match q.slot with | some n => slotHub n | none => hub0

/-! ## Pinned pages (R238, R347) -/

/-- The leaf entry of a page with PIN as given, written by hub 0. -/
def setPin (s : State) (l : Leaf) (on : Bool) : State :=
  let w := viewNat s hub0 l.entry 8
  writeEntry s l (w - w / 4 % 2 * 4 + (if on then 4 else 0))

/-- Whether a reservation of an interface pins a page. -/
def pinnedBy (s : State) (vi base : Nat) : Bool := s.reservations.any fun r => r.vi == vi && r.pinned.contains base

/-- Clears PIN on a page that no reservation pins any longer. -/
def unpinPage (vi : Nat) (s : State) (base : Nat) : State :=
  if pinnedBy s vi base then s
  else match walkTree s vi base with
    | some l => setPin s l false
    | none => s

/-- Ends the reservation of a quotation: its pairs, points, shares and pins go (R347). -/
def endReservation (s : State) (qid : DWord) : State :=
  match s.reservations.find? (·.qid == qid) with
  | none => s
  | some r =>
    let s := { s with reservations := s.reservations.filter (·.qid != qid) }
    let s := r.pinned.foldl (unpinPage r.vi) s
    ((r.pairs.map fun p => clusterOf (2 * p)).eraseDups).foldl letPoint s

/-- A grid whose completion record is written is gone (R347, R349). -/
def endGrid (s : State) (gid : Nat) : State :=
  match getGrid s gid with
  | none => s
  | some g => let s := freeShadows (endReservation s g.qid) gid; { s with grids := Tbl.erase s.grids gid }

/-! ## Event rings (R349, R350) -/

/-- The descriptor through which a record is written: the one that its grid holds (R332). -/
def ringOf (s : State) (q : Queue) (e : EvRec) : QDescr :=
  match e.grid.bind (getGrid s) with
  | some g => g.qdescr.getD q.descr
  | none => q.descr

/-- Whether an event ring has room for a record, by the descriptor through which it is written (log entry 67). -/
def ringRoom (s : State) (q : Queue) (e : EvRec) : Bool := decide (q.evIdx - q.taken < 2 ^ (ringOf s q e).elog)

/-- Writes a record to its ring, and then the write index (R350). END of a record that is no grid's is the tick of its writing (R349). -/
def writeRecord (s : State) (k : Nat) (q : Queue) (e : EvRec) : State :=
  let d := ringOf s q e
  let e := if e.grid.isSome then e else { e with end_ := tick s }
  let vi := queueVi k
  let h := queueHub q
  let s := (hubWrite s h vi (d.ebase + 64 * (q.evIdx % 2 ^ d.elog)) (bytesOf (eventRec e) 64)).1
  let s := (hubWrite s h vi d.eidx (bytesOf (q.evIdx + 1) 8)).1
  let now := tick s
  let s := modQueue s k fun q => { q with
    evIdx := q.evIdx + 1, unsig := q.unsig + 1, oldest := if q.unsig = 0 then now else q.oldest }
  match e.grid with
  | some gid => endGrid s gid
  | none => s

/-- A queue's records are written in order while the next one is ready and has room; then the command whose record it was is no longer in processing
(R334, R350). -/
def flushRecords (s : State) (k : Nat) : Nat → State
  | 0 => modQueue s k fun q => if q.posted && q.pending.isEmpty then { q with processing := none, posted := false } else q
  | n + 1 =>
    match getQueue s k with
    | none => s
    | some q =>
      match q.pending with
      | [] => flushRecords s k 0
      | e :: es =>
        if e.ready && ringRoom s q e then flushRecords (writeRecord (modQueue s k fun q => { q with pending := es }) k q e) k n else s

/-- Writes what can be written. -/
def flushQueue (s : State) (k : Nat) : State :=
  match getQueue s k with
  | some q => flushRecords s k (q.pending.length + 1)
  | none => s

/-- Hands over a record in its place (R350) (log entry 66). -/
def post (s : State) (k : Nat) (e : EvRec) : State := flushQueue (modQueue s k fun q => { q with pending := q.pending ++ [e] }) k

/-- Hands over the record of the command in processing. -/
def postLast (s : State) (k : Nat) (p : Packet) (e : EvRec) : State :=
  post (modQueue s k fun q => { q with processing := some p, posted := true }) k e

/-- EVENT_RECORD_DEFERRED: the ring's reader has taken records, a free number of them, and what waits is written (R350). -/
def execEventRecordDeferred (q : Nat) (s : State) : Host.Outcome State Fault Refusal :=
  .next (match getQueue s q with
    | none => s
    | some x =>
      match x.pending with
      | [] => s
      | e :: _ =>
        if !e.ready || ringRoom s x e then s
        else
          let n := 1 + Config.choose s.freeNo % (x.evIdx - x.taken)
          flushQueue (modQueue { s with freeNo := s.freeNo + 1 } q fun x => { x with taken := x.taken + n }) q)

/-- Raises a queue's interrupt, which signals every unsignalled record (R350). -/
def raiseQueue (s : State) (k : Nat) (q : Queue) : State :=
  let s := modVi s (queueVi k) fun v => { v with vectors := v.vectors ++ [q.descr.vec] }
  modQueue s k fun q => { q with unsig := 0 }

/-- EVENT_INTERRUPT_COUNT (R350). -/
def execEventInterruptCount (q : Nat) (s : State) : Host.Outcome State Fault Refusal :=
  .next (match getQueue s q with
    | some x => if 0 < x.unsig && x.descr.ccount ≤ x.unsig then raiseQueue s q x else s
    | none => s)

/-- EVENT_INTERRUPT_TIMER (R350). -/
def execEventInterruptTimer (q : Nat) (s : State) : Host.Outcome State Fault Refusal :=
  .next (match getQueue s q with
    | some x => if x.descr.cticks ≠ 0 && 0 < x.unsig && decide (x.oldest + x.descr.cticks ≤ tick s) then raiseQueue s q x else s
    | none => s)

/-! ## Signal stores and slots (R331 to R334) -/

/-- The queue that a slot of the 256 holds. -/
def slotQueue (s : State) (n : Nat) : Option Nat := s.queues.findSome? fun e => match e.2 with
  | some q => if q.slot == some n then some e.1 else none
  | none => none

/-- The lowest free slot. -/
def freeQueueSlot (s : State) : Option Nat := (List.range 256).find? fun n => (slotQueue s n).isNone

/-- The mapped queue that was least recently signalled among those with no command in processing. -/
def oldestQueue (s : State) : Option (Nat × Queue) :=
  s.queues.foldl (fun best e => match e.2 with
    | some q =>
      if q.slot.isNone || q.processing.isSome then best
      else (match best with
        | none => some (e.1, q)
        | some b => if q.lastSignal < b.2.lastSignal then some (e.1, q) else best)
    | none => best) none

/-- A queue gives up its slot; nothing else of it is lost (R332). -/
def unmapQueue (s : State) (k : Nat) : State := modQueue s k fun q => { q with slot := none }

/-- The descriptor of a queue as a hub reads it; none where it cannot be mapped (R331). -/
def readDescr (s : State) (vi q hub : Nat) : Option QDescr × State :=
  let addr := (Tbl.get 0 (getVi s vi).qtable q).toNat
  let r := hubRead s hub vi addr 64
  let d := qdescrOf (natOf r.1)
  if (vaKey s vi addr).isNone || !d.ok then (none, s) else (some d, r.2)

/-- Maps a queue on a slot by its descriptor. -/
def mapOn (s : State) (vi q slot : Nat) (val : DWord) (d : QDescr) : State :=
  let k := queueKey vi q
  let now := tick s
  match getQueue s k with
  | some _ => modQueue s k fun x => { x with descr := d, slot := some slot, prod := val.toNat, lastSignal := now }
  | none => { s with queues := Tbl.set s.queues k (some
      { descr := d, slot := some slot, prod := val.toNat, cons := 0, lastSignal := now, processing := none, posted := false, evIdx := 0,
        taken := 0, unsig := 0, oldest := 0, pending := [], history := [], lastBound := none,
        predicted := false }) }

/-- A newer signal store of a queue takes the place of one that waits. -/
def dropWaiting (s : State) (vi q : Nat) : State := modHub s 0 fun h => { h with waiting := h.waiting.filter fun w => !(w.1 == vi && w.2.1 == q) }

/-- A signal store that waits for a slot, with the hub at which it waits (log entry 68). -/
def deferSignal (s : State) (vi q : Nat) (val : DWord) : State := modHub s 0 fun h => { h with waiting := h.waiting ++ [(vi, q, val)] }

/-- The slot that the next queue is mapped on, and the queue that gives it up: the lowest free slot, else that of the least recently signalled queue without a
command in processing (R332). -/
def nextSlot (s : State) : Option (Nat × Option Nat) :=
  match freeQueueSlot s with
  | some n => some (n, none)
  | none => (oldestQueue s).map fun x => (x.2.slot.getD 0, some x.1)

/-- Maps a queue, or has its signal store wait for a slot (R332); a descriptor that cannot be mapped drops the signal store, and nothing else changes (R331,
R417). -/
def mapQueue (s : State) (vi q : Nat) (val : DWord) : State :=
  match nextSlot s with
  | none => deferSignal (dropWaiting s vi q) vi q val
  | some (n, old) =>
    match readDescr s vi q (slotHub n) with
    | (none, _) => violate s vi 4 (Tbl.get 0 (getVi s vi).qtable q).toNat
    | (some d, t) =>
      let t := dropWaiting t vi q
      mapOn (match old with | some k => unmapQueue t k | none => t) vi q n val d

/-- DOORBELL_SIGNAL_STORE (R331, R332). -/
def execDoorbellSignalStore (vi q : Nat) (val : DWord) (s : State) : Host.Outcome State Fault Refusal :=
  .next (
    let now := tick s
    match getQueue s (queueKey vi q) with
    | some x =>
      if x.slot.isSome then modQueue s (queueKey vi q) fun x => { x with prod := val.toNat, lastSignal := now } else mapQueue s vi q val
    | none => mapQueue s vi q val)

/-- QUEUE_SLOT_MAP_DEFERRED: a waiting signal store maps its queue once some queue has no command in processing (R332). -/
def execQueueSlotMapDeferred (hub : Nat) (s : State) : Host.Outcome State Fault Refusal :=
  .next (match (getHub s hub).waiting with
    | [] => s
    | (vi, q, val) :: ws =>
      if (freeQueueSlot s).isNone && (oldestQueue s).isNone then s
      else mapQueue (modHub s hub fun h => { h with waiting := ws }) vi q val)

/-- CP_IDLE_TIMEOUT of a hub: 0 is treated as 1 (R333). -/
def idleTicks (s : State) (slot : Nat) : Nat := max 1 (getHub s (slot / 128)).idleTimeout.toNat

/-- QUEUE_IDLE_TIMEOUT (R332). -/
def execQueueIdleTimeout (slot : Nat) (s : State) : Host.Outcome State Fault Refusal :=
  .next (match slotQueue s slot with
    | none => s
    | some k =>
      match getQueue s k with
      | some q => if q.processing.isNone && decide (q.lastSignal + idleTicks s slot ≤ tick s) then unmapQueue s k else s
      | none => s)

/-- VI_QTABLE_WRITE: a changed entry clears the queue's history (R331, R360). -/
def execViQtableWrite (vi q : Nat) (val : DWord) (s : State) : Host.Outcome State Fault Refusal :=
  .next (
    let same := Tbl.get 0 (getVi s vi).qtable q == val
    let s := modVi s vi fun v => { v with qtable := Tbl.put 0 v.qtable q val }
    if same then s else modQueue s (queueKey vi q) fun x => { x with history := [] })

/-! ## Commands (R334 to R336) -/

/-- The packet that a mapped queue takes next, if it may take one (R334). -/
def nextPacket (s : State) (k : Nat) : Option (Packet × State) :=
  match getQueue s k with
  | none => none
  | some q =>
    if q.slot.isNone || q.processing.isSome || q.prod % 2 ^ 64 = q.cons % 2 ^ 64 then none
    else
      let r := hubRead s (queueHub q) (queueVi k) (q.descr.cbase + 64 * (q.cons % 2 ^ q.descr.clog)) 64
      some (packetOf (natOf r.1), r.2)

/-- Whether a packet is skipped (R335) (log entry 64). -/
def badPacket (p : Packet) : Bool := p.mbz || p.opc == 0 || decide (5 < p.opc)

/-- A command is taken: `f` goes on from there with the packet; a packet of another kind is left where it is. -/
def takeCommand (s : State) (k : Nat) (want : Packet → Bool) (f : Packet → State → State) : State :=
  match nextPacket s k with
  | none => s
  | some (p, s') => if want p then f p (modQueue s' k fun q => { q with cons := (q.cons + 1) % 2 ^ 64 }) else s

/-- Whether a packet is a good one with an OPC. -/
def isCommand (opc : Nat) (p : Packet) : Bool := !badPacket p && p.opc == opc

/-- BADCMD (R335). -/
def execBadcmd (q : Nat) (s : State) : Host.Outcome State Fault Refusal :=
  .next (takeCommand s q badPacket fun p s => post s q { status := 0x24, tag := p.tag, qid := 0, grid := none })

/-- DECLINE: the queue's own quotation is dropped; any other is unknown, and posts QUNKNOWN (R336) (log entry 65). -/
def execDecline (q : Nat) (s : State) : Host.Outcome State Fault Refusal :=
  .next (takeCommand s q (isCommand 3) fun p s =>
    match s.quotes.find? (·.qid == p.arg) with
    | some x =>
      if queueKey x.vi x.q ≠ q then postLast s q p { status := 0x22, tag := p.tag, qid := p.arg, grid := none }
      else if x.status = 0 && !x.taken then { s with quotes := s.quotes.map fun y => if y.qid = p.arg then { y with dead := true } else y }
      else s
    | none => postLast s q p { status := 0x22, tag := p.tag, qid := p.arg, grid := none })

/-- MARK is taken and in processing until its record is written (R334, R336). -/
def execMark (q : Nat) (s : State) : Host.Outcome State Fault Refusal :=
  .next (takeCommand s q (isCommand 5) fun p s => modQueue s q fun x => { x with processing := some p, posted := false })

/-- MARK_POST: every earlier record is written. The completion record of a grid comes after its writes have met the FENCE.SYS condition, so scope 110 asks
for nothing more (R273, R336). -/
def execMarkPost (q : Nat) (s : State) : Host.Outcome State Fault Refusal :=
  .next (match getQueue s q with
    | none => s
    | some x =>
      match x.processing with
      | none => s
      | some p =>
        if p.opc ≠ 5 || x.posted || !x.pending.isEmpty then s
        else postLast s q p { status := 0x10, tag := p.tag, qid := BitVec.ofNat 64 (fieldAt p.arg.toNat 0 32), grid := none })

end Sys2Proof.Machine
end

