-- ==== Sys2Proof/Machine/Costs.lean ====
section
/-! DEFINITION. The figures of each word: issue cycles, latency and energy class (R52, R55, R56, R84, R117, R141, R163, R202, R229, R230, R261,
R276, R300, R325). -/
namespace Sys2Proof.Machine

/-- The figures of a word: issue cycles, latency in cycles, and the energy class in tenths of a pJ per lane at 0.70 V. -/
structure Cost where
  issue : Nat
  lat : Nat
  energy : Nat
  deriving DecidableEq, Repr

/-- The energy classes (R56), in tenths of a pJ per lane. -/
def e1 : Nat := 3
def e2 : Nat := 8
def e3 : Nat := 15
def e4 : Nat := 40

/-- The figures of a pairable operation (R117, R141). -/
def POp.cost : POp → Cost
  | .imul | .imulh _ | .imad => ⟨1, 6, e3⟩
  | .idot4 _ _ => ⟨1, 5, e3⟩
  | .fadd _ _ | .fsub _ _ | .fmul _ _ | .ffma _ _ | .fmin _ _ | .fmax _ _ | .fset _ _ | .fclass | .frnd _ _ | .fscale _ _ => ⟨1, 4, e3⟩
  | .hadd2 _ _ _ | .hmul2 _ _ _ | .hfma2 _ _ _ | .hmin2 _ _ _ | .hmax2 _ _ _ | .fdot2 _ _ _ => ⟨1, 5, e3⟩
  | .cvt d s _ _ _ => if d = .f64 || s = .f64 then ⟨2, 8, e4⟩ else ⟨1, 4, e2⟩
  | _ => ⟨1, 4, e2⟩

/-- The conflict degree that a word declares (R210). -/
def declaredDegree : Cb → Nat
  | .c1 => 1
  | .c2 => 2
  | .c4 => 4
  | .c32 => 32

/-- The figures of a word at its declared bounds (R230). -/
def Instr.cost (i : Instr) : Cost :=
  match i.pop with
  | some (p, _) => POp.cost p
  | none =>
    match i with
    | .pairedWord x y =>
      let a := POp.cost x.op
      let b := POp.cost y.op
      ⟨1, max a.lat b.lat, a.energy + b.energy⟩
    | .movi _ _ _ | .pset _ => ⟨1, 4, e2⟩
    | .iadd64 _ | .isub64 _ | .imad64 _ | .shl64 _ | .shr64 _ _ | .iset64 _ _ _ => ⟨2, 6, e3⟩
    | .gadd _ | .gsub _ | .gmul _ | .gmad _ | .gand _ | .gor _ | .gxor _ | .gshl _ | .gshr _ _ | .gmin _ _ | .gmax _ _
    | .gset _ _ _ | .gsel _ | .gmov _ | .gmovi _ _ _ | .grd _ => ⟨1, 3, e1⟩
    | .gld _ | .gst _ => ⟨1, 12, e1⟩
    | .dadd _ _ _ | .dmul _ _ _ | .dfma _ _ _ | .dmin _ _ _ | .dmax _ _ _ | .dset _ _ _ => ⟨2, 8, e4⟩
    | .ndot4 _ _ _ _ _ _ _ _ => ⟨1, 5, e3⟩
    | .rcp _ _ | .rsq _ _ | .sqrt _ _ | .exp2 _ _ | .log2 _ _ | .sin _ _ | .cos _ _ | .tanh _ _ => ⟨4, 18, e4⟩
    | .shfl _ _ | .vote _ _ _ _ | .match_ _ _ => ⟨1, 6, e2⟩
    | .reduce _ _ | .scan _ _ _ | .merge _ => ⟨1, 10, e3⟩
    | .hist _ => ⟨1, 4, e2⟩
    | .bar _ _ _ | .arrive _ _ _ | .waitbar _ _ => ⟨1, 0, e1⟩
    | .ld _ _ c | .st _ _ c => ⟨declaredDegree c, 11 + declaredDegree c, e3⟩
    | .atom _ _ c | .acas _ c => ⟨declaredDegree c, 15 + declaredDegree c, e3⟩
    | .rld _ _ | .rst _ _ | .ratom _ _ => ⟨1, 30, e4⟩
    | .old _ _ | .ost _ _ => ⟨1, 14, e3⟩
    | .fence _ sc => (match sc with | .thread | .group | .team => ⟨1, 0, e1⟩ | _ => ⟨1, 30, e1⟩)
    | .sread _ _ _ | .swrite _ _ _ => ⟨1, 4, e1⟩
    | .rsv _ _ _ => ⟨1, 12, e1⟩
    | .rls _ _ | .tzero _ _ => ⟨1, 3, e1⟩
    | .opfence _ | .mmaw _ | .drainw _ => ⟨1, 0, e1⟩
    | .mma _ _ _ _ _ _ => ⟨2, 40, e1⟩
    | .tmov _ _ _ _ => ⟨1, 6, e2⟩
    | .tset _ _ _ _ => ⟨1, 4, e2⟩
    | .drain _ _ _ _ _ => ⟨1, 0, e1⟩
    | .dpld _ _ _ => ⟨1, 16, e1⟩
    | .fetch _ _ => ⟨1, 24, e1⟩
    | .copy _ _ _ _ _ _ | .fatom _ _ _ _ _ _ | .waitc _ _ _ _ => ⟨1, 0, e1⟩
    | .cntset _ _ _ => ⟨1, 12, e1⟩
    | _ => ⟨1, 0, 0⟩

end Sys2Proof.Machine
end

