-- ==== Sys2Proof/Machine/KernelChecks.lean ====
section
/-! DEFINITION. What the quote engine checks in a kernel's `.text` (R46, R53, R87, R162, R168, R197, R314, R318, R339). -/
namespace Sys2Proof.Machine

/-- Why a quotation is refused: the code of R339, DETAIL and OFFSET. -/
structure Why where
  code : Nat
  detail : Nat := 0
  offset : Nat := 0
  deriving DecidableEq, Repr

/-- The words of a kernel as the checks and the walk see them: each word's offset, the word, and the offset of the next PC. -/
structure Words where
  ws : List (Nat × Instr × Nat)
  tables : List (List Nat)
  bytes : Nat
  back : List Nat := []
  deriving DecidableEq, Repr

def Words.at_ (w : Words) (pc : Nat) : Option (Instr × Nat) := (w.ws.find? fun x => x.1 == pc).map (·.2)

/-- Whether an offset is the start of a word. -/
def Words.starts (w : Words) (pc : Nat) : Bool := w.ws.any fun x => x.1 == pc

/-- Whether a word is guarded: `?p0` is no guard (R28). -/
def guarded (i : Instr) : Bool := i.guard.neg || i.guard.p != 0

/-- Where a word may go: the targets in the same call, then a callee, and whether it may go on. -/
structure Succ where
  same : List Nat
  callee : Option Nat
  on : Bool

/-- Where a word may go, given the callees that may return: a CALL goes on only where its callee does, or where its guard fails (log entry 114). -/
def succIn (tables : List (List Nat)) (back : List Nat) (i : Instr) : Succ :=
  match i with
  | .exit _ | .trap _ _ | .ret _ => ⟨[], none, guarded i⟩
  | .bra _ t => ⟨[t.toNat], none, guarded i⟩
  | .brx _ n _ => ⟨tables.getD n.toNat [], none, guarded i⟩
  | .next _ _ t => ⟨[t.toNat], none, true⟩
  | .call _ t => ⟨[], some t.toNat, guarded i || back.contains t.toNat⟩
  | _ => ⟨[], none, true⟩

def succOf (w : Words) (i : Instr) : Succ := succIn w.tables w.back i

/-- The words that a list of starts reaches in one call. -/
def reachCall (w : Words) (back : List Nat) : Nat → List Nat → List Nat → List Nat
  | 0, _, seen => seen
  | _, [], seen => seen
  | fuel + 1, pc :: todo, seen =>
    if seen.contains pc then reachCall w back fuel todo seen
    else match w.at_ pc with
      | none => reachCall w back fuel todo (pc :: seen)
      | some (i, next) =>
        let s := succIn w.tables back i
        reachCall w back fuel (s.same ++ (if s.on then [next] else []) ++ todo) (pc :: seen)

/-- Steps enough to reach every word: each adds at most its table's entries. -/
def Words.steps (w : Words) : Nat := w.ws.length * (260 + w.ws.length) + 1

/-- The callees of a kernel. -/
def Words.callees (w : Words) : List Nat := (w.ws.filterMap fun x => match x.2.1 with | .call _ t => some t.toNat | _ => none).eraseDups

/-- The callees from which a RET is reached, where the CALLs on the way go on only as `back` says. -/
def Words.returning (w : Words) (back : List Nat) : List Nat :=
  w.callees.filter fun t => (reachCall w back w.steps [t] []).any fun pc => match w.at_ pc with | some (.ret _, _) => true | _ => false

/-- The callees that may return: `n` rounds of `returning`. -/
def Words.returns (w : Words) : Nat → List Nat
  | 0 => []
  | n + 1 => w.returning (w.returns n)

/-- The words of a kernel that the sweep decodes (R87). -/
def kernelWords (k : Kernel) : Words :=
  let w : Words := { ws := (sweepWords k.text k.tables.length).map fun w => (w.1, w.2, nextPc k.text w.1 (lengthAt k.text w.1)),
                     tables := k.tables, bytes := textBytes k.text }
  { w with back := w.returns (w.callees.length + 1) }

/-- Every transfer target that a word names (R162). -/
def targetsOf (w : Words) (i : Instr) : List Nat :=
  match i with
  | .bra _ t | .call _ t | .next _ _ t | .meet _ t => [t.toNat]
  | .brx _ n _ => w.tables.getD n.toNat []
  | _ => []

/-- The first word that fails a test. -/
def firstBad (w : Words) (bad : Nat → Instr → Nat → Bool) : Option Nat := (w.ws.find? fun x => bad x.1 x.2.1 x.2.2).map (·.1)

/-- A LOOP and its NEXT: offsets and counter. -/
structure Span where
  loop : Nat
  next : Nat
  ctr : Nat
  deriving DecidableEq, Repr

/-- The nearest LOOP on a counter below an offset (R162). -/
def loopBelow (w : Words) (off ctr : Nat) : Option Nat :=
  ((w.ws.filter fun x => decide (x.1 < off) && (match x.2.1 with | .loop _ c _ => c.val == ctr | _ => false)).getLast?).map (·.1)

/-- The spans from LOOP to NEXT. -/
def spansOf (w : Words) : List Span :=
  w.ws.filterMap fun x => match x.2.1 with
    | .next _ c _ => (loopBelow w x.1 c).map fun l => ⟨l, x.1, c⟩
    | _ => none

def Span.holds (s : Span) (pc : Nat) : Bool := decide (s.loop < pc) && decide (pc ≤ s.next)

/-- Whether a span lies inside another. -/
def Span.within (b a : Span) : Bool := decide (a.loop < b.loop) && decide (b.next < a.next)

/-- Whether two spans neither nest with different counters nor are disjoint (R162). -/
def clash (a b : Span) : Bool :=
  if a = b then false
  else if b.within a || a.within b then a.ctr == b.ctr
  else !(decide (a.next < b.loop) || decide (b.next < a.loop))

/-- Whether a transfer enters a span from outside (R162). -/
def intrudes (w : Words) (ss : List Span) (off : Nat) (i : Instr) : Bool :=
  match i with
  | .meet _ _ => false
  | _ => (targetsOf w i).any fun t => ss.any fun s => s.holds t && !(s.holds off)

/-- The offsets reachable from a list of starts, in the same call and into callees; the flag says that a CALL is around (R162). -/
def reachFrom (w : Words) : Nat → List (Nat × Bool) → List (Nat × Bool) → List (Nat × Bool)
  | 0, _, seen => seen
  | _, [], seen => seen
  | fuel + 1, x :: todo, seen =>
    if seen.contains x then reachFrom w fuel todo seen
    else
      let more := match w.at_ x.1 with
        | none => []
        | some (i, next) =>
          let s := succOf w i
          (s.same.map fun t => (t, x.2)) ++ (match s.callee with | some t => [(t, true)] | none => []) ++ (if s.on then [(next, x.2)] else [])
      reachFrom w fuel (more ++ todo) (x :: seen)

/-- All that a walk from a start may reach. -/
def reachable (w : Words) (start : List (Nat × Bool)) : List (Nat × Bool) := reachFrom w (2 * w.steps + start.length) start []

/-- The first word of a kernel: where `.text` begins, after legal pad blocks (R59). -/
def Words.first (w : Words) : Nat := match w.ws with | x :: _ => x.1 | [] => w.bytes

/-- A RET reachable at depth 0 (R145, detail 10), or a path past the end of `.text` (detail 11): the first in order of offset. -/
def badPath (w : Words) : Option Why :=
  let r := reachable w [(w.first, false)]
  let ret := w.ws.find? fun x => (match x.2.1 with | .ret _ => true | _ => false) && r.contains (x.1, false)
  let past := w.ws.find? fun x => (r.contains (x.1, false) || r.contains (x.1, true)) &&
    (let s := succOf w x.2.1; s.on && !(w.starts x.2.2))
  match ret, past with
  | some a, some b => if a.1 ≤ b.1 then some ⟨4, 10, a.1⟩ else some ⟨4, 11, b.1⟩
  | some a, none => some ⟨4, 10, a.1⟩
  | none, some b => some ⟨4, 11, b.1⟩
  | none, none => if w.ws.isEmpty then some ⟨4, 11, 0⟩ else none

/-- Whether a CALL's callee uses a counter of a loop around the CALL (R162). -/
def counterReused (w : Words) (ss : List Span) (off : Nat) (i : Instr) : Bool :=
  match i with
  | .call _ t =>
    let around := (ss.filter fun s => s.holds off).map (·.ctr)
    let r := (reachable w [(t.toNat, true)]).map (·.1)
    w.ws.any fun x => r.contains x.1 && (match x.2.1 with | .loop _ c _ => around.contains c.val | _ => false)
  | _ => false

/-- A small-immediate barrier count above the team's group count (R197). -/
def badCount (groups : Nat) (i : Instr) : Bool :=
  match i with
  | .bar _ _ (.imm n) | .arrive _ _ (.imm n) => decide (groups < n.toNat)
  | _ => false

/-- A drain program that a word names. -/
def progNamed (i : Instr) : Option Nat :=
  match i with
  | .mma _ _ _ _ _ e => e.dprog.map (·.val)
  | .drain _ _ _ _ e => some e.dprog.val
  | _ => none

/-- The largest budget among a kernel's roles (R39). -/
def maxBudget (k : Kernel) : Nat := ((groupRoles k).map (·.2)).foldl max 0

/-- The first of a list of refusals. -/
def firstOf (l : List (Option Why)) : Option Why := l.findSome? id

/-- A refusal at the first word that fails a test. -/
def refuseAt (w : Words) (code detail : Nat) (bad : Nat → Instr → Nat → Bool) : Option Why := (firstBad w bad).map fun o => ⟨code, detail, o⟩

/-- The checks of a kernel's `.text`, programs and placement (R46, R87, R152, R162, R168, R197, R314, R318). A MEET that does not point forward is
refused as BACKWARD (log entry 115). -/
def checkKernel (k : Kernel) : Option Why :=
  match (sweep k.text k.tables.length).findSome? fun e => match e.2 with | .error d => some (⟨4, d, e.1⟩ : Why) | .ok _ => none with
  | some r => some r
  | none =>
    let w := kernelWords k
    let ss := spansOf w
    let defined := fun p => k.progs.any fun x => x.1 == p
    firstOf
      [refuseAt w 4 11 fun _ i _ => (targetsOf w i).any fun t => !(w.starts t),
       (if k.tables.any fun t => t.any fun x => !(w.starts x) then some ⟨4, 11, 0⟩ else none),
       badPath w,
       refuseAt w 1 0 fun off i _ => (match i with | .bra _ _ | .brx _ _ _ | .meet _ _ => true | _ => false) && (targetsOf w i).any fun t => decide (t ≤ off),
       refuseAt w 2 0 fun off i _ => match i with
         | .next _ c t => (match loopBelow w off c with | some l => decide (t.toNat ≤ l) | none => true)
         | .loop _ _ _ => guarded i
         | .call _ _ => k.depth == 0
         | _ => false,
       ((ss.find? fun b => ss.any fun a => clash a b && decide (a.next < b.next || a.loop < b.loop)).map fun b => ⟨2, 0, b.next⟩),
       refuseAt w 2 0 fun off i _ => intrudes w ss off i,
       refuseAt w 2 0 fun off i _ => counterReused w ss off i,
       refuseAt w 3 0 fun _ i _ => i.overBudget (maxBudget k),
       (if (slotsFor {} k).isNone then some ⟨3, 0, 0⟩ else none),
       refuseAt w 4 0 fun _ i _ => badCount (groupCount k) i,
       refuseAt w 4 0 fun _ i _ => match progNamed i with | some p => !(defined p) | none => false,
       (if k.progs.all fun p => programLegal p.2 defined then none else some ⟨4, 0, 0⟩)]

end Sys2Proof.Machine
end

