-- ==== Sys2Proof/Machine/Charges.lean ====
section
/-! DEFINITION. What the walk charges a path of a group, and the walk of a group (R55, R56, R175, R184, R230, R260, R276, R300, R325). -/
namespace Sys2Proof.Machine

/-! ## Charges (R55, R56, R185) -/

/-- What a path charges its group between two barrier waits: cycles, MMAs, and the issues that R300 charges for other groups' MMAs. -/
structure Phase where
  cyc : Nat := 0
  mmas : Nat := 0
  ops : Nat := 0
  deriving DecidableEq, Repr

def Phase.plus (a b : Phase) : Phase := ⟨a.cyc + b.cyc, a.mmas + b.mmas, a.ops + b.ops⟩
def Phase.times (a : Phase) (n : Nat) : Phase := ⟨n * a.cyc, n * a.mmas, n * a.ops⟩

/-- What a path costs: the phases before its first barrier wait, after its last, and between, each of those with how often it occurs; the barrier
waits; the cycles and ticks of the team's term; the energy of its dearest path (scaled by voltage, and of engine paths, both in tenths of a pJ at
0.70 V); its words; and how often each COPY and FATOM issues. With no barrier wait `first` and `last` are the whole path. -/
structure Charge where
  first : Phase := {}
  last : Phase := {}
  mids : List (Nat × Phase) := []
  bars : Nat := 0
  team : Nat := 0
  ticks : Nat := 0
  core : Nat := 0
  path : Nat := 0
  words : Nat := 0
  cmds : Tbl Nat := []
  deriving DecidableEq, Repr

/-- The phases of a path, each with how often it occurs (R185). -/
def Charge.phases (a : Charge) : List (Nat × Phase) :=
  if a.bars = 0 then [(1, a.first)] else (1, a.first) :: (1, a.last) :: a.mids

/-- All phases of a path together. -/
def Charge.whole (a : Charge) : Phase := a.phases.foldl (fun s p => s.plus (p.2.times p.1)) {}

/-- One path after another. -/
def Charge.then_ (a b : Charge) : Charge :=
  { first := if a.bars = 0 then a.first.plus b.first else a.first,
    last := if b.bars = 0 then a.last.plus b.last else b.last,
    mids := a.mids ++ b.mids ++ (if a.bars = 0 || b.bars = 0 then [] else [(1, a.last.plus b.first)]),
    bars := a.bars + b.bars, team := a.team + b.team, ticks := a.ticks + b.ticks, core := a.core + b.core, path := a.path + b.path,
    words := a.words + b.words, cmds := b.cmds.foldl (fun t e => Tbl.upd 0 t e.1 (· + e.2)) a.cmds }

/-- A path run `n` times. -/
def Charge.times (a : Charge) (n : Nat) : Charge :=
  if n = 0 then {}
  else
    { first := if a.bars = 0 then a.first.times n else a.first,
      last := if a.bars = 0 then a.last.times n else a.last,
      mids := a.mids.map (fun p => (n * p.1, p.2)) ++ (if a.bars = 0 || n == 1 then [] else [(n - 1, a.last.plus a.first)]),
      bars := n * a.bars, team := n * a.team, ticks := n * a.ticks, core := n * a.core, path := n * a.path,
      words := n * a.words, cmds := a.cmds.map fun e => (e.1, n * e.2) }

/-- The charge of a phase without a barrier wait. -/
def Charge.ofPhase (p : Phase) : Charge := { first := p, last := p, words := 1 }

/-- A word of `n` cycles and no energy. -/
def cycles (n : Nat) : Charge := Charge.ofPhase { cyc := n }

/-! ## What the walk knows -/

/-- What the walk knows of a kernel: its words, its call depth, its spans, the point, the ticks and path energy of each engine word, the
length and energy of each drain program, the energy of an MMA, the loops charged one trip, and the loop whose trips are charged elsewhere. -/
structure WalkEnv where
  w : Words
  depth : Nat
  spans : List Span
  point : Nat
  engine : Tbl (Nat × Nat)
  drains : Tbl (Nat × Nat)
  mma : Nat
  once : List Nat
  skip : Option Nat := none

/-- The voltage of a point in units of 10 mV (R423). -/
def voltage (p : Nat) : Nat :=
  match p with
  | 0 => 70 | 1 => 64 | 2 => 59 | 3 => 55 | 4 => 51 | _ => 48

/-- A path's time in time units, and its energy in tenths of a pJ over 4,900. -/
def WalkEnv.time (e : WalkEnv) (c : Charge) : Nat := (c.whole.cyc + c.team) * period e.point + c.ticks * tickUnits
def WalkEnv.energy (e : WalkEnv) (c : Charge) : Nat := c.core * (voltage e.point * voltage e.point) + c.path * 4900

/-- The larger of two paths in time, with the energy of the dearer one and the words of the longer one (R55, R56, R175). -/
def WalkEnv.worse (e : WalkEnv) (a b : Charge) : Charge :=
  let t := if e.time b ≤ e.time a then a else b
  let x := if e.energy b ≤ e.energy a then a else b
  { t with core := x.core, path := x.path, words := max a.words b.words }

/-- The charge of a word that does not branch (R55, R260, R276, R300, R325). -/
def WalkEnv.word (e : WalkEnv) (off : Nat) (i : Instr) : Charge :=
  let c := Instr.cost i
  let x := Tbl.get (0, 0) e.engine off
  let drain := match progNamed i with | some p => Tbl.get (15, 0) e.drains p | none => (0, 0)
  let cyc := c.issue + c.lat
  let base := fun (p : Phase) => { Charge.ofPhase p with core := 32 * c.energy, ticks := x.1, path := x.2 }
  match i with
  | .fetch _ _ | .cntset _ _ _ => { base {} with team := cyc }
  | .copy _ _ _ _ _ _ | .fatom _ _ _ _ _ _ => { base {} with team := cyc, cmds := [(off, 1)] }
  | .waitc _ _ _ n => { base { cyc := cyc } with ticks := n.toNat }
  | .fence _ .dev => { base { cyc := cyc } with ticks := 400 }
  | .fence _ .sys => { base { cyc := cyc } with ticks := 2400 }
  | .bar _ _ _ | .waitbar _ _ => { base { cyc := cyc } with bars := 1, last := {} }
  | .mma _ _ _ _ _ m =>
    let b := base { cyc := cyc + (if m.dprog.isSome then drain.1 + 80 else 0), mmas := 1 }
    { b with core := b.core + e.mma + drain.2 }
  | .drain _ _ _ _ _ =>
    let b := base { cyc := drain.1 + 81, ops := 1 }
    { b with core := b.core + drain.2 }
  | .tmov _ _ _ _ | .tset _ _ _ _ => base { cyc := cyc, ops := 1 }
  | _ => base { cyc := cyc }

/-! ## Joins (R184) -/

/-- The words that a list of starts reaches forward in one call: no NEXT is taken back (log entry 20). -/
def forwardFrom (w : Words) : Nat → List Nat → List Nat → List Nat
  | 0, _, seen => seen
  | _, [], seen => seen
  | fuel + 1, pc :: todo, seen =>
    if seen.contains pc then forwardFrom w fuel todo seen
    else match w.at_ pc with
      | none => forwardFrom w fuel todo (pc :: seen)
      | some (i, next) =>
        let s := succOf w i
        forwardFrom w fuel (s.same.filter (fun t => decide (pc < t)) ++ (if s.on then [next] else []) ++ todo) (pc :: seen)

/-- The first word after `pc` that every arm reaches (R184). -/
def Words.join (w : Words) (pc : Nat) (arms : List Nat) : Option Nat :=
  let rs := arms.map fun a => forwardFrom w w.steps [a] []
  (w.ws.find? fun x => decide (pc < x.1) && rs.all fun r => r.contains x.1).map (·.1)

/-- Whether an index differs between lanes (R184). -/
def perLane : Spec → Bool
  | .v _ | .o _ | .y _ | .c _ => true
  | _ => false

/-- Whether a word is a MEET, under a guard too (R184) (log entry 139). -/
def isMeet : Instr → Bool
  | .meet _ _ => true
  | _ => false

/-- Whether a MEET may issue between a LOOP and its NEXT, in the body or in a callee (R184). -/
def WalkEnv.meetsInside (e : WalkEnv) (s : Span) : Bool :=
  let body := e.w.ws.filter fun x => s.holds x.1
  let callees := body.filterMap fun x => (succOf e.w x.2.1).callee.map fun t => (t, true)
  let r := (reachable e.w callees).map (·.1)
  e.w.ws.any fun x => isMeet x.2.1 && (s.holds x.1 || r.contains x.1)

/-! ## The walk of a group (R55, R184) -/

/-- A way that a part of a kernel may be passed: where it ends, none after an EXIT or a RET, the target of its last MEET, and its charge. -/
structure Way where
  at_ : Option Nat
  met : Option Nat
  cost : Charge
  deriving DecidableEq, Repr

/-- The part of a kernel that is walked: it ends at the words `stops` and from `limit` on. With it the call depth, the return addresses, and whether
splits of guarded NEXTs and CALLs are charged. -/
structure Frame where
  stops : List Nat := []
  limit : Option Nat := none
  d : Nat := 0
  ks : List Nat := []
  tails : Bool := true

/-- Whether a walk ends before a word. -/
def Frame.ends (f : Frame) (pc : Nat) : Bool := f.stops.contains pc || (match f.limit with | some n => decide (n ≤ pc) | none => false)

/-- A charge before each of a list of ways. -/
def after (c : Charge) (ws : List Way) : List Way := ws.map fun x => { x with cost := c.then_ x.cost }

/-- The last MEET of two ways, if they agree (R184). -/
def metBoth (a b : Option Nat) : Option Nat := if a = b then a else none

/-- The ways with one left for each end: the worse of those that end there. -/
def WalkEnv.merge (e : WalkEnv) (ws : List Way) : List Way :=
  ws.foldl (fun acc x =>
    if acc.any fun y => y.at_ == x.at_ then
      acc.map fun y => if y.at_ = x.at_ then ⟨y.at_, metBoth y.met x.met, e.worse y.cost x.cost⟩ else y
    else acc ++ [x]) []

/-- The worst of a list of ways. -/
def WalkEnv.worst (e : WalkEnv) (ws : List Way) : Charge := ws.foldl (fun c x => e.worse c x.cost) {}

/-- The way that ends at a word. -/
def endsAt (ws : List Way) (pc : Nat) : Option Way := ws.find? fun x => x.at_ == some pc

/-- Walks on from each way that ends inside a part. -/
def onward (f : Frame) (run : Frame → Nat → Option Nat → List Way) (ws : List Way) : List Way :=
  ws.flatMap fun x => match x.at_ with
    | some p => if f.ends p then [x] else after x.cost (run f p x.met)
    | none => [x]

/-- The innermost span around a word. -/
def WalkEnv.around (e : WalkEnv) (pc : Nat) : Option Span :=
  (e.spans.filter fun s => s.holds pc).foldl (fun m s => match m with | some t => if t.loop < s.loop then some s else m | none => some s) none

/-- A word and the offset after it, for a LOOP's NEXT: where it goes back to, and where it falls through. -/
def WalkEnv.nextOf (e : WalkEnv) (s : Span) : Option (Instr × Nat × Nat) :=
  (e.w.at_ s.next).map fun x => (x.1, (match x.1 with | .next _ _ t => t.toNat | _ => s.loop), x.2)

/-- The bound of a LOOP. -/
def Words.bound (w : Words) (off : Nat) : Nat := match w.at_ off with | some (.loop _ _ b, _) => b.toNat | _ => 0

/-- The worst path from a word to EXIT: to the end of each loop around it, whose remaining trips follow, and through the calls around it. The
guarded NEXTs and CALLs ahead of the word charge their own splits in it; those that only a further trip of a loop around it reaches do not
(R184) (log entry 58). -/
def WalkEnv.tail (e : WalkEnv) (run : Frame → Nat → Option Nat → List Way) : Nat → Nat → Nat → List Nat → Option Nat → Charge
  | 0, _, _, _, _ => {}
  | fuel + 1, pc, d, ks, mt =>
    let back := fun (c : Charge) (mt : Option Nat) => match ks with
      | k :: rest => c.then_ (e.tail run fuel k (d - 1) rest mt)
      | [] => c
    let part : Frame := { d := d, ks := ks }
    match e.around pc with
    | none => (run part pc mt).foldl (fun c x => e.worse c (back x.cost x.met)) {}
    | some s =>
      match e.nextOf s with
      | none => {}
      | some (_, start, out) =>
        let loop : Frame := { part with stops := [s.next], limit := some s.next }
        let trip := (cycles 3).then_ (e.worst (run { loop with tails := false } start mt))
        (run loop pc mt).foldl (fun c x => e.worse c (match x.at_ with
          | none => back x.cost x.met
          | some p =>
            if p = s.next then
              (x.cost.then_ ((trip.times (e.w.bound s.loop - 1)).then_ (cycles 1))).then_ (e.tail run fuel out d ks x.met)
            else x.cost.then_ (e.tail run fuel p d ks x.met))) {}

/-- The arms of a split that all issue, up to their join; an arm that leaves a loop is followed to the join as well (R184). -/
def WalkEnv.split (e : WalkEnv) (run : Frame → Nat → Option Nat → List Way) (f : Frame) (pc : Nat) (arms : List Nat) (mt : Option Nat) : List Way :=
  let j := e.w.join pc arms
  let inner : Frame := { f with stops := j.toList ++ f.stops }
  let far : Frame := { inner with limit := none }
  let parts := arms.map fun a => onward far run (run inner a mt)
  let all := parts.foldl (fun c p => c.then_ (e.worst p)) (cycles 3)
  let ends := e.merge parts.flatten
  let rest := match j with
    | some a => if f.ends a then [] else (match endsAt ends a with | some x => run f a x.met | none => [])
    | none => []
  let others := ends.filter fun x => x.at_ != none && (rest.isEmpty || x.at_ != j)
  if rest.isEmpty && others.isEmpty then [⟨none, none, all⟩]
  else after all rest ++ others.map fun x => { x with cost := all.then_ (e.worst rest) }

/-- The arms of a branch of which one issues (R55). -/
def WalkEnv.choice (e : WalkEnv) (run : Frame → Nat → Option Nat → List Way) (f : Frame) (pc : Nat) (arms : List Nat) (mt : Option Nat) : List Way :=
  let inner : Frame := { f with stops := (e.w.join pc arms).toList ++ f.stops }
  after (cycles 3) (onward f run (e.merge (arms.flatMap fun a => run inner a mt)))

/-- A LOOP with its trips (R55, R184). -/
def WalkEnv.loop (e : WalkEnv) (run : Frame → Nat → Option Nat → List Way) (f : Frame) (pc next : Nat) (mt : Option Nat) (s : Span)
    (nx : Instr) (start out : Nat) : List Way :=
  let body : Frame := { f with stops := s.next :: f.stops, limit := some s.next }
  let one := run body next mt
  let leave := fun (ws : List Way) => ws.filter fun x => x.at_ != some s.next
  match endsAt one s.next with
  | none => onward f run (after (cycles 1) one)
  | some a =>
    let b := if e.once.contains pc then 1 else e.w.bound pc
    let more := run body start a.met
    let c := (endsAt more s.next).getD a
    let trips := fun (n : Nat) => (cycles 1).then_ (a.cost.then_ (((cycles 3).then_ c.cost).times n))
    let met := mt == some out && !(e.meetsInside s)
    let extra := if guarded nx && !met && f.tails then (e.tail run e.w.steps out f.d f.ks c.met).times (e.w.bound pc - 1) else {}
    let ways :=
      if e.skip = some pc then ⟨some out, c.met, (cycles 1).then_ (cycles 1)⟩ :: (leave (one ++ more)).map fun x => { x with cost := cycles 1 }
      else after (cycles 1) (leave one) ++ (if b ≤ 1 then [] else after ((trips (b - 2)).then_ (cycles 3)) (leave more)) ++
        [⟨some out, if b ≤ 1 then a.met else c.met, (trips (b - 1)).then_ (cycles 1)⟩]
    onward f run (after extra (e.merge ways))

/-- The ways through a part of a kernel from a word, whose last MEET had the target `mt` (R55, R184). -/
def WalkEnv.run (e : WalkEnv) : Nat → Frame → Nat → Option Nat → List Way
  | 0, _, _, mt => [⟨none, mt, {}⟩]
  | fuel + 1, f, pc, mt =>
    if f.ends pc then [⟨some pc, mt, {}⟩]
    else match e.w.at_ pc with
    | none => [⟨none, mt, {}⟩]
    | some (i, next) =>
      let run := e.run fuel
      let go := fun (c : Charge) (pc : Nat) (mt : Option Nat) => after c (run f pc mt)
      e.merge (match i with
      | .exit _ | .trap _ _ => if guarded i then go (cycles 1) next mt else [⟨none, mt, cycles 1⟩]
      | .ret _ => if guarded i then go (cycles 4) next mt else [⟨none, mt, cycles 4⟩]
      | .meet _ t => go (cycles 1) next (some t.toNat)
      | .loop _ _ _ =>
        (match (e.spans.find? fun s => s.loop == pc).bind fun s => (e.nextOf s).map fun x => (s, x) with
        | none => go (cycles 1) next mt
        | some (s, nx, start, out) => e.loop run f pc next mt s nx start out)
      | .call _ t =>
        if e.depth ≤ f.d then (if guarded i then go (cycles 1) next mt else [⟨none, mt, cycles 1⟩])
        else
          let body := run { d := f.d + 1, ks := next :: f.ks, tails := f.tails } t.toNat mt
          let met := body.foldl (fun m x => if m = some x.met || m = none then some x.met else some none) (none : Option (Option Nat))
          let c := (cycles 4).then_ (e.worst body)
          let c := if guarded i && mt != some next && f.tails then c.then_ (e.tail run e.w.steps next f.d f.ks (met.getD none)) else c
          go c next (met.getD none)
      | .bra _ t => if guarded i then e.split run f pc [t.toNat, next] mt else go (cycles 3) t.toNat mt
      | .brx _ n a =>
        let arms := e.w.tables.getD n.toNat [] ++ (if guarded i then [next] else [])
        if perLane a then e.split run f pc arms mt else e.choice run f pc arms mt
      | .next _ _ _ => go (cycles 1) next mt
      | i => go (e.word pc i) next mt)

/-- Enough steps for any path of a kernel: its words in each of the frames that calls nest. -/
def Words.fuel (w : Words) : Nat := 64 * (w.ws.length + 1)

/-- The walk of a group from the first word. -/
def WalkEnv.all (e : WalkEnv) : Charge := e.worst (e.run e.w.fuel {} e.w.first none)

/-- One trip of a loop, from its first body word through a taken NEXT (R342). -/
def WalkEnv.trip (e : WalkEnv) (s : Span) : Charge :=
  let start := match e.w.at_ s.loop with | some x => x.2 | none => 0
  (e.worst (e.run e.w.fuel { stops := [s.next], limit := some s.next } start none)).then_ (cycles 3)

/-! ## The team's term (R185, R300) -/

/-- The costs of the groups in a phase: each issue that R300 charges costs 16 cycles more for every MMA of the other groups. -/
def phaseCosts (groups : List Phase) : List Nat :=
  let m := (groups.map (·.mmas)).sum
  groups.map fun p => p.cyc + 16 * p.ops * (m - p.mmas)

/-- The largest sum of costs of the groups that one slot holds (R185). -/
def slotMax (slots costs : List Nat) : Nat :=
  ((List.range 4).map fun i => ((List.zip slots costs).filterMap fun x => if x.1 = i then some x.2 else none).sum).foldl max 0

/-- The cycles of a team whose groups' paths are cut into the same phases, given phase by phase with how often each occurs: the largest slot sum of
each phase where every barrier wait is a BAR, else the costs of all groups (R185). -/
def teamCycles (barsOnly : Bool) (slots : List Nat) (cols : List (Nat × List Phase)) : Nat :=
  if barsOnly then (cols.map fun c => c.1 * slotMax slots (phaseCosts c.2)).sum
  else
    let zero := slots.map fun _ => ({} : Phase)
    (phaseCosts (cols.foldl (fun t c => List.zipWith Phase.plus t (c.2.map fun p => p.times c.1)) zero)).sum

/-- Whether every barrier wait of a kernel is a BAR (R185). -/
def onlyBars (w : Words) : Bool := !(w.ws.any fun x => match x.2.1 with | .waitbar _ _ => true | _ => false)

/-- The slots of a kernel's groups on an empty core (R167). -/
def slotsOfKernel (k : Kernel) : List Nat := (slotsFor {} k).getD []

/-- The groups on the fullest slot, which is the number of waves (R181, R185). -/
def fullest (k : Kernel) : Nat := ((List.range 4).map fun i => ((slotsOfKernel k).filter (· == i)).length).foldl max 0

/-- A path as a team's term: cycles and ticks. Every group has the kernel's worst path (R181, R185). -/
def teamTerm (w : Words) (k : Kernel) (slope : Nat) (c : Charge) : Nat × Nat :=
  let l := max 1 slope
  (teamCycles (onlyBars w) (slotsOfKernel k) (c.phases.map fun p => (p.1, List.replicate (groupCount k) p.2)) + c.team,
   c.ticks + c.bars * (fullest k - 1) * ((12000 + l - 1) / l))

end Sys2Proof.Machine
end

