-- ==== Sys2Proof/Machine/Walk.lean ====
section
/-! DEFINITION. The quote engine's walk of a kernel: constants, engine words, drains, MMAs and regions, and the walk assembled (R163, R238, R241, R259,
R260, R301, R325, R326, R342, R457, R458, R460). -/
namespace Sys2Proof.Machine

/-! ## Constants (R457) -/

/-- The words that may come before a word. -/
def Words.preds (w : Words) (pc : Nat) : List Nat :=
  (w.ws.filter fun x =>
    let s := succOf w x.2.1
    s.same.contains pc || s.callee == some pc || (s.on && x.2.2 == pc)).map (·.1)

/-- What a word does to a g register: nothing, a constant, or something else. -/
inductive GDef where
  | none | const (v : Word) | other
  deriving DecidableEq, Repr

def gdefOf (i : Instr) (n : Nat) : GDef :=
  if i.dests.any fun f => (List.range f.n).any fun d => (match specPlus f.sp d with | .g m => m.val == n | _ => false) then
    match i with
    | .gmovi _ _ v => if guarded i then .other else .const v
    | .gmov o => (match o.a with | .sp (.imm v) => if guarded i then .other else .const (v.signExtend 32) | _ => .other)
    | _ => .other
  else .none

/-- Whether a CALL's callee writes a g register. -/
def calleeWrites (w : Words) (n : Nat) (i : Instr) : Bool :=
  match i with
  | .call _ t =>
    let r := (reachable w [(t.toNat, true)]).map (·.1)
    w.ws.any fun x => r.contains x.1 && gdefOf x.2.1 n != .none
  | _ => false

/-- The constants that a g register may hold before a word: none where some path gives another value. -/
def constsAt (w : Words) (n : Nat) : Nat → List Nat → List Nat → List Word → Option (List Word)
  | 0, _, _, _ => none
  | _ + 1, [], _, acc => some acc
  | fuel + 1, pc :: todo, seen, acc =>
    if seen.contains pc then constsAt w n fuel todo seen acc
    else if pc = w.first then none
    else
      let ps := w.preds pc
      let defs := ps.filterMap fun p => (w.at_ p).map fun x => (p, if calleeWrites w n x.1 then GDef.other else gdefOf x.1 n)
      if defs.any fun x => x.2 == .other then none
      else
        let vs := defs.filterMap fun x => match x.2 with | .const v => some v | _ => none
        let on := (defs.filter fun x => x.2 == .none).map (·.1)
        constsAt w n fuel (on ++ todo) (pc :: seen) (acc ++ vs)

/-- The value of a uniform operand of a word where the walk can fix it (R457). -/
def fixedValue (w : Words) (pc : Nat) (sp : Spec) : Option Nat :=
  match sp with
  | .imm v => some (v.signExtend 32).toNat
  | .zero => some 0
  | .g n =>
    (match constsAt w n.val (w.ws.length * (w.ws.length + 2) + 1) [pc] [] [] with
    | some (v :: vs) => if vs.all (· == v) then some v.toNat else none
    | _ => none)
  | _ => none

/-! ## Engine words (R163, R259, R260, R457, R460) -/

/-- What the walk is given beside the kernel: the descriptor, the argument block, the point, the h of each die of the grant in hundredths, the smallest wave
rate, the place of each page of the interface, and the die whose teams are charged. -/
structure WalkIn where
  descr : Descr
  args : List DWord
  point : Nat
  h : List (Nat × Nat)
  slope : Nat
  place : Nat → Option Nat
  die : Nat

/-- β′ of the engines of the die whose teams are charged, by that die's h (R341). -/
def WalkIn.hNow (x : WalkIn) : Nat := match x.h.find? fun e => e.1 == x.die with | some e => e.2 | none => 100
def WalkIn.bwc (x : WalkIn) : Nat := shareOf x.descr.bwc x.hNow
def WalkIn.bws (x : WalkIn) : Nat := shareOf x.descr.bws x.hNow

/-- Where a page lies for the teams of the die: a page that is not valid is charged as the die's own (R460). -/
def WalkIn.loc (x : WalkIn) (page : Nat) : Nat := match x.place page with | some p => locFrom x.die p | none => 0

/-- E(c) with each page at one location (R259, R405). -/
def engineTime (bytes share pages loc : Nat) : Nat := 200 + (bytes + share - 1) / share + pages * (250 + locTicks loc)

/-- The shape record that a COPY is fixed to: its address holds 128 bytes of `.data` (R457). -/
def fixedRecord (w : Words) (k : Kernel) (pc : Nat) (shape : Spec) : Option ShapeRec :=
  match fixedValue w pc shape with
  | some a => if a % 128 = 0 && a + 128 ≤ k.data.length then some (shapeRec (natAt k.data a 128)) else none
  | none => none

/-- The charge of a COPY: bytes, pages and location (R457, R460) (log entries 27 and 56). -/
def copyTerms (x : WalkIn) (w : Words) (k : Kernel) (pc : Nat) (shape : Spec) : Nat × Nat × Nat :=
  match fixedRecord w k pc shape with
  | some r => (boxBytes r, maxPages r, x.loc (r.base / 65536))
  | none => (2 ^ 20, 2 ^ 20, 0)

/-- The ticks and path energy of an engine word, but for CNTSET. -/
def engineOf (x : WalkIn) (w : Words) (k : Kernel) (pc : Nat) (i : Instr) : Option (Nat × Nat) :=
  match i with
  | .copy _ _ shape _ _ _ =>
    let (b, p, l) := copyTerms x w k pc shape
    some (engineTime b x.bwc p l, b * locFigure l)
  | .fatom _ _ _ _ _ e => let n := if e.w64 then 8 else 4; some (engineTime n x.bwc 1 0, n * 50)
  | .bbhint _ _ => some (groupCount k * engineTime 8 x.bwc 1 0, 8 * 50)
  | _ => none

def engineTable (x : WalkIn) (w : Words) (k : Kernel) : Tbl (Nat × Nat) :=
  w.ws.filterMap fun y => (engineOf x w k y.1 y.2.1).map fun v => (y.1, v)

/-- The counter operand of a command: none where it names no counter, else its constant, if it has one. -/
def counterOf (w : Words) (pc : Nat) (i : Instr) : Option (Option Nat) :=
  match i with
  | .copy _ _ _ _ c _ | .fatom _ _ _ _ c _ => if c = .zero then none else some (fixedValue w pc c)
  | _ => none

/-- Whether two counter addresses may be the same (R260). -/
def mayName (a b : Option Nat) : Bool :=
  match a, b with
  | some x, some y => x == y
  | _, _ => true

/-- The ticks of a CNTSET: E(c) of every COPY and FATOM issue of the team that may name its counter (R260) (log entry 57). -/
def cntsetTicks (w : Words) (k : Kernel) (eng : Tbl (Nat × Nat)) (cmds : Tbl Nat) (pc : Nat) (ctr : Spec) : Nat :=
  let own := fixedValue w pc ctr
  cmds.foldl (fun n e => match w.at_ e.1 with
    | some (i, _) => (match counterOf w e.1 i with
      | some c => if mayName own c then n + groupCount k * e.2 * (Tbl.get (0, 0) eng e.1).1 else n
      | none => n)
    | none => n) 0

/-- The engine figures with those of CNTSET, given how often the walk issues each command. -/
def withCntset (w : Words) (k : Kernel) (eng : Tbl (Nat × Nat)) (cmds : Tbl Nat) : Tbl (Nat × Nat) :=
  w.ws.foldl (fun t y => match y.2.1 with
    | .cntset _ c _ => Tbl.set t y.1 (cntsetTicks w k eng cmds y.1 c, 0)
    | _ => t) eng

/-! ## Drains and MMAs (R301, R325, R326, R458) -/

/-- The energy of a micro-op per element, in tenths of a pJ (R326). -/
def uEnergy (op : Nat) : Nat :=
  match op with
  | 9 | 10 | 11 | 12 => 8
  | 13 | 14 | 15 | 16 => 3
  | 17 | 18 => 6
  | _ => 2

/-- The length and energy of each drain program; with a DPLD, 15 micro-ops of the dearest kind (R325, R326). -/
def drainTable (w : Words) (k : Kernel) : Tbl (Nat × Nat) :=
  let dpld := w.ws.any fun x => match x.2.1 with | .dpld _ _ _ => true | _ => false
  k.progs.map fun p =>
    let b := body p.2
    (p.1, if dpld then (15, 2048 * 122) else (b.length, 2048 * (2 + (b.map fun u => uEnergy (uOp u)).sum)))

/-- The records of the kernel's RSVs in `.data`; none where some address cannot be fixed (R458). -/
def rsvRecords (w : Words) (k : Kernel) : Option (List RsvRec) :=
  (w.ws.filterMap fun x => match x.2.1 with | .rsv _ _ r => some (x.1, r) | _ => none).foldr (fun x acc =>
    acc.bind fun l => match fixedValue w x.1 x.2 with
      | some a => if a % 16 = 0 && a + 16 ≤ k.data.length then some (rsvRec (natAt k.data a 16) :: l) else none
      | none => none) (some [])

/-- The charged figure of an MMA, in pJ (R458) (log entry 59). -/
def mmaFigure (w : Words) (k : Kernel) : Nat :=
  match rsvRecords w k with
  | none => 8200
  | some rs =>
    let n := (rs.flatMap fun a => (rs.filter fun b => (pairingK a b).isSome).map fun b => pairingPj a b).foldl max 0
    if n = 0 then 8200 else n

/-! ## Regions (R238, R241, R260, R460) -/

/-- The corners of an index space. -/
def corners (d : Descr) : List Tile :=
  [0, d.x - 1].flatMap fun x => [0, d.y - 1].flatMap fun y => [0, d.z - 1].map fun z => ⟨0, x, y, z⟩

/-- The bounding range of a region: its lowest and highest byte over all tiles (R238). -/
def regionRange (d : Descr) (args : List DWord) (r : Region) : Int × Int :=
  let one := fun (t : Tile) =>
    let v := regionVa r (args.getD r.arg 0) t [0, 0, 0]
    let spans := (List.range 3).map fun k => if k ≤ r.ndim then ((r.e.getD k 1 : Int) - 1) * r.s.getD k 0 else 0
    (v + (spans.map fun x => min x 0).sum, v + (spans.map fun x => max x 0).sum + 2 ^ r.elog - 1)
  let cs := (corners d).map one
  let h := cs.headD (0, 0)
  (cs.foldl (fun m c => min m c.1) h.1, cs.foldl (fun m c => max m c.2) h.2)

/-- A region that fails R241: an illegal entry, a half above 1 MiB, an address outside the space, or a footprint past WS. -/
def regionBad (d : Descr) (args : List DWord) (r : Region) : Bool :=
  let x := regionRange d args r
  r.mbz || r.dir == 3 || r.ndim == 3 || decide (2 ^ 20 < r.half) || decide (x.1 < 0) || decide (2 ^ 57 ≤ x.2) ||
    (!r.dk && decide (descrWS d < r.spoff + 2 * r.half))

/-- Whether two scratchpad footprints overlap (R241). -/
def footOverlap (a b : Region) : Bool := !a.dk && !b.dk && decide (a.spoff < b.spoff + 2 * b.half) && decide (b.spoff < a.spoff + 2 * a.half)

/-- Whether some pair of a list overlaps. -/
def anyOverlap : List Region → Bool
  | [] => false
  | r :: rs => rs.any (footOverlap r) || anyOverlap rs

/-- The step between the addresses, modulo 64 KiB, at which a region's box may start (R260). -/
def startStep (d : Descr) (r : Region) : Nat :=
  (List.range 3).foldl (fun g k =>
    if k ≤ r.ndim then
      let a := r.aff.getD k []
      let one := fun (j n : Nat) => if n ≤ 1 then 0 else (a.getD j 0 * r.s.getD k 0).natAbs
      Nat.gcd g (Nat.gcd (one 0 d.x) (Nat.gcd (one 1 d.y) (one 2 d.z)))
    else g) 65536

/-- The bytes of each page that a region's box moves for a tile. -/
def tileBytes (args : List DWord) (r : Region) (t : Tile) : Tbl Nat :=
  (List.range r.count).foldl (fun acc n =>
    let va := (regionVa r (args.getD r.arg 0) t (unrank r.ext n)).toNat
    let k := min (2 ^ r.elog) (65536 - va % 65536)
    let acc := Tbl.upd 0 acc (va / 65536) (· + k)
    if k < 2 ^ r.elog then Tbl.upd 0 acc (va / 65536 + 1) (· + (2 ^ r.elog - k)) else acc) []

/-- The ticks and path energy of moving a region once for a tile, each page at its own location (R259, R261, R460). -/
def tileCost (x : WalkIn) (r : Region) (t : Tile) : Nat × Nat :=
  let ps := tileBytes x.args r t
  (200 + (r.count * 2 ^ r.elog + x.bws - 1) / x.bws + (ps.map fun p => 250 + locTicks (x.loc p.1)).sum,
   (ps.map fun p => p.2 * locFigure (x.loc p.1)).sum)

/-- The declared pages of a region (R238). -/
def rangePages (x : WalkIn) (r : Region) : List Nat :=
  let g := regionRange x.descr x.args r
  let lo := g.1.toNat / 65536
  (List.range (g.2.toNat / 65536 + 1 - lo)).map (lo + ·)

/-- Puts a number into a descending list. -/
def insertDown (n : Nat) : List Nat → List Nat
  | [] => [n]
  | m :: l => if m ≤ n then n :: m :: l else m :: insertDown n l

/-- A bound on the cost of a region over all tiles: the most pages that its box touches from any address, modulo 64 KiB, at which it may start, as if
they were the furthest of its declared pages, and its bytes at the dearest of their figures (R260). -/
def boundCost (x : WalkIn) (r : Region) : Nat × Nat :=
  let g := max 1 (startStep x.descr r)
  let v := (regionVa r (x.args.getD r.arg 0) ⟨0, 0, 0, 0⟩ [0, 0, 0]).toNat
  let p := (List.range (65536 / g)).foldl (fun m i => max m (boxPages r.ext r.s (2 ^ r.elog) ((v + i * g) % 65536))) 0
  let locs := (rangePages x r).map x.loc
  let far := ((locs.map locTicks).foldl (fun l n => insertDown n l) []).take p
  let b := r.count * 2 ^ r.elog
  (200 + (b + x.bws - 1) / x.bws + 250 * p + far.sum, b * (locs.map locFigure).foldl max 0)

/-- The ticks and path energy of moving a region once: the largest over the tiles, by a bound over more than 4,096 of them (R260) (log entry 28). -/
def regionCost (x : WalkIn) (r : Region) : Nat × Nat :=
  if tileCount x.descr ≤ 4096 then
    (List.range (tileCount x.descr)).foldl (fun m t => let c := tileCost x r (tileAt x.descr t); (max m.1 c.1, max m.2 c.2)) (0, 0)
  else boundCost x r

def staged_ (r : Region) : Bool := r.dir != 1
def written_ (r : Region) : Bool := r.dir != 0

/-! ## The walk, assembled (R185, R342) -/

/-- What the walk finds: the tile term T in ticks with its parts, the rounds R, O, energies in tenths of a pJ over 4,900, XD, the issues N of a group
(R175), and what is kept with the kernel. -/
structure WalkOut where
  t : Nat
  st : Nat
  wb : Nat
  r : Nat
  o : Nat
  et : Nat
  eo : Nat
  er : Nat
  looped : Bool
  xd : Nat
  issues : Nat
  copyCharge : List (Nat × Nat × Nat)
  mmaCharge : Nat
  places : List (Nat × Nat)
  deriving DecidableEq, Repr

/-- Ticks of a number of cycles at a point, rounded up (R342). -/
def cycTicks (c p : Nat) : Nat := (c * period p + tickUnits - 1) / tickUnits

/-- The offsets of a kernel's FETCHes. -/
def fetches (w : Words) : List Nat := (w.ws.filter fun x => match x.2.1 with | .fetch _ _ => true | _ => false).map (·.1)

/-- An environment whose CNTSETs are charged the commands that a walk in it counts: four rounds (R260) (log entry 57). -/
def settleEnv (k : Kernel) (eng : Tbl (Nat × Nat)) (walk : WalkEnv → Charge) (e : WalkEnv) : WalkEnv :=
  (List.range 4).foldl (fun e _ => { e with engine := withCntset e.w k eng (walk e).cmds }) e

/-- The records of a kernel's COPYs that are fixed, by the offset of the word (R457). -/
def fixedCopies (w : Words) (k : Kernel) : List (Nat × ShapeRec) :=
  w.ws.filterMap fun y => match y.2.1 with
    | .copy _ _ sh _ _ _ => (fixedRecord w k y.1 sh).map fun r => (y.1, r)
    | _ => none

/-- The pages that the walk charges at a location: those of the regions and of the fixed records' bases (R460). -/
def chargedPages (x : WalkIn) (w : Words) (k : Kernel) : List Nat :=
  (k.regions.flatMap (rangePages x) ++ (fixedCopies w k).map fun (r : Nat × ShapeRec) => r.2.base / 65536).eraseDups

/-- The spans around every FETCH (R342). -/
def fetchSpans (w : Words) : List Span := let fs := fetches w; (spansOf w).filter fun s => !fs.isEmpty && fs.all s.holds

/-- The innermost of a list of nested spans: the one whose LOOP stands last. -/
def innermost (ss : List Span) : Option Span :=
  ss.foldl (fun m s => match m with | some t => if t.loop < s.loop then some s else m | none => some s) none

/-- The walk of a kernel for the teams of one die (R342). -/
def walkDie (x : WalkIn) (k : Kernel) : WalkOut :=
  let d := x.descr
  let w := kernelWords k
  let ss := spansOf w
  let around := fetchSpans w
  let eng := engineTable x w k
  let e0 : WalkEnv := { w := w, depth := k.depth, spans := ss, point := x.point, engine := eng, drains := drainTable w k,
                        mma := 10 * mmaFigure w k, once := around.map (·.loop) }
  let g := groupCount k
  let costs := k.regions.map fun r => (r, regionCost x r)
  let st := ((costs.filter fun y => staged_ y.1).map (·.2.1)).sum
  let wb := ((costs.filter fun y => written_ y.1).map (·.2.1)).sum
  let er := 4900 * (((costs.filter fun y => staged_ y.1).map (·.2.2)).sum + ((costs.filter fun y => written_ y.1).map (·.2.2)).sum)
  let hints := w.ws.any fun y => match y.2.1 with | .bbhint _ _ => true | _ => false
  let nfl := if hints then min 256 d.bblen else 0
  let flush := nfl * engineTime 8 x.bwc 1 0
  let flushPj := 4900 * (nfl * 8 * 50)
  let pages := chargedPages x w k
  let far := pages.any fun p => x.loc p == 2 || x.loc p == 3
  let out := fun (c : Nat × Nat) (r o et eo n : Nat) (lp : Bool) =>
    ({ t := cycTicks c.1 x.point + c.2 + st + wb, st := st, wb := wb, r := r, o := o, et := et, eo := eo, er := er, looped := lp,
       xd := if far then 2000 else 0, issues := n, copyCharge := (fixedCopies w k).map fun r => (r.1, boxBytes r.2, maxPages r.2),
       mmaCharge := mmaFigure w k, places := pages.filterMap fun p => (x.place p).map fun q => (p, q) } : WalkOut)
  match innermost around with
  | none =>
    let e := settleEnv k eng WalkEnv.all { e0 with once := [] }
    let c := e.all
    let all := teamTerm w k x.slope c
    out (all.1, all.2 + flush) ((tileCount d + d.cores - 1) / d.cores) 0 (g * e.energy c + flushPj) 0 c.words false
  | some s =>
    let inE := settleEnv k eng (fun e => e.trip s) e0
    let outE := settleEnv k eng WalkEnv.all { e0 with skip := some s.loop }
    let trip := inE.trip s
    let rest := outE.all
    let o := teamTerm w k x.slope rest
    out (teamTerm w k x.slope trip) (w.bound s.loop) (cycTicks o.1 x.point + o.2 + flush) (g * inE.energy trip) (g * outE.energy rest + flushPj)
      ({ outE with once := [], skip := none }.all).words true

/-- The larger of two walks, term by term: T takes the largest charge over the dies of the grant (R460). -/
def WalkOut.larger (a b : WalkOut) : WalkOut :=
  { a with t := max a.t b.t, st := max a.st b.st, wb := max a.wb b.wb, o := max a.o b.o, et := max a.et b.et, eo := max a.eo b.eo,
           er := max a.er b.er, xd := max a.xd b.xd }

/-- The walk of a kernel on the dies of a grant (R342, R460); LIMIT for a LOOP around FETCH below its bound (R260). -/
def walkKernel (x : WalkIn) (dies : List Nat) (k : Kernel) : Except Why WalkOut :=
  let w := kernelWords k
  let fs := fetches w
  let share := (tileCount x.descr + x.descr.cores - 1) / x.descr.cores
  match (spansOf w).find? fun s => fs.any s.holds && decide (w.bound s.loop < share + 1) with
  | some s => .error ⟨2, 0, s.loop⟩
  | none => .ok ((dies.map fun d => walkDie { x with die := d } k).foldl WalkOut.larger (walkDie { x with die := dies.headD 0 } k))

/-- L (R342). -/
def launchTerm (k : Kernel) : Nat := 1500 + (k.data.length + 128 * k.progs.length + 255) / 256

/-- The static power of a reserved core at a point, in mW, and the peak power (R342). -/
def staticMw (p : Nat) : Nat := match p with | 0 => 1800 | 1 => 1500 | 2 => 1200 | 3 => 1000 | 4 => 850 | _ => 750
def peakMw (p : Nat) : Nat := match p with | 0 => 9500 | 1 => 7300 | 2 => 5400 | 3 => 3900 | 4 => 2700 | _ => 1700

/-- Cores reserved for `n` teams: whole pairs. -/
def pairedCores (n : Nat) : Nat := 2 * ((n + 1) / 2)

/-- The power share in 1/16 W, rounded up (R342). -/
def powerShare (n p : Nat) : Nat := (pairedCores n * peakMw p * 16 + 999) / 1000

/-- The margin of 1.01, rounded up (R342). -/
def margin (n : Nat) : Nat := (101 * n + 99) / 100

/-- WCT and WCE with the terms of the walk (R342). -/
def walkTerms (d : Descr) (k : Kernel) (p : Nat) (o : WalkOut) : WalkTerms :=
  let l := launchTerm k
  let wct := margin (l + o.st + o.o + o.r * o.t + o.wb + o.xd)
  let tiles := d.x * d.y * d.z
  let e := (if o.looped then d.cores * o.r * o.et + d.cores * o.eo else tiles * o.et) + tiles * o.er
  let static := pairedCores d.cores * staticMw p * wct * 49000
  { t := o.t, st := o.st, wb := o.wb, wct := wct, wce := (101 * (e + static) + 4900000000 - 1) / 4900000000, launch := l }

end Sys2Proof.Machine
end

