-- ==== Sys2Proof/Machine/Quote.lean ====
section
/-! DEFINITION. QUOTE: the grant (R340, R341), the earliest start (R343), the quotation and its refusal (R339, R344, R345). -/
namespace Sys2Proof.Machine

/-! ## The grant (R340, R341) -/

/-- A grant: pairs in the order dealt, the cores of the teams, the point, and the refresh factor of each die in hundredths. -/
structure Grant where
  pairs : List Nat
  cores : List Nat
  point : Nat
  h : List (Nat × Nat)
  deriving DecidableEq, Repr

/-- Whether a pair lies in a cluster that reservations hold at another point (R347). -/
def pairOff (s : State) (point p : Nat) : Bool :=
  s.reservations.any fun r => r.point != point && r.pairs.any fun x => clusterOf (2 * x) == clusterOf (2 * p)

/-- Deals pairs one per die in turn: the free ones of every die first, each die its lowest-numbered ones, then those that a reservation holds, or whose
cluster one holds at another point than that of a BOUND grant (R340, R343) (log entry 60). -/
def dealGrant (s : State) (dies : List Nat) (point : Option Nat) : List Nat :=
  let busy := fun p => pairReserved s p || point.any fun n => pairOff s n p
  dealPairs dies (fun p => !busy p) ++ dealPairs dies busy

/-- The dies that a list of pairs lies on, ascending. -/
def diesOf (pairs : List Nat) : List Nat := (List.range 8).filter fun d => pairs.any fun p => dieOf (2 * p) == d

/-- How many of a list of cores lie on a die. -/
def coresOn (cores : List Nat) (d : Nat) : Nat := (cores.filter fun k => dieOf k == d).length

/-- Whether the engine shares of a grant's cores fit on every die that it lies on, at the given refresh factors (R343). -/
def sharesFit (d : Descr) (pairs : List Nat) (h : Nat → Nat) : Bool :=
  let cores := (coresOf pairs d.cores).getD []
  (diesOf pairs).all fun x => decide (coresOn cores x * (d.bwc + d.bws) ≤ 5200 * h x / 100)

/-- Whether the dies can hold a BOUND grant when they are idle, at normal refresh (R339). -/
def everFits (d : Descr) (dies : List Nat) (point : Nat) : Bool :=
  sharesFit d ((dealPairs dies fun _ => true).take ((d.cores + 1) / 2)) (fun _ => 100) && decide (powerShare d.cores point + 24000 ≤ 160000)

/-- The pairs of a BOUND grant at a point: dealt free ones first, or, where their crowding on a die would overload it for ever, as on idle dies
(R339, R340, R343) (log entry 60). -/
def pairsAt (s : State) (d : Descr) (dies : List Nat) (point : Nat) : List Nat :=
  let need := (d.cores + 1) / 2
  let now := (dealGrant s dies (some point)).take need
  if sharesFit d now (refreshFactor s) then now else (dealPairs dies fun _ => true).take need

/-- FLOOR lowered to the cap of the hottest die of a list (R340). -/
def pointOn (s : State) (d : Descr) (dies : List Nat) : Nat := (dies.map fun x => dieCap (getDie s x)).foldl max d.floor

/-- The point of a BOUND grant: the fastest at which the dies that its pairs are dealt on call for no slower one (R340). -/
def boundPoint (s : State) (d : Descr) (dies : List Nat) : Nat :=
  ((List.range 6).find? fun p => decide (d.floor ≤ p) && decide (pointOn s d (diesOf (pairsAt s d dies p)) ≤ p)).getD 5

/-- The grant of a descriptor: CAPACITY where the dies can never hold it, THERMAL where too few are cool enough (R339 to R341, R343). -/
def grantOf (s : State) (d : Descr) : Except Why Grant :=
  let need := (d.cores + 1) / 2
  let usable := usableDies s d.dies
  let dies := if d.loose then usable else usable.filter fun x => !(dieHot (getDie s x))
  if 54 * usable.length < need then .error ⟨8, 0, 0⟩
  else if 54 * dies.length < need then .error ⟨9, 0, 0⟩
  else
    let point := if d.loose then pointOn s d dies else boundPoint s d dies
    let pairs := if d.loose then (dealGrant s dies none).take need else pairsAt s d dies point
    if !d.loose && !everFits d usable point then .error ⟨8, 0, 0⟩
    else .ok ⟨pairs, (coresOf pairs d.cores).getD [], point, (diesOf pairs).map fun x => (x, refreshFactor s x)⟩

/-! ## The earliest start (R343) -/

/-- The worst-case end of a grid: from its start, or from the latest start that R347 allows. -/
def worstEnd (g : Grid) : Nat := (if g.st = .waiting then max g.est g.accepted else g.started) + g.terms.wct

/-- The worst-case ends of a queue's grids. -/
def queueEnds (s : State) (k : Nat) : List Nat :=
  s.grids.filterMap fun e => match e.2 with
    | some g => if queueKey g.vi g.q == k && !running s e.1 then some (worstEnd g) else none
    | none => none

/-- The bandwidth that a die's engines have, at the h of a grant's quotation or at the present one (R343). -/
def dieShare (s : State) (g : Grant) (die : Nat) : Nat :=
  5200 * (match g.h.find? fun x => x.1 == die with | some x => x.2 | none => refreshFactor s die) / 100

/-- Whether R343 holds at a tick. -/
def startsAt (s : State) (ends : List Nat) (d : Descr) (g : Grant) (power t : Nat) : Bool :=
  let live := s.reservations.filter fun r => decide (t < r.endTick)
  ends.all (· ≤ t) &&
    !(live.any fun r => r.pairs.any fun p => g.pairs.contains p) &&
    !(live.any fun r => r.point != g.point && r.pairs.any fun p => g.pairs.any fun x => clusterOf (2 * x) == clusterOf (2 * p)) &&
    ((List.range 8).all fun x =>
      decide (coresOn g.cores x * (d.bwc + d.bws) + (live.map fun r => coresOn r.cores x * (r.bwc + r.bws)).sum ≤ dieShare s g x)) &&
    decide (power + (live.map (·.power16)).sum + 24000 ≤ 160000)

/-- The smallest of a list. -/
def least (l : List Nat) : Option Nat := l.foldl (fun m x => some (match m with | some y => min x y | none => x)) none

/-- The first tick from `from_` on at which R343 holds. -/
def earliest (s : State) (k : Nat) (d : Descr) (g : Grant) (power from_ : Nat) : Nat :=
  let ends := queueEnds s k
  let ts := (from_ :: (s.reservations.map (·.endTick) ++ ends)).filter fun t => decide (from_ ≤ t)
  (least (ts.filter (startsAt s ends d g power))).getD (ts.foldl max from_)

/-! ## The quotation -/

/-- Whether a kernel uses the copy engine: COPY, FATOM or BBHINT (R259). -/
def usesCopy (k : Kernel) : Bool :=
  (sweepWords k.text k.tables.length).any fun w => match w.2 with
    | .copy _ _ _ _ _ _ | .fatom _ _ _ _ _ _ | .bbhint _ _ => true
    | _ => false

/-- The smallest rate in force on the clusters of a grant: each cluster's written one or the largest quoted to its reservations (R182). -/
def grantRate (s : State) (g : Grant) : Nat := (g.cores.map fun k => slopeRate s (clusterOf k)).foldl min 12000

/-- What the walk is given at a quotation (R340, R342, R460). -/
def walkInOf (s : State) (vi : Nat) (d : Descr) (args : List DWord) (g : Grant) : WalkIn :=
  { descr := d, args := args, point := g.point, h := g.h,
    slope := grantRate s g,
    place := fun page => (walkTree s vi (page * 65536)).map pagePlace, die := 0 }

/-- A kernel with what the walk keeps beside it. -/
def keepCharges (k : Kernel) (o : WalkOut) : Kernel := { k with copyCharge := o.copyCharge, mmaCharge := o.mmaCharge, places := o.places }

/-- The checks of a kernel and a descriptor that come before the grant (R339) (log entry 55). -/
def checkLaunch (k : Kernel) (d : Descr) (args : List DWord) (ballast : Bool) : Option Why :=
  match checkKernel k with
  | some w => some w
  | none =>
    if !d.ok ballast || (d.bwc == 0 && usesCopy k) || (d.bws == 0 && !k.regions.isEmpty) then some ⟨7, 0, 0⟩
    else if descrWS d < k.data.length || k.regions.any (regionBad d args) || anyOverlap k.regions then some ⟨6, 0, 0⟩
    else none

/-- A launch walked on a grant: its terms, and the kernel with its charges (R342, R355). -/
def walkOn (s : State) (vi : Nat) (k : Kernel) (d : Descr) (args : List DWord) (g : Grant) : Except Why (WalkTerms × Kernel) :=
  match walkKernel (walkInOf s vi d args g) (g.h.map (·.1)) k with
  | .error w => .error w
  | .ok o => .ok (walkTerms d k g.point o, keepCharges k o)

/-- What a quotation offers. -/
structure Offer where
  grant : Grant
  terms : WalkTerms
  kernel : Kernel
  power : Nat

/-- The checks, the grant and the walk of a launch, or why it is refused (R339 to R342). -/
def offerOf (s : State) (vi : Nat) (k : Option Kernel) (d : Descr) (args : List DWord) (ballast : Bool) : Except Why Offer :=
  match k with
  | none => .error ⟨5, 0, 0⟩
  | some k =>
    match checkLaunch k d args ballast with
    | some w => .error w
    | none =>
      match grantOf s d with
      | .error w => .error w
      | .ok g =>
        match walkOn s vi k d args g with
        | .error w => .error w
        | .ok (t, k) =>
          if d.loose && decide (d.plim < t.t) then .error ⟨7, 0, 0⟩
          else .ok ⟨g, t, k, if d.loose then 0 else powerShare d.cores g.point⟩

/-- The mask of a list of dies. -/
def dieMask (ds : List Nat) : Nat := (ds.map fun d => 2 ^ d).sum

/-- The 64-bit fields of an argument block. -/
def argFields (bs : List Byte) (n : Nat) : List DWord := (List.range n).map fun i => BitVec.ofNat 64 (natAt bs (8 * i) 8)

/-- What a command's packet and its quotation have in common. -/
def blankQuote (s : State) (k : Nat) (q : Queue) (p : Packet) (d : Descr) : Quotation :=
  { qid := s.nextQid, vi := queueVi k, q := k % 1024, slot := q.slot.getD 0, tag := p.tag, status := 0, detail := 0, offset := 0, qtick := tick s,
    est := tick s, accby := tick s + (if d.accby = 0 then 200000 else d.accby), floor := 0, dies := 0, pairs := [], power16 := 0, h := [], rate := 0,
    terms := ⟨0, 0, 0, 0, 0, 0⟩, descr := d, kernel := none, argBlock := [], taken := false, dead := false,
    clock := (getView s (queueHub q)).vc }

/-- A quotation from what is offered, or refused (R339, R344). -/
def fillQuote (s : State) (k : Nat) (x : Quotation) (args : List DWord) (o : Except Why Offer) : Quotation :=
  match o with
  | .error w => { x with status := w.code, detail := if w.code ≤ 4 then w.detail else 0, offset := if w.code ≤ 4 then w.offset else 0 }
  | .ok o =>
    { x with
      est := if x.descr.loose then x.qtick else earliest s k x.descr o.grant o.power x.qtick,
      floor := o.grant.point, dies := dieMask (diesOf o.grant.pairs), pairs := o.grant.pairs, power16 := o.power, h := o.grant.h,
      rate := grantRate s o.grant,
      terms := o.terms, kernel := some o.kernel, argBlock := args }

/-- Reads the descriptor, the image and the argument block of a command, and makes its quotation (R336, R337, R338). -/
def makeQuote (s : State) (k : Nat) (q : Queue) (p : Packet) : Quotation × State :=
  let h := queueHub q
  let vi := queueVi k
  let (db, s) := hubRead s h vi p.arg.toNat 128
  let d := descrOfRec (natOf db)
  let (hb, s) := hubRead s h vi d.image 256
  let (ib, s) := hubRead s h vi d.image (layoutOf (natOf hb)).end_
  let kern := kernelOf ib
  let n := match kern with | some x => x.args8 | none => 0
  let (ab, s) := hubRead s h vi d.args (8 * n)
  let args := argFields ab n
  let x := fillQuote s k (blankQuote s k q p d) args (offerOf s vi kern d args q.descr.ballast)
  (x, { s with nextQid := s.nextQid + 1, quotes := s.quotes ++ [x] })

/-- Writes the quotation record, and the signed block where SIGN is set (R336, R344, R345). -/
def writeQuote (s : State) (q : Queue) (p : Packet) (x : Quotation) : State :=
  let h := queueHub q
  let r := quoteRec x
  let s := (hubWrite s h x.vi p.qrec (bytesOf r 128)).1
  if x.descr.sign && p.srec ≠ 0 then
    (hubWrite { s with freeNo := s.freeNo + 1 } h x.vi p.srec (signedBlock r s.freeNo)).1
  else s

/-- QUOTE (R336). -/
def execQuote (q : Nat) (s : State) : Host.Outcome State Fault Refusal :=
  .next (takeCommand s q (isCommand 1) fun p s =>
    match getQueue s q with
    | none => s
    | some x =>
      let (y, s) := makeQuote s q x p
      post (writeQuote s x p y) q { status := 0x30, tag := p.tag, qid := y.qid, grid := none })

end Sys2Proof.Machine
end

