-- ==== Sys2Proof/Machine/Launch.lean ====
section
/-! DEFINITION. Acceptance and binding (R346, R347, R360, R370), the start of a grid (R347, R348, R353), and its completion record (R349 to R352). -/
namespace Sys2Proof.Machine

/-! ## History and match (R360, R361, R370) -/

/-- Whether field `f` of a kernel's argument block is masked. -/
def masked (k : Kernel) (f : Nat) : Bool := k.argMask.getLsbD f

/-- Whether a launch is eligible for prediction (R361). -/
def eligibleFor (k : Kernel) (d : Descr) : Bool := k.pure_ && !(k.regions.any fun r => masked k r.arg) && !d.debug

/-- Enters a bound launch in a queue's history of 8 (R360). -/
def noteHistory (h : List HistEntry) (e : HistEntry) : List HistEntry := (h ++ [e]).drop ((h.length + 1) - 8)

/-- The argument blocks agree but for masked fields (R370). -/
def argsAgree (k : Kernel) (a b : List DWord) : Bool := (List.range k.args8).all fun f => masked k f || a.getD f 0 == b.getD f 0

/-- Whether a prediction's launch is a launch that has bound (R370). -/
def predMatches (p : Grid) (k : Kernel) (d : Descr) (args : List DWord) : Bool :=
  let a := p.descr
  p.kernel.hash == k.hash && a.x == d.x && a.y == d.y && a.z == d.z && a.cores == d.cores && a.ws64 == d.ws64 && a.wo16 == d.wo16 && a.nr == d.nr &&
    a.fpen == d.fpen && argsAgree k p.argBlock args

/-- The prediction of a queue that is in flight, by its number. -/
def predOf (s : State) (k : Nat) : Option (Nat × Prediction) :=
  s.preds.findSome? fun e => match e.2 with
    | some p => if queueKey p.vi p.q == k then some (e.1, p) else none
    | none => none

/-! ## Taking cores (R392) -/

/-- The LOOSE contexts that a binding's pairs pre-empt (R392). -/
def preemptLoose (s : State) (pairs : List Nat) : State :=
  ((s.grids.map (·.1)).filter fun i =>
    (match getGrid s i with | some g => g.loose && g.st == .running | none => false) && !running s i && onPairs s i pairs).foldl
      (fun s i => requestSave s i false) s

/-! ## Declared pages (R238) -/

/-- The pages of an interface from `a` to `hi` that are valid, with their leaves. -/
def pagesIn (s : State) (vi hi : Nat) : Nat → Nat → List (Nat × Leaf)
  | 0, _ => []
  | n + 1, a =>
    if hi < a then []
    else match walkTree s vi a with
      | none => pagesIn s vi hi n ((a / 65536 + 1) * 65536)
      | some l => (pageBase l a, l) :: pagesIn s vi hi n (pageBase l a + pageSize l.level)

/-- The valid pages of a list of ranges, each once. -/
def declaredPages (s : State) (vi : Nat) (rs : List (Nat × Nat)) : List (Nat × Leaf) :=
  (rs.flatMap fun r => pagesIn s vi r.2 (r.2 / 65536 + 1 - r.1 / 65536) r.1).eraseDups

/-- The bounding ranges of a launch's regions. -/
def rangesOf (k : Kernel) (d : Descr) (args : List DWord) : List (Nat × Nat) :=
  k.regions.map fun r => let x := regionRange d args r; (x.1.toNat, x.2.toNat)

/-- A free frame for a page, as the firmware picks it: the first that serves of those that it may name (log entry 127). -/
def findFrame (s : State) (size : Nat) : Nat :=
  let fs := (List.range 4096).map fun i => Config.freeFrame (s.freeNo + i) % 2 ^ 24
  (fs.find? fun f => frameFree s f size && !(inFly s f size)).getD (fs.headD 0)

/-- Makes a page resident: no migration of it goes on, and a page of the tier lies in HBM, at the frame of its migration if it was on its way back
(R238, R257) (log entry 121). -/
def makeResident (s : State) (vi : Nat) (va : Nat) (l : Leaf) : State :=
  let mine := s.migrations.find? fun m => m.vi == vi && m.va == va
  let s := { s with migrations := s.migrations.filter fun m => !(m.vi == vi && m.va == va) }
  if l.pte.tgt = 1 then
    let frame := match mine with | some m => m.target | none => findFrame s (pageSize l.level)
    placePage { s with freeNo := s.freeNo + 4096 } l va 0 frame
  else s

/-- Makes the valid declared pages of a reservation resident and pins them (R238). -/
def pinPages (s : State) (vi : Nat) (rs : List (Nat × Nat)) : State × List Nat :=
  let ps := declaredPages s vi rs
  (ps.foldl (fun s p => setPin (makeResident s vi p.1 p.2) p.2 true) s, ps.map (·.1))

/-! ## Binding (R346 to R348) -/

/-- A grid that has been bound and has not started. -/
def newGrid (s : State) (x : Quotation) (k : Kernel) (tag : Nat) (qd : QDescr) (clock : List Nat) : Grid :=
  { vi := x.vi, q := x.q, qid := x.qid, tag := tag, kernel := k, descr := x.descr, argBlock := x.argBlock, loose := x.descr.loose, terms := x.terms,
    floor := x.floor, st := .waiting, cores := if x.descr.loose then [] else (coresOf x.pairs x.descr.cores).getD [], started := 0, nextTile := 0,
    admitted := [], declared := rangesOf k x.descr x.argBlock, traps := [], tcount := 0,
    events := takenLow s x.descr.loose ((coresOf x.pairs x.descr.cores).getD []) x.floor, excused := 0, pj := 0, pjJudged := 0,
    energy0 := [], coreNj := 0, saved := [], clock := clock, req := none, hostReq := false, sliceEnd := none, pred := none, claimed := false, droop0 := [],
    retired := 0, remapped := none, need := [], owedHost := [], owedPeer := [], est := x.est, accepted := tick s, qdescr := some qd }

/-- Holds what a BOUND quotation reserves (R182, R347). -/
def reserve (s : State) (x : Quotation) (g : Grid) : State :=
  let cls := (x.pairs.map fun p => clusterOf (2 * p)).eraseDups
  let (s, ps) := pinPages s x.vi g.declared
  let r : Reservation :=
    { qid := x.qid, vi := x.vi, pairs := x.pairs, cores := g.cores, point := x.floor, bwc := x.descr.bwc, bws := x.descr.bws, power16 := x.power16,
      accepted := tick s, endTick := max x.est (tick s) + x.terms.wct, rates := cls.map fun c => (c, x.rate), pinned := ps, declared := g.declared }
  cls.foldl orderHeld { s with reservations := s.reservations ++ [r] }

/-- The test of a queue's prediction at a binding: it is kept for the comparison where it matches, else discarded (R370, R374, R378). -/
def testPred (s : State) (k gid : Nat) (g : Grid) : State × Option Nat :=
  match predOf s k with
  | none => (s, none)
  | some (i, p) =>
    if p.adopted || p.launch.isSome then (s, none)
    else match getGrid s i with
      | none => (s, none)
      | some pg =>
        if !pg.traps.isEmpty then (discard s i 6, none)
        else if predMatches pg g.kernel g.descr g.argBlock then
          ({ s with preds := Tbl.set s.preds i (some { p with launch := some (gid, tick s) }) }, some i)
        else (discard s i 3, none)

/-- Binds a quotation: the grid, its place in the records of its queue, its reservation, the history, and the test of the prediction (R334, R346 to
R348, R350, R360). -/
def bindQuote (s : State) (k : Nat) (q : Queue) (x : Quotation) (kern : Kernel) (tag : Nat) : State :=
  let gid := s.nextGrid
  let g := newGrid s x kern tag q.descr (getView s (queueHub q)).vc
  let s := { s with nextGrid := gid + 1, grids := Tbl.set s.grids gid (some g),
                    quotes := s.quotes.map fun y => if y.qid = x.qid then { y with taken := true } else y }
  let s := modQueue s k fun q => { q with
    pending := q.pending ++ [{ status := 0, tag := tag, qid := x.qid, grid := some gid, ready := false }],
    history := noteHistory q.history ⟨kern, x.descr, x.argBlock, eligibleFor kern x.descr⟩, lastBound := some gid, predicted := false }
  let (s, own) := testPred s k gid g
  if x.descr.loose then joinLevel s gid g
  else preemptLoose (dropPreds (reserve s x g) x.pairs own) x.pairs

/-- Whether a BOUND quotation is stale (R346). -/
def staleQuote (s : State) (k : Nat) (x : Quotation) : Bool :=
  let g : Grant := ⟨x.pairs, (coresOf x.pairs x.descr.cores).getD [], x.floor, x.h⟩
  decide (x.est < earliest s k x.descr g x.power16 x.qtick) ||
    (x.h.any fun e => let d := getDie s e.1; dieHot d || d.tripped.isSome || decide (x.floor < dieCap d) || decide (refreshFactor s e.1 < e.2))

/-- The quotation of an identifier that an ACCEPT of a queue may name (R336, R346). -/
def openQuote (s : State) (k : Nat) (qid : DWord) : Option (Quotation × Kernel) :=
  match s.quotes.find? (·.qid == qid) with
  | none => none
  | some x =>
    if queueKey x.vi x.q ≠ k || x.status ≠ 0 || x.taken || x.dead then none
    else x.kernel.map fun kern => (x, kern)

def killQuote (s : State) (qid : DWord) : State := { s with quotes := s.quotes.map fun y => if y.qid = qid then { y with dead := true } else y }

/-- Accepts a quotation, or hands over the record of why not (R346). -/
def acceptQuote (s : State) (k : Nat) (p : Packet) (qid : DWord) : State :=
  match getQueue s k, openQuote s k qid with
  | some q, some (x, kern) =>
    if x.accby < tick s then postLast (killQuote s qid) k p { status := 0x21, tag := p.tag, qid := qid, grid := none }
    else if !x.descr.loose && staleQuote s k x then postLast (killQuote s qid) k p { status := 0x20, tag := p.tag, qid := qid, grid := none }
    else bindQuote s k q x kern p.tag
  | _, _ => postLast s k p { status := 0x22, tag := p.tag, qid := qid, grid := none }

/-- ACCEPT (R346). -/
def execAccept (q : Nat) (s : State) : Host.Outcome State Fault Refusal :=
  .next (takeCommand s q (isCommand 2) fun p s => acceptQuote s q p p.arg)

/-- Whether a quotation lies within the limits of its LAUNCH (R336, R356). -/
def inLimits (x : Quotation) : Bool :=
  x.status == 0 && decide (x.terms.wct ≤ x.descr.ltime) && decide (x.terms.wce ≤ x.descr.lenergy) &&
    (x.descr.lstart == 0 || decide (x.est ≤ x.descr.lstart))

/-- LAUNCH: QUOTE without its event, then ACCEPT within the limits, else LIMITS (R336). -/
def execLaunch (q : Nat) (s : State) : Host.Outcome State Fault Refusal :=
  .next (takeCommand s q (isCommand 4) fun p s =>
    match getQueue s q with
    | none => s
    | some x =>
      let (y, s) := makeQuote s q x p
      let s := writeQuote s x p y
      if inLimits y then acceptQuote s q p y.qid
      else postLast s q p { status := 0x23, tag := p.tag, qid := y.qid, grid := none })

/-! ## GRID_START (R347, R348, R353) -/

/-- Whether no team holds a core of a list of pairs. -/
def pairsFree (s : State) (pairs : List Nat) : Bool := pairs.all fun p => [2 * p, 2 * p + 1].all fun k => (heldPlaces (getCore s k)).isEmpty

/-- Whether an earlier reservation than that of a quotation holds some of its pairs, or a cluster of it at another point (R347). -/
def heldBefore (s : State) (r : Reservation) : Bool :=
  (s.reservations.takeWhile fun x => x.qid != r.qid).any fun x => x.pairs.any fun p =>
    r.pairs.contains p || (x.point != r.point && r.pairs.any fun y => clusterOf (2 * y) == clusterOf (2 * p))

/-- A grid with the counters of its clusters as they stand when it starts (R352, R427). -/
def countFrom (s : State) (g : Grid) : Grid :=
  { g with energy0 := energyNow s (chargedCores g),
           droop0 := ((chargedCores g).map clusterOf).eraseDups.map fun c => (c, (getCluster s c).droopCount) }

/-- Notes the tick from which a grid would run but for the comparison of its queue's prediction: the wait lies inside its launch term (R370). -/
def noteReady (s : State) (gid : Nat) : State :=
  let now := tick s
  modGrid s gid fun g => if g.readyAt.isSome then g else countFrom s { g with readyAt := some now }

/-- Starts a grid on its cores: its teams are placed, and the counters of its clusters are noted (R347, R352, R427). A late start is
named (R351); the start is not later for a comparison that the launch term covers (R370). -/
def startGrid (s : State) (gid : Nat) (g : Grid) (cores : List Nat) : State :=
  let now := g.readyAt.getD (tick s)
  let g := { g with
    st := .running, cores := cores, started := now, sliceEnd := if g.loose then some (now + g.descr.slice * 1000) else none,
    events := if !g.loose && max g.est g.accepted < now then g.events ++ [{ tick := now, blame := .device }] else g.events }
  let cls := (chargedCores g).map clusterOf |>.eraseDups
  let g := if g.readyAt.isSome && !g.loose then g else countFrom s g
  let s := cls.foldl (fun s c => modCluster s c id) { s with grids := Tbl.set s.grids gid (some g) }
  let s := { s with reservations := s.reservations.map fun r => if r.qid = g.qid then { r with endTick := now + g.terms.wct } else r }
  placeTeams s gid g cores

/-- Starts a LOOSE grid whose turn has come, where it fits; predicted runs make way (R353, R365). -/
def startLoose (s : State) (gid : Nat) (g : Grid) : State :=
  if nextLoose s ≠ some gid then s
  else if awaitsPred s gid then noteReady s gid
  else match looseCores s gid g with
    | some cs => startGrid s gid g cs
    | none =>
      match looseCores (withoutPreds s) gid g with
      | some cs => startGrid (dropPredsOn s cs) gid g cs
      | none => s

/-- GRID_START (R334, R347, R353, R370). -/
def execGridStart (grid : Nat) (s : State) : Host.Outcome State Fault Refusal :=
  .next (match getGrid s grid with
    | none => s
    | some g =>
      if g.st ≠ .waiting || !queueFree s grid g then s
      else if g.loose then startLoose s grid g
      else match s.reservations.find? (·.qid == g.qid) with
        | none => s
        | some r =>
          if !(pairsFree s r.pairs) || heldBefore s r then s
          else if awaitsPred s grid then noteReady s grid
          else startGrid s grid g g.cores)

/-! ## COMPLETION_RECORD (R273, R349 to R352, R387) -/

/-- The order of R387 among a grid's trap records. -/
def trapBefore (a b : TrapRec) : Bool := decide ([a.tick, a.core, a.teamx, a.group, a.islot] < [b.tick, b.core, b.teamx, b.group, b.islot])

/-- The first trap of a grid (R387). -/
def firstTrap (l : List TrapRec) : Option TrapRec :=
  l.foldl (fun m r => some (match m with | some x => if trapBefore r x then r else x | none => r)) none

/-- The rank of a named event within its tick: device, host, caller (R351). -/
def blameRank : Blame → Nat
  | .device => 0
  | .host => 1
  | _ => 2

/-- The blame of a broken promise: that of the first named event, else the device (R351). -/
def firstBlame (l : List BlameEv) : Blame :=
  (l.foldl (fun m e => some (match m with
    | some (x : BlameEv) => if e.tick < x.tick || (e.tick == x.tick && decide (blameRank e.blame < blameRank x.blame)) then e else x
    | none => e)) none).elim .device (·.blame)

/-- Whether a grid has ended: every team has retired, or it was terminated and its teams have come to rest (R388). A run that is to be claimed ends
with its claim (R371). -/
def gridEnded (s : State) (gid : Nat) (g : Grid) : Bool :=
  match g.st with
  | .terminating _ _ => (teamsOf s gid).all fun e => matrixQuiet s e.1 e.2 && (getCore s e.1).copyq.all fun c => c.tx != e.2 || atBoundary c
  | _ => gridOver g && g.pred.isNone && (!g.claimed || g.remapped.isSome)

/-- Whether every write of a grid is applied everywhere, and its host and peer writes have been reported (R273). -/
def writesSettled (s : State) (g : Grid) : Bool :=
  (holders.all fun d => dominates (getView s d).vc g.need) && (g.owedHost.all fun e => e.2 == 0) && g.owedPeer.all fun e => e.2 == 0

/-- The record of a grid that completes now; a claimed page costs 0.5 nJ, and the sum is rounded up once (R349, R351, R352, R359, R373, R380) (log
entries 69 and 71). -/
def completionOf (s : State) (g : Grid) : EvRec :=
  let now := tick s
  let status := match g.st with | .terminating _ x => x | _ => 0
  let energy := wholeNj (rawEnergy s g + 60000 * g.remapped.getD 0)
  let beyond := (g.pj - g.pjJudged) / 10000
  let tovr := decide (g.started + g.terms.wct + g.excused < now)
  let eovr := decide (g.terms.wce + beyond < energy)
  let broken := status % 256 != 0 || tovr || eovr
  let t := firstTrap g.traps
  let named := if status % 256 = 0 then g.events else g.events.filter fun e => !e.hold
  { status := status % 256, tag := g.tag, qid := g.qid, grid := none, blame := if broken && !g.loose then firstBlame named else .none,
    tovr := tovr, eovr := eovr, claimed := g.claimed, start := g.started, end_ := now, qtime := g.terms.wct, qenergy := g.terms.wce, aenergy := energy,
    trap := match t with | some r => r.code.num | none => 0,
    detail := if status % 256 = 2 then status / 256 else match t with | some r => r.detail | none => 0,
    tcore := match t with | some r => r.core | none => 0, tpc := match t with | some r => r.pc | none => 0, tcount := g.tcount, excused := g.excused }

/-- Puts a grid's record in its place in its queue (R350). -/
def placeRecord (l : List EvRec) (gid : Nat) (e : EvRec) : List EvRec :=
  l.map fun x => if x.grid = some gid && !x.ready then { e with grid := some gid, ready := true } else x

/-- The state of VI_CTXCTL after the grid whose save it awaited has ended (R396). -/
def freeCtxctl (s : State) (g : Grid) : State := if g.hostReq && (getVi s g.vi).ctxstate = 1 then setCtx s g.vi 0 else s

/-- COMPLETION_RECORD (R273, R347, R350). -/
def execCompletionRecord (grid : Nat) (s : State) : Host.Outcome State Fault Refusal :=
  .next (match getGrid s grid with
    | none => s
    | some g =>
      if running s grid || g.st = .finished || !gridEnded s grid g || !writesSettled s g then s
      else
        let e := completionOf s g
        let s := (teamsOf s grid).foldl (fun s e => releaseTeam s e.1 e.2) s
        let s := freeCtxctl (leaveLevel s grid g) g
        let s := if e.blame = .device then { s with overruns := (s.overruns + 1) % 2 ^ 64 } else s
        let s := modGrid s grid fun g => { g with st := .finished }
        let k := queueKey g.vi g.q
        flushQueue (modQueue s k fun q => { q with pending := placeRecord q.pending grid e }) k)

end Sys2Proof.Machine
end

