-- ==== Sys2Proof/Machine/Fabric.lean ====
section
/-! DEFINITION. The fabric: flits and their replay (R408, R409), lane repair and retraining (R410, R414), shedding (R411), peers out of reach (R412), and
the host's completions (R405). -/
namespace Sys2Proof.Machine

/-! ## Flits (R408, R409) -/

/-- A sequence number of a flit. -/
def seqOf (n : Nat) : BitVec 12 := BitVec.ofNat 12 n

/-- The number of the last flit accepted. -/
def ackOf (p : Port) : BitVec 12 := seqOf (p.expect + 4095)

/-- The bits [2015:0] of a flit (R408). -/
def flitBody (f : Flit) : BitVec 2016 := f.payload ++ f.type ++ f.ack ++ f.seq ++ f.mbz

/-- One bit of the division by the polynomial of R408. -/
def crcStep (r b : Nat) : Nat :=
  let x := 2 * r + b
  if x < 2 ^ 32 then x else x ^^^ (2 ^ 32 + 0x04C11DB7)

/-- The remainder of the lowest `n` bits of a number, taken from the top, after a remainder. -/
def crcRest (w : Nat) : Nat → Nat → Nat
  | 0, r => r
  | n + 1, r => crcRest w n (crcStep r (w / 2 ^ n % 2))

/-- CRC-32 of a flit: the remainder of its bits [2015:0], followed by 32 zeros, by the polynomial 0x04C1_1DB7 (R408) (log entry 123). -/
def flitCrc (f : Flit) : BitVec 32 := BitVec.ofNat 32 (crcRest ((flitBody f).toNat * 2 ^ 32) 2048 0)

/-- The 2,048 bits of a flit (R408). -/
def flitBits (f : Flit) : BitVec 2048 := f.crc ++ flitBody f

/-- A flit with its CRC. -/
def sealFlit (type : BitVec 4) (ack seq : BitVec 12) (payload : BitVec 1984) : Flit :=
  let f : Flit := { crc := 0, payload := payload, type := type, ack := ack, seq := seq, mbz := 0 }
  { f with crc := flitCrc f }

/-- The 248 bytes of a payload as bits. -/
def payloadOf (data : List Byte) : BitVec 1984 := BitVec.ofNat 1984 (natOf data)

/-- The payload of bits as bytes. -/
def payloadBytes (p : BitVec 1984) : List Byte := bytesOf p.toNat 248

/-- A data flit of a port. -/
def dataFlit (p : Port) (data : List Byte) : Flit := sealFlit 1 (ackOf p) (seqOf p.seq) (payloadOf data)

/-- The time that a flit takes on the lanes in use, in time units: 7/32 of a flit a tick on each lane (R407). -/
def flitTime (p : Port) : Nat := 11520 / max 1 ((List.range 4).filter fun l => p.used.getLsbD l).length

/-- The flit that a port sends next, and the port without it: a control flit, then a buffered flit to be sent again, then the next transaction, numbered and
kept for replay; none where nothing waits, or where 512 flits are unacknowledged and the sender stalls (R409). -/
def nextFlit (p : Port) (now : Nat) : Option (Flit × Port) :=
  match p.ctl with
  | f :: fs => some (f, { p with ctl := fs })
  | [] =>
    if 0 < p.resend then (p.replay[p.replay.length - p.resend]?).map fun f => (f.2, { p with resend := p.resend - 1 })
    else match p.txq with
      | [] => none
      | d :: ds =>
        if 512 ≤ p.replay.length then none
        else some (dataFlit p d.2, withTxq { p with seq := (p.seq + 1) % 4096, replay := p.replay ++ [(d.1, dataFlit p d.2)] } ds now)

/-- Sends a port's next flit, which takes its time on the lanes (R407, R409). -/
def sendFlit (p : Port) (time : Nat) : Port :=
  match nextFlit p (time / tickUnits) with
  | some (f, q) => { q with sent := some f, busyTo := time + flitTime p }
  | none => p

/-- Whether a port is at a flit boundary: the flit before has left (R407, R410). -/
def atBoundaryOf (s : State) (port : Nat) : Bool := decide ((getPort s port).busyTo ≤ s.time)

/-- Frees the buffered flits up to the one that an ACK names (R409). -/
def freeFlits (p : Port) (ack : BitVec 12) : Port :=
  if p.replay.any fun f => f.2.seq == ack then
    let rest := (p.replay.dropWhile fun f => f.2.seq != ack).drop 1
    { p with replay := rest, resend := min p.resend rest.length }
  else p

def sat16 (n : Nat) : Nat := min n 65535

/-- Discards a flit; one replay request goes out until the replay arrives, and another if a replayed flit fails its CRC (R409, R414). -/
def rejectFlit (p : Port) (again : Bool) : Port :=
  if p.asked && !again then p else { p with asked := true, ctl := p.ctl ++ [sealFlit 3 (ackOf p) 0 0] }

/-- The errors of a lane within the last 1,000,000 ticks (R410). -/
def laneErrors (p : Port) (lane now : Nat) : List Nat := (Tbl.get [] p.errs lane).filter fun t => decide (now < t + 1000000)

/-- Counts an error of a lane (R410). -/
def countError (p : Port) (lane now : Nat) : Port := { p with errs := Tbl.put [] p.errs lane (laneErrors p lane now ++ [now]) }

/-- Whether a flit passes its CRC: an undefined TYPE counts as a failure (R408). -/
def flitGood (f : Flit) : Bool := f.crc == flitCrc f && decide (f.type.toNat ≤ 4)

/-- Accepts the next data flit: its payload is delivered once, and its number is acknowledged (R409). -/
def acceptFlit (p : Port) (f : Flit) : Port :=
  let p := freeFlits p f.ack
  let p := { p with expect := (p.expect + 1) % 4096, asked := false, received := p.received ++ [f.payload] }
  { p with ctl := p.ctl ++ [sealFlit 2 (ackOf p) 0 0] }

/-- The bytes of a write unit that a payload carries: up to 8, aligned, in the HBM (R266). -/
def peerCells (u : Nat × Nat × Nat) : List (Nat × Byte) :=
  let n := 2 ^ (u.2.1 % 4)
  cellsAt (physKey 0 (u.1 % 2 ^ 40 / n * n)) u.2.2 n

/-- A payload's write units are stamped, on their arrival, by the hub whose port received them (R267, R273). -/
def peerWrites (s : State) (port : Nat) (payload : BitVec 1984) : State :=
  (Config.peerUnits payload).foldl (fun s u => (stampWrite s (hub0 + port / 24) (peerCells u)).1) s

/-! ## Reports of host and peer writes (R248, R273, R275, R405) -/

/-- Takes one report from the `n`-th of those that a list awaits; where it awaits no more than `n`, how many are left to skip. -/
def tookOne {α : Type} (get_ : α → Nat) (put_ : α → Nat → α) (n : Nat) : List α → List α ⊕ Nat
  | [] => .inr n
  | x :: xs =>
    if n < get_ x then .inl (put_ x (get_ x - 1) :: xs)
    else match tookOne get_ put_ (n - get_ x) xs with
      | .inl l => .inl (x :: l)
      | .inr m => .inr m

/-- How commands, issued records and grids keep the reports that they await: of the host, or of a peer. -/
def cmdOwes (host : Bool) (c : Cmd) : Nat := if host then c.pendingHost else c.pendingPeer
def cmdSet (host : Bool) (c : Cmd) (n : Nat) : Cmd := if host then { c with pendingHost := n } else { c with pendingPeer := n }
def issuedOwes (host : Bool) (i : Issued) : Nat := if host then i.pendingHost else i.pendingPeer
def issuedSet (host : Bool) (i : Issued) (n : Nat) : Issued := if host then { i with pendingHost := n } else { i with pendingPeer := n }

/-- The reports that a team's commands await. -/
def teamAwaits (host : Bool) (t : Team) : Nat := (t.jobs.map (cmdOwes host)).sum + (t.issued.map (issuedOwes host)).sum

/-- The reports that a core's commands await. -/
def coreAwaits (host : Bool) (c : Core) : Nat :=
  (c.copyq.map (cmdOwes host)).sum + ([0, 1].map fun tx => match teamAt c tx with | some t => teamAwaits host t | none => 0).sum

/-- A report reaches a team's commands: the `n`-th that they await. -/
def reportTeam (host : Bool) (n : Nat) (t : Team) : Team :=
  match tookOne (cmdOwes host) (cmdSet host) n t.jobs with
  | .inl js => { t with jobs := js }
  | .inr m => match tookOne (issuedOwes host) (issuedSet host) m t.issued with
    | .inl is => { t with issued := is }
    | .inr _ => t

/-- A report reaches a core's commands, the `n`-th that they await: of the copy engine, then of its teams. -/
def reportCore (host : Bool) (n : Nat) (c : Core) : Core :=
  match tookOne (cmdOwes host) (cmdSet host) n c.copyq with
  | .inl q => { c with copyq := q }
  | .inr m =>
    let a := match teamAt c 0 with | some t => teamAwaits host t | none => 0
    let tx := if m < a then 0 else 1
    match teamAt c tx with
    | some t => setTeam c tx (reportTeam host (if m < a then m else m - a) t)
    | none => c

/-- The reports that a saved team awaits. -/
def savedAwaits (host : Bool) (x : SavedTeam) : Nat := if host then x.owes.1 else x.owes.2

/-- The reports that a grid still awaits for a core: of its saved teams that left the core, and what retired teams left owed there. -/
def gridAwaits (host : Bool) (core : Nat) (g : Grid) : Nat :=
  ((g.saved.filter fun x => x.core == core).map (savedAwaits host)).sum + Tbl.get 0 (if host then g.owedHost else g.owedPeer) core

/-- A report reaches a saved team, the `n`-th that it awaits: of its commands, then of those issued before. -/
def reportSavedTeam (host : Bool) (n : Nat) (x : SavedTeam) : SavedTeam :=
  match tookOne (cmdOwes host) (cmdSet host) n x.cmds with
  | .inl cs => { x with cmds := cs }
  | .inr m => { x with team := reportTeam host m x.team }

/-- A report reaches the saved teams of a core, the `n`-th that they await. -/
def reportSaved (host : Bool) (core n : Nat) : List SavedTeam → List SavedTeam
  | [] => []
  | x :: xs =>
    let a := if x.core = core then savedAwaits host x else 0
    if n < a then reportSavedTeam host n x :: xs else x :: reportSaved host core (n - a) xs

/-- A report reaches a grid, the `n`-th that it awaits for a core. -/
def reportGrid (host : Bool) (core n : Nat) (g : Grid) : Grid :=
  let a := ((g.saved.filter fun x => x.core == core).map (savedAwaits host)).sum
  if n < a then { g with saved := reportSaved host core n g.saved }
  else if host then { g with owedHost := Tbl.upd 0 g.owedHost core (· - 1) } else { g with owedPeer := Tbl.upd 0 g.owedPeer core (· - 1) }

/-- A report reaches a grid of a list, the `n`-th that they await for a core. -/
def reportGrids (host : Bool) (core n : Nat) : Tbl (Option Grid) → Tbl (Option Grid)
  | [] => []
  | (i, some g) :: l =>
    let a := gridAwaits host core g
    if n < a then (i, some (reportGrid host core n g)) :: l else (i, some g) :: reportGrids host core (n - a) l
  | e :: l => e :: reportGrids host core n l

/-- How a log entry of a core keeps the reports that its command awaits. -/
def entryOwes (host : Bool) (core : Nat) (e : LogEntry) : Nat := if e.core = core then cmdOwes host e.cmd else 0
def entrySet (host : Bool) (e : LogEntry) (n : Nat) : LogEntry := { e with cmd := cmdSet host e.cmd n }

/-- The reports that a core's parked commands await (R256). -/
def logAwaits (s : State) (host : Bool) (core : Nat) : Nat := ((getDie s (dieOf core)).log.map (entryOwes host core)).sum

/-- A report reaches a parked command of a core, the `n`-th that they await. -/
def reportLog (s : State) (host : Bool) (core n : Nat) : State :=
  match tookOne (entryOwes host core) (entrySet host) n (getDie s (dieOf core)).log with
  | .inl l => modDie s (dieOf core) fun d => { d with log := l }
  | .inr _ => s

/-- The reports that a core's commands await, with those of teams that have left it. -/
def awaits (s : State) (host : Bool) (core : Nat) : Nat :=
  coreAwaits host (getCore s core) + logAwaits s host core + (s.grids.map fun e => match e.2 with | some g => gridAwaits host core g | none => 0).sum

/-- One report for a write that a core's command made: of the reports awaited there, a free one, since a report names no command; a command that has moved
with its team is found on any core (log entry 122). -/
def report (s : State) (host : Bool) (core : Nat) : State :=
  let total := awaits s host core
  if total = 0 then
    match (s.cores.filter fun e => coreAwaits host e.2 != 0).map (·.1) with
    | k :: _ => modCore s k (reportCore host 0)
    | [] => s
  else
    let n := Config.choose s.freeNo % total
    let s := { s with freeNo := s.freeNo + 1 }
    let own := coreAwaits host (getCore s core)
    let parked := logAwaits s host core
    if n < own then modCore s core (reportCore host n)
    else if n < own + parked then reportLog s host core (n - own)
    else { s with grids := reportGrids host core (n - own - parked) s.grids }

/-- The cores whose commands await a peer's report. -/
def awaitPeer (s : State) : List Nat := allCores.filter fun k => awaits s false k != 0

/-- An accepted flit may report that a peer has applied a write; which transactions do is a free value, as the spec gives their layout nowhere (R408). -/
def peerReport (s : State) : State :=
  match awaitPeer s with
  | [] => s
  | l =>
    let n := Config.choose s.freeNo % (l.length + 1)
    let s := { s with freeNo := s.freeNo + 1 }
    match l[n]? with
    | some k => report s false k
    | none => s

/-- FLIT_DATA_RECEIVE (R409). A failed CRC counts against one of the lanes in use, a free one. -/
def execFlitDataReceive (port : Nat) (f : Flit) (s : State) : Host.Outcome State Fault Refusal :=
  .next (
    let p := getPort s port
    if !portCarries p then s
    else if !flitGood f then
      let (lane, s) := pick s ((List.range 4).filter fun l => p.used.getLsbD l)
      let now := tick s
      modPort s port fun p =>
        countError (rejectFlit { p with crcErr := sat16 (p.crcErr + 1) } (f.seq == seqOf p.expect)) (lane.getD 0) now
    else if f.type ≠ 1 then s
    else if f.seq = seqOf p.expect then peerReport (peerWrites (modPort s port fun p => acceptFlit p f) port f.payload)
    else modPort s port fun p => rejectFlit p false)

/-- FLIT_ACK_RECEIVE (R409). -/
def execFlitAckReceive (port : Nat) (ack : BitVec 12) (s : State) : Host.Outcome State Fault Refusal :=
  .next (if portCarries (getPort s port) then modPort s port fun p => freeFlits p ack else s)

/-- FLIT_REPLAY_REQUEST_RECEIVE: every buffered flit after the one named is sent again, in order (R409). -/
def execFlitReplayRequestReceive (port : Nat) (ack : BitVec 12) (s : State) : Host.Outcome State Fault Refusal :=
  .next (
    if !portCarries (getPort s port) then s
    else modPort s port fun p =>
      let p := freeFlits p ack
      { p with replays := sat16 (p.replays + 1), resend := p.replay.length })

/-! ## Lanes (R410, R411, R414) -/

/-- The good lanes of a port. -/
def goodLanes (p : Port) : List Nat := (List.range 4).filter fun l => p.good.getLsbD l

/-- The ticks of R410 for a repair and a retraining. -/
def repairTicks : Nat := 200
def retrainTicks : Nat := 5000

/-- What a port keeps for a peer device, unacknowledged flits first. -/
def keptFor (p : Port) (dev : Nat) : List (Nat × List Byte) :=
  ((p.replay.map fun f => (f.1, payloadBytes f.2.payload)) ++ p.txq).filter (·.1 == dev)

/-- Hands over what a port keeps for one peer to another port of the peer's set, a free one of those that are up; where none is up it waits for the port's
return (R410, R412). -/
def handPeer (port : Nat) (s : State) (dev : Nat) : State :=
  let (o, s) := pick s ((peerPorts s dev).filter (· != port))
  match o with
  | none => s
  | some o =>
    let l := keptFor (getPort s port) dev
    let now := tick s
    let gone := fun p => withTxq { p with replay := p.replay.filter (·.1 != dev), resend := 0 } (p.txq.filter (·.1 != dev)) now
    modPort (modPort s port gone) o fun p => withTxq p (l ++ p.txq) now

/-- A port that goes down hands what it keeps to the other ports of its sets, in the order it had (R410, R412). -/
def handOver (s : State) (port : Nat) : State :=
  let p := getPort s port
  ((p.replay.map (·.1) ++ p.txq.map (·.1)).eraseDups).foldl (handPeer port) s

/-- The lane control flit by which the far end drops a lane too; the spec gives no layout of what it carries, so its payload is free (R408, R410). -/
def laneFlit (s : State) (p : Port) : Flit :=
  sealFlit 4 (ackOf p) 0 (payloadOf ((List.range 248).map fun i => Config.peerByte (s.freeNo + i)))

/-- A lane is dropped at this end; `tell` says that the far end has to be told. The port goes on with the rest, or retrains with fewer than two
(R410). -/
def dropLane (s : State) (port lane : Nat) (tell : Bool) : State :=
  let now := tick s
  let s := if tell then modPort { s with freeNo := s.freeNo + 248 } port fun p => { p with ctl := p.ctl ++ [laneFlit s p] } else s
  let s := modPort s port fun p =>
    let good := p.good &&& ~~~BitVec.twoPow 4 lane
    let p := { p with
      good := good, used := p.used &&& good, repairing := p.repairing ++ [(lane, now + repairTicks)], errs := Tbl.put [] p.errs lane [], told := p.told.erase lane }
    if (goodLanes p).length < 2 then { p with st := .retraining (now + retrainTicks), repairing := [], told := [], highSince := 0 }
    else if p.used = 0 then { p with used := BitVec.twoPow 4 ((goodLanes p).headD 0) }
    else p
  if portCarries (getPort s port) then s else notePeers (handOver s port)

/-- Whether a lane of a port is to be repaired: its errors pass ETHR, or the far end drops it (R410). -/
def repairDue (s : State) (port lane : Nat) : Bool :=
  let p := getPort s port
  portCarries p && p.good.getLsbD lane && (p.told.contains lane || decide (p.ethr < (laneErrors p lane (tick s)).length))

/-- FLIT_SEND: at a flit boundary, once the lanes that are to be repaired have been dropped (R407, R409, R410, R414) (log entry 86). -/
def execFlitSend (port : Nat) (s : State) : Host.Outcome State Fault Refusal :=
  .next (if portCarries (getPort s port) && atBoundaryOf s port && !((List.range 4).any (repairDue s port)) then modPort s port fun p => sendFlit p s.time else s)

/-- LANE_REPAIR: a lane whose errors pass ETHR, or that the far end drops, is dropped at the next flit boundary (R410). -/
def execLaneRepair (port lane : Nat) (s : State) : Host.Outcome State Fault Refusal :=
  .next (if repairDue s port lane && atBoundaryOf s port then dropLane s port lane (!(getPort s port).told.contains lane) else s)

/-- LANE_CONTROL_FLIT_RECEIVE: the far end drops a repaired lane, and so does this one at its next flit boundary (R408, R410). -/
def execLaneControlFlitReceive (port lane : Nat) (s : State) : Host.Outcome State Fault Refusal :=
  .next (
    let p := getPort s port
    if portCarries p && p.good.getLsbD lane && !p.told.contains lane then modPort s port fun p => { p with told := p.told ++ [lane] } else s)

/-- The device event of a repair or retraining beyond its budget, for every bound grid that runs, and the longer bound of the writes that it has held up
(R272, R351, R410). -/
def blameLate (s : State) (due : Nat) : State :=
  if tick s ≤ due then s
  else
    let late := tick s - due
    let s := holders.foldl (fun s d => modView s d fun v => { v with flight := v.flight.map fun w => { w with late := max w.late late } }) s
    (s.grids.map (·.1)).foldl (fun s i => match getGrid s i with
    | some g => if !g.loose && g.st == .running then blame s i .device else s
    | none => s) s

/-- LANE_REPAIR_DONE (R410). -/
def execLaneRepairDone (port : Nat) (s : State) : Host.Outcome State Fault Refusal :=
  .next (match (getPort s port).repairing with
    | [] => s
    | (_, due) :: l => blameLate (modPort s port fun p => { p with repairing := l }) due)

/-- PORT_RETRAIN_DONE: the port comes up with its good lanes and sends its replay buffer again (R410) (log entry 84). -/
def execPortRetrainDone (port : Nat) (s : State) : Host.Outcome State Fault Refusal :=
  .next (match (getPort s port).st with
    | .retraining due =>
      blameLate (notePeers (modPort s port fun p => { p with
        st := .up, used := if p.good = 0 then 0xF else p.good, good := if p.good = 0 then 0xF else p.good, resend := p.replay.length })) due
    | _ => s)

/-- Whether a port sheds: FAB_CTL.SHED, no repair that goes on or falls due, and at most 2 flits queued for 10,000 ticks (R411, R414). -/
def canShed (s : State) (port : Nat) : Bool :=
  let p := getPort s port
  p.st == .up && (getHub s (port / 24)).shed && p.repairing.isEmpty && !((List.range 4).any (repairDue s port)) && decide (p.txq.length ≤ 2) && decide (p.lowSince + 10000 ≤ tick s)

/-- LANE_SHED (R411). -/
def execLaneShed (port : Nat) (s : State) : Host.Outcome State Fault Refusal :=
  .next (if canShed s port then modPort s port fun p => { p with st := .shed, used := BitVec.twoPow 4 ((goodLanes p).headD 0) } else s)

/-- LANE_REGAIN: a queue that has passed 8 flits brings back every good lane (R411). -/
def execLaneRegain (port : Nat) (s : State) : Host.Outcome State Fault Refusal :=
  .next (
    let p := getPort s port
    if p.st == .shed && p.highSince != 0 then modPort s port fun p => { p with st := .up, used := p.good, highSince := 0 } else s)

/-! ## Peers out of reach (R412) -/

/-- Whether a peer's set has been empty for 5,000 ticks; an entry never written has been so since reset. -/
def peerLost (s : State) (dev : Nat) : Bool :=
  (peerPorts s dev).isEmpty && decide (Tbl.get 0 s.peerDown dev - 1 + 5000 ≤ tick s)

/-- The elements of a command; a FATOM has one. -/
def elemsOf (g : Grid) (c : Cmd) : Nat :=
  match c.kind with
  | .copy r _ _ _ _ => prod r.bs
  | .stage ri _ _ _ | .wback ri _ _ _ => (match g.kernel.regions[ri]? with | some r => r.count | none => 0)
  | .fatom _ _ _ _ _ _ => 1

/-- The pages of an element of a command, each by an address of the element on it. -/
def pagesOfElem (g : Grid) (c : Cmd) (n : Nat) : List Nat :=
  let on (va : Int) (n : Nat) := (partsOf va n).map fun p => p.1.toNat
  if elemsOf g c ≤ n then []
  else match c.kind with
    | .copy r coords _ _ loc => on (copyElem r coords loc n).va r.elem
    | .stage ri _ t _ | .wback ri _ t _ => (match g.kernel.regions[ri]? with | some r => on (regionElem g r t n).1 (2 ^ r.elog) | none => [])
    | .fatom _ _ addr _ _ _ => [addr]

/-- The pages that a command still needs: of its next element, and of every element while it awaits a peer's report. -/
def neededPages (g : Grid) (c : Cmd) : List Nat :=
  (match c.kind with | .fatom _ _ _ _ _ _ => pagesOfElem g c 0 | _ => (match elemNo c with | some n => pagesOfElem g c n | none => [])) ++
    (if c.pendingPeer = 0 then [] else (List.range (elemsOf g c)).flatMap (pagesOfElem g c))

/-- Whether a command needs a peer device. -/
def needsPeer (s : State) (g : Grid) (dev : Nat) (c : Cmd) : Bool :=
  (neededPages g c).any fun v => match walkTree s g.vi v with | some l => l.pte.tgt == 3 && keyPeer (leafKey l v) == dev | none => false

/-- Stops the commands of a team that need a peer with SOFT, stage 3 (log entry 85). -/
def losePeer (s : State) (dev k tx : Nat) : State :=
  match teamGrid s (getTeam s k tx) with
  | none => s
  | some g =>
    let gid := (getTeam s k tx).grid
    let cs := ((getCore s k).copyq.filter fun c => c.tx == tx && needsPeer s g dev c).map fun c => (c, true)
    let js := ((getTeam s k tx).jobs.filter (needsPeer s g dev)).map fun c => (c, false)
    (cs ++ js).foldl (fun s e => softError s k gid e.1 3 (if e.2 then takeCopy k e.1.serial else takeJob k tx e.1.serial)) s

/-- PEER_UNREACHABLE_TIMEOUT (R412). -/
def execPeerUnreachableTimeout (dev : Nat) (s : State) : Host.Outcome State Fault Refusal :=
  .next (
    if !peerLost s dev then s
    else (s.cores.flatMap fun e => [(e.1, 0), (e.1, 1)]).foldl (fun s e => losePeer s dev e.1 e.2) s)

/-! ## HOST_COMPLETION (R248, R275, R405) -/

/-- HOST_COMPLETION: the host completes a read after `ticks` ticks, or reports a write. The time of a read beyond 1,000 ticks is excused for the grid of the
command that reads, a free one of the reads that the core awaits from the host (R405) (log entry 122). -/
def execHostCompletion (core : Nat) (write : Bool) (ticks : Nat) (s : State) : Host.Outcome State Fault Refusal :=
  .next (
    if write then report s true core
    else
      let (p, s) := pick s (getCore s core).hostReads
      match p with
      | some i => modGrid (modCore s core fun c => { c with hostReads := c.hostReads.erase i }) i fun g => { g with excused := g.excused + (ticks - 1000) }
      | none => s)

end Sys2Proof.Machine
end

