-- ==== Sys2Proof/Machine/Flaws.lean ====
section
/-! DEFINITION. Soft errors of the die stores, of the cores' SRAM, of register files and of accumulators (R258, R381). Where and when they fall is no
part of the spec: a free value. -/
namespace Sys2Proof.Machine

/-- Whether a command moves data: it has left its queue. -/
def inProgress (c : Cmd) : Bool :=
  match c.st with
  | .queued | .blocked _ _ _ => false
  | _ => true

/-- An uncorrectable error that a group meets: its lanes park under SOFT with the stage (R258, R381). -/
def strikeGroup (s : State) (k tx g stage : Nat) : State :=
  let ls := liveLanes (getGroup s k tx g) (BitVec.allOnes 32)
  match ls with
  | l :: _ =>
    if !(trapRoom s k tx g) || ending s (getTeam s k tx).grid then s
    else trapAt s k tx g (laneAt (getGroup s k tx g) l).pc (ls.map fun l => ⟨l, ⟨.soft, stage, 0, 0⟩⟩)
  | [] => s

/-- An uncorrectable error that a command meets: the command stops without its increment (R258). -/
def strikeCmd (s : State) (k : Nat) (c : Cmd) (stage : Nat) : State :=
  let gid := (getTeam s k c.tx).grid
  if !(inProgress c) || ending s gid then s
  else softError s k gid c stage fun s => takeJob k c.tx c.serial (takeCopy k c.serial s)

/-- A soft error of stage 2, 4, 5 or 6: one that can be corrected is corrected in place and counted; else the command or the group that meets it stops.
The die store is used by the engines alone, register files and accumulators by groups alone (R258, R381) (log entry 129). -/
def strike (s : State) (f : Config.Flaw) : State :=
  if !([2, 4, 5, 6].contains f.stage) then s
  else if f.correctable then modDie s (dieOf f.core) fun d => { d with fixed := Tbl.upd 0 d.fixed f.stage (· + 1) }
  else match (if f.stage ≤ 4 then (engineCmds (getCore s f.core))[f.cmd]? else none) with
    | some c => strikeCmd s f.core c f.stage
    | none => if f.stage = 2 || (teamAt (getCore s f.core) f.place).isNone || f.place ≥ 2 then s else strikeGroup s f.core f.place f.group f.stage

/-- The soft errors of a tick. -/
def strikes (s : State) : State := (Config.flaws s.freeNo (tick s)).foldl strike s

end Sys2Proof.Machine
end

