-- ==== Sys2Proof/Machine/Predict.lean ====
section
/-! DEFINITION. The launch predictor and the Fly (R362 to R379). -/
namespace Sys2Proof.Machine

/-! ## Forming a prediction (R362, R363) -/

/-- The kernel hash of a history entry. -/
def hashAt (h : List HistEntry) (i : Nat) : Option Nat := (h[i]?).map (·.kernel.hash)

/-- The predicted kernel's hash: the order-2 match with the largest i, else the repeat (R362). Positions count from 0. -/
def predictedHash (h : List HistEntry) : Option Nat :=
  let m := h.length
  if m < 2 then none
  else
    let is := (List.range (m - 1)).filter fun i => decide (1 ≤ i) && hashAt h (i - 1) == hashAt h (m - 2) && hashAt h i == hashAt h (m - 1)
    match is.getLast? with
    | some i => hashAt h (i + 1)
    | none => if hashAt h (m - 2) = hashAt h (m - 1) then hashAt h (m - 1) else none

/-- The index of the newest entry below `n` that passes a test. -/
def newestBelow (h : List HistEntry) (n : Nat) (f : HistEntry → Bool) : Option Nat :=
  ((List.range n).filter fun i => match h[i]? with | some e => f e | none => false).getLast?

/-- The argument block by stride detection (R363). -/
def strideArgs (p2 : HistEntry) (p1 : Option HistEntry) : List DWord :=
  p2.argBlock.zipIdx.map fun e => match p1 with
    | some a => if masked p2.kernel e.2 then e.1 else e.1 + (e.1 - a.argBlock.getD e.2 0)
    | none => e.1

/-- The predicted launch: the newest entry of the predicted kernel, and its argument block; none where that entry is not eligible (R362, R363). -/
def predictedLaunch (h : List HistEntry) : Option (HistEntry × List DWord) :=
  (predictedHash h).bind fun x =>
    (newestBelow h h.length fun e => e.kernel.hash == x).bind fun i =>
      (h[i]?).bind fun p2 =>
        let p1 := (newestBelow h i fun e => e.kernel.hash == x && e.descr.x == p2.descr.x && e.descr.y == p2.descr.y && e.descr.z == p2.descr.z &&
          e.descr.cores == p2.descr.cores).bind fun j => h[j]?
        if p2.eligible then some (p2, strideArgs p2 p1) else none

/-! ## PREDICTION_START (R364, R365) -/

/-- Whether a pair is idle: no team on its two cores, and no reservation (R364). -/
def pairIdle (s : State) (p : Nat) : Bool := pairsFree s [p] && !pairReserved s p

/-- Whether the teams of a place of a core belong to ballast, which makes way for a predicted run (R353, R392). -/
def ballastPlace (s : State) (k tx : Nat) : Bool :=
  match teamAt (getCore s k) tx with
  | none => true
  | some t => match teamGrid s t with
    | some g => g.loose && g.pred.isNone && g.descr.prio == 11
    | none => false

/-- Whether a pair is idle but for ballast. -/
def pairYields (s : State) (p : Nat) : Bool :=
  !pairReserved s p && [2 * p, 2 * p + 1].all fun k => ballastPlace s k 0 && ballastPlace s k 1

/-- The power shares of the running predictions. -/
def predPower (s : State) : Nat :=
  (s.preds.map fun e => match e.2 with | some p => if p.finished.isNone && !p.adopted then p.power16 else 0 | none => 0).sum

/-- Whether the most recently bound launch of a queue has written its record (R364). -/
def recorded (s : State) (q : Queue) : Bool := match q.lastBound with | some g => (getGrid s g).isNone | none => false

/-- The queues with lower hardware slots come first for the last free place (R364); a queue without a slot comes last. -/
def slotOf (q : Queue) : Nat := q.slot.getD 256

/-- A predicted launch walked as a LOOSE grid: its pairs, its cores, its grant, its terms and its kernel (R343, R365); none where it cannot start. `ok` are
the pairs that it may take. -/
def predOffer (s : State) (ok : Nat → Bool) (vi : Nat) (e : HistEntry) (args : List DWord) : Option (Grant × List Nat × WalkTerms × Kernel) :=
  let d := { e.descr with loose := true, sign := false }
  if e.kernel.regions.any (regionBad d args) || anyOverlap e.kernel.regions then none
  else match coresOf (dealPairs (usableDies s d.dies) ok) d.cores, grantOf s d with
    | some cs, .ok g =>
      (match walkOn s vi e.kernel d args g with
      | .ok (t, k) => if powerShare d.cores g.point + predPower s + (s.reservations.map (·.power16)).sum + 24000 ≤ 160000 then some (g, cs, t, k) else none
      | .error _ => none)
    | _, _ => none

/-- Starts a predicted run (R365). -/
def startPred (s : State) (k : Nat) (e : HistEntry) (args : List DWord) (o : Grant × List Nat × WalkTerms × Kernel) : State :=
  let i := s.nextGrid
  let d := { e.descr with loose := true, sign := false }
  let now := tick s
  let g : Grid :=
    { vi := queueVi k, q := k % 1024, qid := 0, tag := 0, kernel := o.2.2.2, descr := d, argBlock := args, loose := true, terms := o.2.2.1,
      floor := o.1.point, st := .running, cores := o.2.1, started := now, nextTile := 0, admitted := [], declared := rangesOf e.kernel d args,
      traps := [], tcount := 0, events := [], excused := 0, pj := 0, pjJudged := 0, energy0 := [], coreNj := 0, saved := [], clock := [],
      req := none, hostReq := false, sliceEnd := none, pred := some i, claimed := false, droop0 := [], retired := 0, remapped := none, need := [],
      owedHost := [], owedPeer := [], est := now, accepted := now, qdescr := none }
  let p : Prediction :=
    { vi := queueVi k, q := k % 1024, grid := i, readSet := [], shadows := [], power16 := powerShare d.cores o.1.point, finished := none,
      adopted := false, launch := none, checked := false }
  let s := (o.2.1.map clusterOf).eraseDups.foldl (fun s c => modCluster s c id) s
  let s := { s with nextGrid := i + 1, grids := Tbl.set s.grids i (some g), preds := Tbl.set s.preds i (some p) }
  let s := modQueue s k fun q => { q with predicted := true, wants := false }
  placeTeams (recount (bumpPrd s 0) i id) i g o.2.1

/-- What a queue would predict on the pairs that pass a test, if it may (R364) (log entry 72). -/
def predictOn (s : State) (ok : Nat → Bool) (k : Nat) : Option (HistEntry × List DWord × Grant × List Nat × WalkTerms × Kernel) :=
  match getQueue s k with
  | none => none
  | some q =>
    if q.predicted || !recorded s q || (predOf s k).isSome || 8 ≤ s.preds.length || !s.prdEn || s.flySize = 0 then none
    else (predictedLaunch q.history).bind fun e => (predOffer s ok (queueVi k) e.1 e.2).map fun o => (e.1, e.2, o)

/-- What a queue would predict now (R364). -/
def mayPredict (s : State) (k : Nat) : Option (HistEntry × List DWord × Grant × List Nat × WalkTerms × Kernel) := predictOn s (pairIdle s) k

/-- Asks the ballast on the cores that a prediction needs to make way, once; else notes that the queue waits for none (R392). -/
def askBallast (s : State) (k : Nat) : State :=
  match predictOn s (pairYields s) k with
  | some (_, _, _, cs, _) => modQueue (preemptLoose s ((cs.map pairOf).eraseDups)) k fun q => { q with wants := true }
  | none => modQueue s k fun q => { q with wants := false }

/-- PREDICTION_START; ballast makes way for a prediction (R364, R365, R392). -/
def execPredictionStart (q : Nat) (s : State) : Host.Outcome State Fault Refusal :=
  .next (
    let lower := s.queues.any fun e => match e.2, getQueue s q with
      | some x, some y => decide (slotOf x < slotOf y) && (mayPredict s e.1).isSome
      | _, _ => false
    match mayPredict s q with
    | some (e, args, o) => if lower then s else startPred s q e args o
    | none => askBallast s q)

/-! ## PREDICTION_REVALIDATE (R370 to R372) -/

/-- The physical byte at which a granule of a read set lies now. -/
def granuleKey (s : State) (r : ReadEntry) : Option Nat := (walkTree s r.vi r.va).map fun l => leafKey l r.va

/-- Whether the home die of each granule of a read set has applied all that a launch's clock covers (R370). -/
def viewsReady (s : State) (p : Prediction) (clock : List Nat) : Bool :=
  p.readSet.all fun r => match granuleKey s r with | some key => dominates (getView s (homeOf key)).vc clock | none => true

/-- Whether every generation of a read set is as it was (R370). -/
def gensAgree (s : State) (p : Prediction) : Bool :=
  p.readSet.all fun r => match granuleKey s r with | some key => genOf s key == r.gen | none => false

/-- The ticks that a claim of `q` pages may take (R371). -/
def claimTicks (q : Nat) : Nat := 600 + 10 * q

/-- The tiles of a run that have not been completed: those not handed out, and those claimed and not done (R372). -/
def tilesLeft (s : State) (i : Nat) (g : Grid) : Nat :=
  let held := ((teamsOf s i).map fun e => let t := getTeam s e.1 e.2; (if t.current.isSome then 1 else 0) + (if t.next.isSome then 1 else 0)).sum
  tileCount g.descr - g.nextTile + held

/-- The pages of a launch's out regions (R372). -/
def outPages (s : State) (g : Grid) : Nat :=
  let rs := (List.zip g.kernel.regions g.declared).filter fun e => e.1.dir != 0
  (declaredPages s g.vi (rs.map (·.2))).length

/-- Rrem (R372). -/
def remaining (s : State) (i : Nat) (g : Grid) : Nat :=
  let n := g.descr.cores
  margin ((tilesLeft s i g + n - 1) / n * g.terms.t + g.terms.wb + claimTicks (outPages s g))

/-- Whether a BOUND launch may adopt a run: every cluster that runs it can hold its point (R347, R372). -/
def canHold (s : State) (g r : Grid) : Bool :=
  g.cores.all fun k =>
    let d := getDie s (dieOf k)
    !(dieHot d) && decide (dieCap d ≤ g.floor) &&
      !(s.reservations.any fun x => x.qid != r.qid && x.point != g.floor && x.pairs.any fun p => clusterOf (2 * p) == clusterOf k)

/-- The reservation of an adopting launch: the run's pairs in place of the granted ones, which are free at once (R372). -/
def moveReservation (s : State) (r : Grid) (g : Grid) : State :=
  match s.reservations.find? (·.qid == r.qid) with
  | none => s
  | some x =>
    let pairs := (g.cores.map pairOf).eraseDups
    let s := { s with reservations := s.reservations.map fun y =>
      if y.qid = r.qid then { y with pairs := pairs, cores := g.cores, point := g.floor,
                                     rates := ((g.cores.map clusterOf).eraseDups).map fun c => (c, (x.rates.map (·.2)).foldl max 600) } else y }
    let s := ((g.cores.map clusterOf).eraseDups).foldl (fun s c => holdPoint s c g.floor) s
    ((x.pairs.map fun p => clusterOf (2 * p)).eraseDups).foldl letPoint s

/-- The run becomes the launch's grid (R372, R373). -/
def adopt (s : State) (k i gid : Nat) (p : Prediction) (g r : Grid) (bound : Nat) : State :=
  let s := if p.finished.isNone then addPrdEnergy s (runEnergy s g) else s
  let s := if r.loose then leaveLevel s gid r else moveReservation s r g
  let d := { r.descr with loose := r.loose }
  let g' := { g with
    qid := r.qid, tag := r.tag, descr := d, loose := r.loose, terms := r.terms, est := r.est, accepted := r.accepted, qdescr := r.qdescr,
    started := bound, claimed := true, events := r.events ++ takenLow s r.loose g.cores g.floor, traps := [], tcount := 0, excused := 0, pj := 0, pjJudged := 0, clock := r.clock,
    energy0 := [], coreNj := 0, droop0 := (g.cores.map clusterOf).eraseDups.map fun c => (c, (getCluster s c).droopCount),
    sliceEnd := if r.loose then some (tick s + r.descr.slice * 1000) else none, floor := if r.loose then r.floor else g.floor }
  let s := { s with grids := Tbl.set (Tbl.erase s.grids gid) i (some g'),
                    preds := Tbl.set s.preds i (some { p with adopted := true, checked := true }),
                    reservations := s.reservations.map fun x => if x.qid = r.qid then { x with endTick := bound + r.terms.wct } else x }
  let s := modQueue s k fun q => { q with
    lastBound := some i, pending := q.pending.map fun e => if e.grid = some gid then { e with grid := some i } else e }
  bumpPrd (joinLevel (recount s i id) i g') 2

/-- Whether a grid is ending or has ended. -/
def ended : GridSt → Bool
  | .terminating _ _ | .finished => true
  | _ => false

/-- PREDICTION_REVALIDATE: a run that has trapped is discarded; after the dominance wait the generations are compared; then the run is to be claimed, is
adopted, or is discarded (R370 to R372, R374, R378). -/
def execPredictionRevalidate (q : Nat) (s : State) : Host.Outcome State Fault Refusal :=
  .next (match predOf s q with
    | none => s
    | some (i, p) =>
      if p.adopted then s
      else match p.launch, getGrid s i with
      | some (gid, bound), some g =>
        (match getGrid s gid with
        | none => discard s i 8
        | some r =>
          if ended r.st then discard s i 8
          else if !g.traps.isEmpty then discard s i 6
          else if p.checked || r.st ≠ .waiting || !viewsReady s p r.clock then s
          else if !gensAgree s p then discard s i 4
          else if p.finished.any fun t => decide (t ≤ bound) then
            if r.terms.wct < claimTicks p.shadows.length then discard s i 5
            else { s with preds := Tbl.set s.preds i (some { p with checked := true }) }
          else if r.terms.wct < remaining s i g || (!r.loose && !canHold s g r) then discard s i 5
          else adopt s q i gid p g r bound)
      | _, _ => s)

/-! ## PREDICTION_CLAIM (R371, R373, R379) -/

/-- Remaps one shadowed page: its entry takes the shadow's frame, the frame that it named joins the Fly, and the generations that the page has there go
with it, raised by 1 (R371, R379). A page that has gone to the tier leaves its slot there (log entry 126). -/
def remapPage (s : State) (x : Shadow) : State :=
  match walkTree s x.vi x.va with
  | none => s
  | some l =>
    let old := leafKey l (pageBase l x.va)
    let s := (List.range (x.size / 65536)).foldl (fun s j =>
      let n := genOf s (old + j * 65536)
      modDie s (homeOf (x.frame + j * 65536)) fun d => { d with gens := Tbl.put 0 d.gens (keyFrame (x.frame + j * 65536)) ((n + 1) % 2 ^ 48) }) s
    let s := writeEntry s l (retarget (viewNat s hub0 l.entry 8) 0 (keyFrame x.frame))
    let s := if keyTgt old = 0 then { s with flyFrames := Tbl.set s.flyFrames old x.size } else s
    (List.range 8).foldl (fun s d => modDie s d fun y => { y with
      tlb := y.tlb.filter fun e => !(e.vi == x.vi && decide (x.va ≤ e.page * 65536) && decide (e.page * 65536 < x.va + x.size)) }) s

/-- A claim: the pages are remapped, and the launch's record may be written once the remap is applied everywhere (R273, R371, R373) (log entry 73). -/
def claim (s : State) (i gid : Nat) (p : Prediction) (f : Grid → Grid) : State :=
  let s := p.shadows.foldl remapPage s
  let c := clockNow s
  let s := { s with preds := Tbl.erase s.preds i }
  modGrid s gid fun g => { (f g) with claimed := true, pred := none, remapped := some p.shadows.length, need := c }

/-- PREDICTION_CLAIM (R371 to R373, R377). -/
def execPredictionClaim (q : Nat) (s : State) : Host.Outcome State Fault Refusal :=
  .next (match predOf s q with
    | none => s
    | some (i, p) =>
      match getGrid s i with
      | none => s
      | some g =>
        if !p.checked then s
        else if p.adopted then
          if gridOver g && !ended g.st then claim s i i p id else s
        else match p.launch with
          | none => s
          | some (gid, bound) =>
            match getGrid s gid with
            | none => s
            | some r =>
              if r.st ≠ .waiting then s else
              let s := claim s i gid p fun x => { x with started := bound, cores := g.cores, retired := g.cores.length, st := .running }
              let s := leaveLevel s gid r
              bumpPrd { s with grids := Tbl.erase s.grids i } 1)

/-- PREDICTION_HOLD_EXPIRY: a finished prediction that no launch has bound within HOLD µs; a HOLD of 0 is treated as 1 (R374, R375, R378). -/
def execPredictionHoldExpiry (q : Nat) (s : State) : Host.Outcome State Fault Refusal :=
  .next (match predOf s q with
    | none => s
    | some (i, p) =>
      match p.finished with
      | some t => if p.launch.isNone && !p.adopted && decide (t + 1000 * max 1 s.prdHold ≤ tick s) then discard s i 9 else s
      | none => s)

/-! ## FLY_CTL (R376) -/

/-- The size that a write of FLY_CTL sets: a multiple of 8 GiB, at most 64 (log entry 74). -/
def flySizeOf (val : DWord) : Nat := min 64 (fieldAt val.toNat 0 7 / 8 * 8)

/-- FLY_CTL_WRITE: held while predictions are in flight; a write that takes effect at once supersedes one that is held (R376). -/
def execFlyCtlWrite (val : DWord) (s : State) : Host.Outcome State Fault Refusal :=
  .next (if s.preds.isEmpty then { s with flySize := flySizeOf val, flyWrite := none } else { s with flyWrite := some val })

/-- FLY_CTL_APPLY: a held write takes effect (R376). -/
def execFlyCtlApply (s : State) : Host.Outcome State Fault Refusal :=
  .next (match s.flyWrite with
    | some v => if s.preds.isEmpty then { s with flySize := flySizeOf v, flyWrite := none } else s
    | none => s)

/-- FLY_USED (R376). -/
def flyUsedAll (s : State) : Nat := ((List.range 8).map (flyUsed s)).sum

end Sys2Proof.Machine
end

