-- ==== Sys2Proof/Machine/Ballast.lean ====
section
/-! DEFINITION. The power controller: current limits (R15, R428), ballast and toggle burn (R433). -/
namespace Sys2Proof.Machine

/-! ## Current and ballast (R428, R433) -/

/-- The ballast contexts that run. -/
def ballastRunning (s : State) : List Nat :=
  (levelList s 11).filter fun i => match getGrid s i with | some g => g.st == .running | none => false

/-- Whether some ballast context waits for cores (log entry 79). -/
def ballastWaits (s : State) : Bool :=
  (levelList s 11).any fun i => match getGrid s i with | some g => g.st == .waiting || g.st == .saved | none => false

/-- The toggle-burn duty of a core, in sixteenths: a core that holds a team or a reservation does not burn, nor does any with a target of 0 (R433,
R435). -/
def burnOf (s : State) (k : Nat) : Nat :=
  if s.ballastSet = 0 || !(heldPlaces (getCore s k)).isEmpty || pairReserved s (pairOf k) then 0 else s.burn

/-- The queue whose prediction starts first, where one can start: a lower hardware slot comes first (R364). -/
def firstPred (s : State) : Option (Nat × HistEntry × List DWord × Grant × List Nat × WalkTerms × Kernel) :=
  (sorted (fun a b => decide (a.1 ≤ b.1)) (s.queues.filterMap fun e => e.2.map fun q => (slotOf q, e.1))).findSome? fun e =>
    (mayPredict s e.2).map fun o => (e.2, o)

/-- Sheds load: burn first, then ballast, then one point of each governed cluster (R433) (log entry 97). -/
def shedLoad (s : State) : State :=
  if s.burn ≠ 0 then { s with burn := s.burn - 1 }
  else if s.ballastOn || !(ballastRunning s).isEmpty then
    (ballastRunning s).foldl (fun s i => requestSave s i false) { s with ballastOn := false }
  else (List.range 72).foldl (fun s c =>
    let x := getCluster s c
    if governed x && decide (x.cur < 5) then setPoint (modCluster s c fun x => { x with limit := x.cur + 1 }) c (x.cur + 1) else s) s

/-- Adds load: a prediction starts, else ballast contexts may be placed, else burn rises by a sixteenth (R433). -/
def addLoad (s : State) : State :=
  let s := (List.range 72).foldl (fun s c => modCluster s c fun x => { x with limit := 0 }) s
  match firstPred s with
  | some (k, e, args, o) => startPred s k e args o
  | none => if !s.ballastOn || ballastWaits s then { s with ballastOn := true } else { s with burn := min 16 (s.burn + 1) }

/-- Whether a current limit would be passed at the next measurement (R428). -/
def overCurrent (s : State) : Bool := decide (20 ≤ s.overPkg) || (List.range 8).any fun d => decide (20 ≤ (getDie s d).overNow)

/-- CURRENT_SAMPLE: every 1,000 ticks, the amperes of each die (R428). -/
def execCurrentSample (amps : List Nat) (s : State) : Host.Outcome State Fault Refusal :=
  .next (
    let s := (List.zip (List.range 8) amps).foldl (fun s e =>
      modDie s e.1 fun d => { d with overNow := if 2500 < e.2 then d.overNow + 1 else 0 }) s
    let s := { s with currentDue := tick s + 1000, overPkg := if 20000 < amps.sum then s.overPkg + 1 else 0 }
    if overCurrent s then shedLoad s else s)

/-- POWER_CONTROL_SAMPLE: every 10,000 ticks, the mean package power is compared with the target, which is at most 10,000 W (R15, R433). With a target of 0
no ballast context is placed and no core burns. -/
def execPowerControlSample (watts : BitVec 16) (s : State) : Host.Outcome State Fault Refusal :=
  .next (
    let target := min s.ballastSet.toNat 10000
    let s := { s with pwrPkg := watts, powerDue := tick s + 10000 }
    let s := if target = 0 then { s with ballastOn := false, burn := 0 } else s
    if target < watts.toNat || overCurrent s then shedLoad s
    else if watts.toNat < target then addLoad s
    else s)

end Sys2Proof.Machine
end

