-- ==== Sys2Proof/Machine/Host.lean ====
section
/-! DEFINITION. The host interface: registers of the virtual interfaces, the host's reads and writes of device memory, keys, and attestation (R369, R416
to R422), and the registers whose write has no behaviour of its own. -/
namespace Sys2Proof.Machine

/-! ## Translation tables (R236, R238) -/

/-- The indices of a table that hold a byte that is not zero. -/
def tableIndices (s : State) (frame lv : Nat) : List Nat :=
  let base := physKey 0 (frame * 65536)
  let n := if lv = 0 then 32 else 512
  (((getView s hub0).bytes.filter fun e => decide (base ≤ e.1) && decide (e.1 < base + 8 * n)).map fun e => (e.1 - base) / 8).eraseDups

/-- The tables of a tree below one: the frame, the level, and the first address that each maps. -/
def treeTables (s : State) (frame va : Nat) : Nat → List (Nat × Nat × Nat)
  | 0 => [(frame, 0, va)]
  | lv + 1 => (frame, lv + 1, va) :: (tableIndices s frame (lv + 1)).flatMap fun i =>
      let a := va + i * pageSize (lv + 1)
      let e := (entryAt s a frame (lv + 1)).pte
      if pteValid e (lv + 1) && !e.leaf then treeTables s e.frame a lv else []

/-- A translation entry of an interface: the first address that it maps, and its level. -/
structure EntryOf where
  vi : Nat
  va : Nat
  level : Nat
  deriving DecidableEq, Repr

/-- The translation entries that lie at the 8 bytes from a physical byte. -/
def entriesAt (s : State) (key : Nat) : List EntryOf :=
  (List.range 64).flatMap fun vi =>
    (treeTables s ((getVi s vi).root.toNat / 2 ^ 16 % 2 ^ 32) 0 4).filterMap fun t =>
      let base := physKey 0 (t.1 * 65536)
      let n := if t.2.1 = 0 then 32 else 512
      if base ≤ key && key < base + 8 * n then some ⟨vi, t.2.2 + (key - base) / 8 * pageSize t.2.1, t.2.1⟩ else none

/-- The pages of an interface that count as pinned: those that a reservation pins, and the shadowed pages of an adopted run (R238, R369). -/
def pinnedPages (s : State) (vi : Nat) : List Nat :=
  (s.reservations.filter fun r => r.vi == vi).flatMap (·.pinned) ++
    s.preds.flatMap fun e => match e.2 with
      | some p => if p.adopted && p.vi == vi then p.shadows.map (·.va) else []
      | none => []

/-- Whether two forms of an entry differ in V, TGT or FRAME. -/
def mapsElse (a b : Pte) : Bool := a.v != b.v || a.tgt != b.tgt || a.frame != b.frame

/-- Whether a write to an entry is refused: it would change V, TGT or FRAME of a pinned page (R238, R369). -/
def entryRefused (s : State) (old new : Pte) (e : EntryOf) : Bool :=
  old.leaf && mapsElse old new && (pinnedPages s e.vi).contains e.va

/-- The predictions whose read set holds a granule of an entry's page (R369). -/
def readers (s : State) (e : EntryOf) : List Nat :=
  s.preds.filterMap fun p => match p.2 with
    | some x => if !x.adopted && x.readSet.any fun r => r.vi == e.vi && r.va / pageSize e.level == e.va / pageSize e.level then some p.1 else none
    | none => none

/-! ## The host's accesses (R266, R273, R369, R417) -/

/-- The write units of bytes at an address: up to 8 aligned bytes each (R266). -/
def unitsOf (va : Nat) (bs : List Byte) : Nat → List (Nat × List Byte)
  | 0 => []
  | fuel + 1 =>
    let n := 8 - va % 8
    match bs with
    | [] => []
    | _ :: _ => (va, bs.take n) :: unitsOf (va + n) (bs.drop n) fuel

/-- A word with `bs` written from byte `off`. -/
def patchWord (w off : Nat) (bs : List Byte) : Nat := natOf ((bytesOf w 8).take off ++ bs ++ (bytesOf w 8).drop (off + bs.length))

/-- A word with the PIN bit of another (R237) (log entry 88). -/
def keepPin (w old : Nat) : Nat := w - w / 4 % 2 * 4 + old / 4 % 2 * 4

/-- One write unit of the host on a page that it may write. -/
def hostStore (s : State) (vi va key : Nat) (bs : List Byte) : State :=
  let at8 := key / 8 * 8
  let old := viewNat s hub0 at8 8
  let es := if keyTgt key = 0 then entriesAt s at8 else []
  let new := patchWord old (key % 8) bs
  let new := if es.isEmpty then new else keepPin new old
  if es.any (entryRefused s (pteOf old) (pteOf new)) then violate s vi 2 va
  else
    let s := if keyTgt key = 3 then sendPeer s (keyPeer key) else s
    let x := sealWrite s hub0 (vaSeal s vi va) key bs.length
    let s := (stampWrite x.1 hub0 (x.2 ++ cellsOf key (((bytesOf new 8).drop (key % 8)).take bs.length))).1
    if (pteOf old).leaf && mapsElse (pteOf old) (pteOf new) then
      (es.flatMap (readers s)).eraseDups.foldl (fun s i => discard s i 4) s
    else s

/-- One write unit of the host (R417). -/
def hostUnit (vi : Nat) (s : State) (u : Nat × List Byte) : State :=
  match walkTree s vi u.1 with
  | none => violate s vi 1 u.1
  | some l => if l.pte.wr then hostStore s vi u.1 (leafKey l u.1) u.2 else violate s vi 1 u.1

/-- HOST_WRITE (R266, R417) (log entry 87). -/
def execHostWrite (vi va : Nat) (bytes : List Byte) (s : State) : Host.Outcome State Fault Refusal :=
  .next ((unitsOf va bytes (bytes.length + 1)).foldl (hostUnit vi) s)

/-- The first address of a read that the host may not read. -/
def badRead (s : State) (vi va n : Nat) : Option Nat :=
  ((List.range n).map (va + ·)).find? fun a => match walkTree s vi a with | some l => !l.pte.rd | none => true

/-- What a read returns to the reader. -/
def reply (s : State) (vi : Nat) (bs : Option (List Byte)) : State := modVi s vi fun v => { v with reply := bs }

/-- A violation of a read: it returns Unsupported Request (R417). -/
def violateRead (s : State) (vi cause addr : Nat) : State := reply (violate s vi cause addr) vi none

/-- The peer devices whose pages a read of the host touches, one for each write unit (R266, R412). -/
def peersRead (s : State) (vi va n : Nat) : List Nat :=
  (unitsOf va (List.replicate n 0) (n + 1)).filterMap fun u => (vaKey s vi u.1).bind fun key => if keyTgt key = 3 then some (keyPeer key) else none

/-- A read through BAR4, from hub 0's view (R273). -/
def readBar4 (s : State) (vi va n : Nat) : State :=
  match badRead s vi va n with
  | some a => violateRead s vi 1 a
  | none =>
    let r := hubRead ((peersRead s vi va n).foldl sendPeer s) hub0 vi va n
    reply r.2 vi (some r.1)

/-- The BAR0 offsets that R416 assigns, by the ranges of their registers. -/
def bar0Assigned (off : Nat) : Bool :=
  decide (off < 8) || (decide (0x1000 ≤ off) && decide (off < 0x3018)) || (decide (0x4000 ≤ off) && decide (off < 0x4008)) ||
    (decide (0x4040 ≤ off) && decide (off < 0x4080)) || (decide (0x4100 ≤ off) && decide (off < 0x4108))

/-- VI_VIOL_ADDR (R417). -/
def violWord (v : Violation) : DWord := BitVec.ofNat 64 (packFields [(v.addr % 2 ^ 57, 0), (v.cause % 8, 60), (bit v.valid, 63)])

/-- What the register at an offset of BAR0 reads as; none for SEC_KEYDATA, which is write-only, and SEC_ATTEST, whose read the spec does not give (R331, R396,
R416 to R418). -/
def viReg (v : Vi) (off : Nat) : Option DWord :=
  if off < 8 then some v.root
  else if off < 0x3000 then some (Tbl.get 0 v.qtable ((off - 0x1000) / 8))
  else if off < 0x3008 then some v.ctxqid
  else if off < 0x3010 then some (BitVec.ofNat 64 (v.ctxstate % 4 * 4))
  else if off < 0x3018 then some (violWord v.viol)
  else if off < 0x4008 then some v.keysel
  else none

/-- A byte of BAR0; a free value where the spec gives the register no read. -/
def bar0Byte (s : State) (vi off i : Nat) : Byte :=
  match viReg (getVi s vi) (off + i) with
  | some w => (bytesOf w.toNat 8).getD ((off + i) % 8) 0
  | none => Config.hostByte (s.freeNo + i)

/-- What a read of a space without a state of its own returns: of SEC_IDPUB and the certificates what they hold, else free values (R420, R441, R446) (log entry
134). -/
def spaceByte (s : State) (sp : Space) (va i : Nat) : Byte :=
  match sp with
  | .idPub => (Ecdsa.idPub[va + i]?).getD 0
  | .chain => (Config.certificates[va + i]?).getD 0
  | _ => Config.hostByte (s.freeNo + i)

/-- HOST_READ: a read of the host through one of an interface's BARs or through the PF, which is interface 64 (R273, R416, R417, R420, R441, R446). -/
def execHostRead (vi : Nat) (a : HostAddr) (n : Nat) (s : State) : Host.Outcome State Fault Refusal :=
  let next := { s with freeNo := s.freeNo + n }
  let va := a.off
  .next (match a.space with
    | .bar4 => readBar4 s vi va n
    | .bar0 =>
      match ((List.range n).map (va + ·)).find? fun a => !bar0Assigned a with
      | some _ => violateRead s vi 0 va
      | none => reply next vi (some ((List.range n).map (bar0Byte s vi va)))
    | sp => reply next vi (some ((List.range n).map (spaceByte s sp va))))

/-! ## Registers of an interface (R416 to R418) -/

/-- VI_ROOT_WRITE: refused while any of the interface's pages is pinned (R416, R422). -/
def execViRootWrite (vi : Nat) (val : DWord) (s : State) : Host.Outcome State Fault Refusal :=
  .next (
    if (pinnedPages s vi).isEmpty then modVi s vi fun v => { v with root := val &&& 0x0000FFFFFFFF0000 }
    else violate s vi 2 0)

/-- VI_VIOL_CLEAR (R417). -/
def execViViolClear (vi : Nat) (s : State) : Host.Outcome State Fault Refusal :=
  .next (modVi s vi fun v => { v with viol := {} })

def getKey (s : State) (n : Nat) : KeySlot := Tbl.get {} s.keys n

def modKey (s : State) (n : Nat) (f : KeySlot → KeySlot) : State := { s with keys := Tbl.mod {} s.keys n f }

/-- Whether a pinned page of an interface names a key slot. -/
def pinnedKey (s : State) (vi slot : Nat) : Bool :=
  (pinnedPages s vi).any fun a => match walkTree s vi a with | some l => l.pte.key == slot | none => false

/-- Loads the slot of SEC_KEYSEL with 64 bytes; a slot that is not the interface's own, or that a pinned page names, is a violation (R418). -/
def loadKey (s : State) (vi : Nat) (bs : List Byte) : State :=
  let slot := (getVi s vi).keysel.toNat
  if slot = 0 || 255 < slot || (getKey s slot).owner ≠ some vi || pinnedKey s vi slot then violate s vi 2 0x4040
  else modKey s slot fun k => { k with keys := some bs }

/-- SEC_KEYDATA_WRITE: the load takes effect on the 64th byte (R418) (log entry 89). -/
def execSecKeydataWrite (vi : Nat) (bytes : List Byte) (s : State) : Host.Outcome State Fault Refusal :=
  .next (
    let all := (getVi s vi).keybytes ++ bytes
    if all.length < 64 then modVi s vi fun v => { v with keybytes := all }
    else loadKey (modVi s vi fun v => { v with keybytes := [] }) vi (all.take 64))

/-- VI_FLR: a function-level reset erases the interface's key slots (R418) (log entry 91). -/
def execViFlr (vi : Nat) (s : State) : Host.Outcome State Fault Refusal :=
  .next (
    let s := modVi s vi fun v => { v with keybytes := [] }
    { s with keys := s.keys.map fun e => (e.1, if e.2.owner = some vi then { e.2 with keys := none } else e.2) })

/-! ## Attestation (R421, R422) -/

/-- ATTEST_REQUEST: a later write waits while a report is being signed (R421, R422) (log entry 92). -/
def execAttestRequest (vi : Nat) (addr : DWord) (s : State) : Host.Outcome State Fault Refusal :=
  .next { s with boot := { s.boot with attest := s.boot.attest ++ [(vi, addr.toNat)] } }

/-- The body of an image. -/
def bodyOf (img : List Byte) : List Byte := (img.drop 256).take (natAt img 4 4)

/-- The header and the body of an image. -/
def wholeOf (img : List Byte) : List Byte := img.take 256 ++ bodyOf img

/-- FWHASH of the header and the body of the running image; a free value while none runs (R421, R445). -/
def fwHash (s : State) : Nat × State :=
  if s.boot.recovery && !s.boot.recImage then
    ((List.range 12).foldl (fun n i => n * 2 ^ 32 + (Config.freeWord (s.freeNo + i)).toNat) 0, { s with freeNo := s.freeNo + 12 })
  else (Sha.hashField (wholeOf (s.boot.image.getD Config.flashImage)), s)

/-- STATE of a report: debug unlocked, and recovery image running (R421). -/
def bootState (b : Boot) : Nat := bit b.debugUnlocked + 2 * bit b.recImage

/-- The 128 bytes of a report that are signed (R421). -/
def reportBody (s : State) (vi hash : Nat) (nonce : List Byte) : List Byte :=
  nonce ++ bytesOf (packFields [(hash, 8), (Config.serial.toNat, 392), (tick s % 2 ^ 64, 456), (vi % 256, 520),
    (Config.romVersion.toNat, 528), (bootState s.boot, 544)]) 80

/-- The nonce of a report: from the interface's buffer, or from host memory for the PF, whose buffer the host alone sees (R421, R446) (log entry 92). -/
def nonceOf (s : State) (vi addr : Nat) : List Byte × State :=
  if vi < 64 then hubRead s hub0 vi addr 48
  else ((List.range 48).map fun i => Config.hostByte (s.freeNo + i), { s with freeNo := s.freeNo + 48 })

/-- ATTEST_REPORT: the first report that waits is signed and written whole over its buffer; the PF's reaches the host as what a read returns (R421, R446) (log entry
92). -/
def execAttestReport (s : State) : Host.Outcome State Fault Refusal :=
  .next (match s.boot.attest with
    | [] => s
    | (vi, addr) :: rest =>
      let s := { s with boot := { s.boot with attest := rest } }
      let r := nonceOf s vi addr
      let h := fwHash r.2
      let s := h.2
      let body := reportBody s vi h.1 r.1
      let sg := Ecdsa.sign s.freeNo body
      let bytes := body ++ Sha.toBytes sg.1.toNat 48 ++ Sha.toBytes sg.2.toNat 48 ++ List.replicate 32 0
      let s := { s with freeNo := s.freeNo + 1 }
      if vi < 64 then (hubWrite s hub0 vi addr bytes).1 else reply s vi (some bytes))

/-! ## REGISTER_WRITE -/

/-- A write of VI_CTXCTL: its ACTION (R396). -/
def ctxctlWrite (vi : Nat) (val : DWord) (s : State) : Host.Outcome State Fault Refusal :=
  match val.toNat % 4 with
  | 1 => execViCtxctlStop vi s
  | 2 => execViCtxctlResume vi s
  | 3 => execViCtxctlReset vi s
  | _ => .next s

/-- A write of 8 bytes to the register at an assigned offset of BAR0 (R331, R396, R416 to R418, R421) (log entry 135). -/
def bar0Write (vi off : Nat) (val : DWord) (s : State) : Host.Outcome State Fault Refusal :=
  if off < 8 then execViRootWrite vi val s
  else if off < 0x3000 then execViQtableWrite vi ((off - 0x1000) / 8) val s
  else if off < 0x3008 then .next (modVi s vi fun v => { v with ctxqid := val })
  else if off < 0x3010 then ctxctlWrite vi val s
  else if off < 0x3018 then (if val.getLsbD 63 then execViViolClear vi s else .next s)
  else if off < 0x4008 then .next (modVi s vi fun v => { v with keysel := val, keybytes := [] })
  else if off < 0x4080 then execSecKeydataWrite vi (bytesOf val.toNat 8) s
  else execAttestRequest vi val s

/-- REGISTER_WRITE: a write of a register whose write only sets its RW fields, or to an offset that R416 does not assign, which is a violation
(R333, R375, R396, R412, R413, R416 to R418, R434, R437, R439, R440, R447). -/
def execRegisterWrite (r : Reg) (val : DWord) (s : State) : Host.Outcome State Fault Refusal :=
  match r with
  | .bar0 vi off => if bar0Assigned off then bar0Write vi off val s else .next (violate s vi 0 off)
  | r => .next (match r with
    | .cpIdleTimeout h => modHub s h fun x => { x with idleTimeout := val }
    | .prdCtl => { s with prdHold := val.toNat / 2 ^ 32, prdEn := val.toNat % 2 == 1 }
    | .pwrBallastSet => { s with ballastSet := val.setWidth 16 }
    | .fabCtl h => modHub s h fun x => { x with shed := val.toNat % 2 == 1 }
    | .fabPortstat p => modPort s p fun x => { x with ethr := fieldAt val.toNat 16 16 }
    | .fabPeer d => notePeers { s with peers := Tbl.put 0 s.peers d (val.setWidth 48), peerDown := Tbl.put 0 s.peerDown d (if (peerPorts s d).isEmpty then max 1 (Tbl.get 0 s.peerDown d) else 0) }
    | .secKeysel vi => modVi s vi fun v => { v with keysel := val, keybytes := [] }
    | .viCtxqid vi => modVi s vi fun v => { v with ctxqid := val }
    | .keyOwner n => if n = 0 then s else modKey s n fun k => { k with owner := if val.toNat < 64 then some val.toNat else none }
    | .secRcvaddr => { s with boot := { s.boot with rcvAddr := val / 4096 * 4096 } }
    | .secRcvctlLen => { s with boot := { s.boot with rcvLen := val.toNat / 2 ^ 32 } }
    | .dbgTstart d n => modDie s d fun x => { x with trig := Tbl.mod {} x.trig n fun t => { t with tstart := val } }
    | .dbgTstop d n => modDie s d fun x => { x with trig := Tbl.mod {} x.trig n fun t => { t with tstop := val } }
    | .dbgBp k n => modCore s k fun c => { c with bp := Tbl.mod {} c.bp n fun _ => { val := val &&& 0xFFFFFFFF00FFFFFF, count := 0 } }
    | .dbgWp k n => modCore s k fun c => { c with wp := Tbl.put 0 c.wp n (val &&& 0xE3FFFFFFFFF00000) }
    | .bar0 _ _ => s)

end Sys2Proof.Machine
end

