-- ==== Sys2Proof/Machine/Bringup.lean ====
section
/-! DEFINITION. Bring-up, recovery, debug unlock and device reset (R441, R444 to R449), and the maintenance of HBM (R451). -/
namespace Sys2Proof.Machine

/-! ## The checks of the boot ROM (R444, R445) -/

/-- Check 1: MAGIC, LEN and the MBZ bits; the header and a body of LEN bytes are there (log entry 102). -/
def headerOk (img : List Byte) : Bool :=
  let w := natAt img 0 256
  let len := fieldAt w 32 32
  decide (256 ≤ img.length) && fieldAt w 0 32 == 0x4B594657 && decide (2 ^ 20 ≤ len) && decide (len ≤ 2 ^ 25) && decide (256 + len ≤ img.length) &&
    zeroBits w 97 127 && zeroBits w 1280 2047

/-- SVN of an image. -/
def svnOf (img : List Byte) : Nat := natAt img 8 4

/-- RAISE of an image. -/
def raiseOf (img : List Byte) : Bool := natAt img 12 4 % 2 == 1

/-- The value of 48 big-endian bytes of an image. -/
def sigAt (img : List Byte) (off : Nat) : BitVec 384 := BitVec.ofNat 384 (Sha.bigEndian ((img.drop off).take 48))

/-- STATUS that the checks of R445 come to, in their order: 2 verified, 3 bad header, signature or hash, 4 below FUSE_SVN (R447). -/
def imageStatus (fuseSvn : Nat) (img : List Byte) : Nat :=
  if !headerOk img then 3
  else if !Ecdsa.verifies Config.vendorKey (img.take 64) (sigAt img 64) (sigAt img 112) then 3
  else if svnOf img < fuseSvn then 4
  else if Sha.hashField (bodyOf img) ≠ natAt img 16 48 then 3
  else 2

/-! ## The mailbox (R447, R448) -/

def setBoot (s : State) (f : Boot → Boot) : State := { s with boot := f s.boot }

/-- Host memory as the mailbox or a token reads it: free values. -/
def hostBytes (s : State) (n : Nat) : List Byte × State :=
  ((List.range n).map fun i => Config.hostByte (s.freeNo + i), { s with freeNo := s.freeNo + n })

/-- RECOVERY_VERIFY: the image is read into die 0's die store; ignored while busy (R447) (log entry 103). -/
def execRecoveryVerify (s : State) : Host.Outcome State Fault Refusal :=
  .next (
    if s.boot.rcvStatus = 1 then s
    else
      let r := hostBytes s s.boot.rcvLen
      setBoot r.2 fun b => { b with rcvStatus := 1, rcvCommit := false, mailbox := r.1 })

/-- RECOVERY_VERIFY_DONE (R445, R447). -/
def execRecoveryVerifyDone (s : State) : Host.Outcome State Fault Refusal :=
  .next (
    if s.boot.rcvStatus ≠ 1 || s.boot.rcvCommit then s
    else setBoot s fun b => { b with rcvStatus := imageStatus b.fuseSvn b.mailbox })

/-- RECOVERY_RUN: the verified image starts from SRAM (R447). -/
def execRecoveryRun (s : State) : Host.Outcome State Fault Refusal :=
  .next (if s.boot.rcvStatus = 2 then setBoot s fun b => { b with recImage := true, image := some (wholeOf b.mailbox) } else s)

/-- RECOVERY_COMMIT: the write of flash begins (R447, R448). -/
def execRecoveryCommit (s : State) : Host.Outcome State Fault Refusal :=
  .next (if s.boot.rcvStatus = 2 then setBoot s fun b => { b with rcvStatus := 1, rcvCommit := true } else s)

/-- RECOVERY_COMMIT_DONE: flash is written, read back and checked; whether the flash kept what was written is a free choice (R447, R448) (log entry 104). -/
def execRecoveryCommitDone (s : State) : Host.Outcome State Fault Refusal :=
  .next (
    if s.boot.rcvStatus ≠ 1 || !s.boot.rcvCommit then s
    else
      let flash := if Config.choose s.freeNo % 2 = 0 then s.boot.mailbox else []
      setBoot { s with freeNo := s.freeNo + 1 } fun b => { b with
        flash := some flash, rcvCommit := false, rcvStatus := if imageStatus b.fuseSvn flash = 2 then 6 else 5 })

/-- RECOVERY_RAISE: FUSE_SVN never falls (R447). -/
def execRecoveryRaise (s : State) : Host.Outcome State Fault Refusal :=
  .next (
    if s.boot.rcvStatus = 6 && raiseOf (s.boot.flash.getD Config.flashImage) then
      setBoot s fun b => { b with fuseSvn := max b.fuseSvn (svnOf (b.flash.getD Config.flashImage)), rcvStatus := 7 }
    else s)

/-! ## Contexts at a reset (R441, R449) -/

/-- Whether a grid is a context: running or saved (R392). -/
def isContext (g : Grid) : Bool :=
  match g.st with
  | .running | .saving | .saved => true
  | .stopped => !g.saved.isEmpty
  | _ => false

/-- Resets one context with STATUS RESET; a BOUND one names the host. -/
def resetContext (s : State) (gid : Nat) : State :=
  match getGrid s gid with
  | none => s
  | some g =>
    if running s gid then discard s gid 8
    else if !isContext g then s
    else
      let s := if g.hostReq then setCtx s g.vi 0 else s
      let s := if g.loose then s else blame s gid .host
      terminate (leaveLevel s gid g) gid 2

/-- Resets every context (R441, R449). -/
def resetContexts (s : State) : State := (s.grids.map (·.1)).foldl resetContext s

/-! ## Debug unlock (R449) -/

/-- DBGCHAL_READ: a fresh challenge; the one before is discarded (R449). -/
def execDbgchalRead (s : State) : Host.Outcome State Fault Refusal :=
  .next (setBoot { s with freeNo := s.freeNo + 1 } fun b => { b with chal := some s.freeNo })

/-- DEBUG_UNLOCK_REQUEST: a write of SEC_DBGUNLOCK starts the check (R449) (log entry 105). -/
def execDebugUnlockRequest (val : DWord) (s : State) : Host.Outcome State Fault Refusal :=
  .next (setBoot s fun b => { b with unlockAddr := val / 64 * 64, unlockStatus := 3 })

/-- Whether a token is accepted: its challenge, its serial and its signature (R449). -/
def tokenOk (chal : Option Nat) (tok : List Byte) : Bool :=
  (match chal with | some n => natAt tok 0 48 == (Config.challenge n).toNat | none => false) &&
    natAt tok 48 8 == Config.serial.toNat && Ecdsa.verifies Config.debugKey (tok.take 64) (sigAt tok 64) (sigAt tok 112)

/-- Erases key slots 1 to 255 (log entry 107). -/
def eraseKeys (s : State) : State := { s with keys := s.keys.map fun e => (e.1, if e.1 = 0 then e.2 else { e.2 with keys := none }) }

/-- DEBUG_UNLOCK_DONE: the challenge is spent in either case (R449). -/
def execDebugUnlockDone (s : State) : Host.Outcome State Fault Refusal :=
  .next (
    if s.boot.unlockStatus ≠ 3 then s
    else
      let r := hostBytes s 256
      let ok := tokenOk s.boot.chal r.1
      let s := setBoot r.2 fun b => { b with chal := none, unlockStatus := if ok then 1 else 2 }
      if ok then setBoot (eraseKeys (resetContexts s)) fun b => { b with debugUnlocked := true } else s)

/-! ## Device reset and the loss of power (R441, R445, R448, R452) -/

/-- Writes the record of a context that a reset ends. -/
def closeContext (s : State) (gid : Nat) : State :=
  match getGrid s gid with
  | none => s
  | some g =>
    (match g.st with
    | .terminating _ _ =>
      let e := completionOf s g
      let s := if e.blame = .device then { s with overruns := (s.overruns + 1) % 2 ^ 64 } else s
      let k := queueKey g.vi g.q
      flushQueue (modQueue s k fun q => { q with pending := placeRecord q.pending gid e }) k
    | _ => s)

/-- The views after a device reset: what hub 0 saw, with no write in flight and no stamp (R266). -/
def freshViews (s : State) : Tbl View := holders.map fun d => (d, { bytes := (getView s hub0).bytes })

/-- The boot ROM's part of a device reset: the image in flash is checked, and the agents start or the device is in recovery (R445, R446). -/
def bootUp (old : Boot) (s : State) : State :=
  let ok := imageStatus old.fuseSvn (old.flash.getD Config.flashImage) == 2
  { s with boot := { recovery := !ok, flash := old.flash, image := old.flash.map wholeOf, fuseSvn := old.fuseSvn } }

/-- DEVICE_RESET: every context ends with STATUS RESET, and the machine is as right after reset but for flash, fuses, the bytes of memory with their seals and the next
quotation identifier, which is unique for the device's life (R344, R441, R445, R452) (log entry 106). -/
def execDeviceReset (s : State) : Host.Outcome State Fault Refusal :=
  .next (
    let s := resetContexts s
    let s := (s.grids.map (·.1)).foldl closeContext s
    bootUp s.boot { State.reset with freeNo := s.freeNo, inbox := s.inbox, nextQid := s.nextQid, views := freshViews s, seals := s.seals })

/-- Flash after power is lost during a COMMIT: the old image, or no header; a free choice (R448). -/
def flashAfterLoss (s : State) : Option (List Byte) :=
  if s.boot.rcvStatus = 1 && s.boot.rcvCommit && Config.choose s.freeNo % 2 = 1 then some [] else s.boot.flash

/-- POWER_LOSS: everything volatile is lost, and the device boots from what flash holds; quotation identifiers go on (R344, R448, R452). -/
def execPowerLoss (s : State) : Host.Outcome State Fault Refusal :=
  .next (bootUp { s.boot with flash := flashAfterLoss s } { State.reset with freeNo := s.freeNo + 1, inbox := s.inbox, nextQid := s.nextQid })

/-! ## Scrub and error counts (R451) -/

/-- SCRUB_ERROR_FOUND: a correctable error is rewritten in place and counted; an uncorrectable one poisons its 64-byte unit (R258, R451). -/
def execScrubErrorFound (die : Nat) (addr : Nat) (correctable : Bool) (s : State) : Host.Outcome State Fault Refusal :=
  .next (modDie s die fun d => if correctable then { d with fixed := Tbl.upd 0 d.fixed 1 (· + 1) } else { d with poison := Tbl.put false d.poison (addr / 64) true })

/-- The bank with the most corrected errors; the lowest of equals. -/
def worstBank (counts : List Nat) : Nat := (List.range counts.length).foldl (fun b i => if counts.getD b 0 < counts.getD i 0 then i else b) 0

/-- HBM_ECNT_GATHER: every 32,000 ticks the counts of the banks are summed, saturating (R451, R452). -/
def execHbmEcntGather (die stack : Nat) (counts : List Nat) (ue : Nat) (s : State) : Host.Outcome State Fault Refusal :=
  let now := tick s
  .next (modDie s die fun d => { d with hbmStacks := Tbl.mod {} d.hbmStacks stack fun x => { x with
    ecntDue := now + 32000, ce := min (x.ce + counts.sum) (2 ^ 24 - 1), ue := min (x.ue + ue) (2 ^ 16 - 1),
    wbank := worstBank counts % 256, wcnt := min (counts.getD (worstBank counts) 0) 255 } })

end Sys2Proof.Machine
end

