-- ==== Sys2Proof/Machine/Control.lean ====
section
/-! DEFINITION. The control instructions (R144 to R160), but for EXIT and BBHINT, which act on the team and on its engine. -/
namespace Sys2Proof.Machine

/-! ## Transfers -/

/-- Where a control word sends a lane, with the lane's other changes: none for the next PC (R144). -/
abbrev Goes := Option Nat × Lane

/-- The lane after a control word: a transfer to a target at or beyond the end of `.text`, or on a pad parcel, raises ILLEGAL with
detail 11 (R145). -/
def goLane (text : List Word) (next : Nat) (r : Except Cause Goes) : Except Cause Lane :=
  match r with
  | .error c => .error c
  | .ok (none, ln) => .ok { ln with pc := next }
  | .ok (some t, ln) => if targetLegal text t then .ok { ln with pc := t } else .error ⟨.illegal, 11, 0, 0⟩

/-- Whether a lane takes its transfer. -/
def takes (text : List Word) (r : Except Cause Goes) : Bool :=
  match r with
  | .ok (some t, _) => targetLegal text t
  | _ => false

/-- The first cycle after the bubble of a transfer that issues now (R233). -/
def bubbleEnd (s : State) : Nat := cyc s s.cur.core + 3

/-- A control word that acts lane by lane (R144). A taken transfer costs the group the two cycles of its bubble (R163, R233). -/
def transferWord (s : State) (f : Group → Nat → Lane → Except Cause Goes) : State :=
  let grp := curGroup s
  let next := curNext s
  let text := curText s
  let r := runLanes grp (fun l ln => goLane text next (f grp l ln)) (subLanes s)
  let taken := (subLanes s).any fun l => takes text (f grp l (laneAt grp l))
  let grp' := if taken then { r.1 with bubble := bubbleEnd s } else r.1
  trapLanes (onGroup s fun _ => grp') r.2

/-- BRA, in one lane (R147). -/
def braLane (g : Guard) (target : Word) (ln : Lane) : Except Cause Goes :=
  if guardIn g ln then .ok (some target.toNat, ln) else .ok (none, ln)

/-- BRX, in one lane (R148). -/
def brxLane (table : List Nat) (g : Guard) (a : Spec) (grp : Group) (l : Nat) (ln : Lane) : Except Cause Goes :=
  if guardIn g ln then
    let k := (readSpec grp l a).toNat
    if k < table.length then .ok (some (table.getD k 0), ln) else .error ⟨.bounds, 0, 0, 0⟩
  else .ok (none, ln)

/-- CALL, in one lane (R151) (log entry 10). -/
def callLane (depth next : Nat) (g : Guard) (target : Word) (ln : Lane) : Except Cause Goes :=
  if guardIn g ln then
    if ln.rs.length = depth then .error ⟨.limitDepth, 0, 0, 0⟩
    else .ok (some target.toNat, { ln with rs := next :: ln.rs })
  else .ok (none, ln)

/-- RET, in one lane (R151). -/
def retLane (g : Guard) (ln : Lane) : Except Cause Goes :=
  if guardIn g ln then
    match ln.rs with
    | [] => .error ⟨.illegal, 10, 0, 0⟩
    | t :: rs => .ok (some t, { ln with rs := rs })
  else .ok (none, ln)

/-- Whether NEXT's lane wants another trip, given the count `k` and the bound (R150). -/
def nextWants (g : Guard) (k bound : Nat) (ln : Lane) : Bool :=
  if g = Guard.always then decide (k < bound) else guardIn g ln

/-- NEXT, in one lane (R150, R174). -/
def nextLane (g : Guard) (c : Fin 8) (target : Word) (ln : Lane) : Except Cause Goes :=
  let k := (Tbl.get 0 ln.c c).toNat + 1
  let bound := (Tbl.get 0 ln.bnd c).toNat
  let want := nextWants g k bound ln
  if want && decide (bound ≤ k) then .error ⟨.limitLoop, 0, 0, 0⟩
  else
    let ln' := { ln with c := Tbl.put 0 ln.c c (BitVec.ofNat 32 k) }
    if want then .ok (some target.toNat, { ln' with deferred := true }) else .ok (none, ln')

/-- BRA: every active lane goes to the target (R147). -/
def execBra (g : Guard) (target : Word) (s : State) : Host.Outcome State Fault Refusal :=
  .next (transferWord s fun _ _ ln => braLane g target ln)

/-- BRX: every active lane goes to the entry of the kernel's table that its index names (R148). -/
def execBrx (g : Guard) (table : BitVec 5) (a : Spec) (s : State) : Host.Outcome State Fault Refusal :=
  let tab := match curGrid s with | some gr => gr.kernel.tables.getD table.toNat [] | none => []
  .next (transferWord s (brxLane tab g a))

/-- CALL pushes the address of the next word and goes to the target; past the declared depth it traps (R151). -/
def execCall (g : Guard) (target : Word) (s : State) : Host.Outcome State Fault Refusal :=
  let depth := match curGrid s with | some gr => gr.kernel.depth | none => 0
  let next := curNext s
  .next (transferWord s fun _ _ ln => callLane depth next g target ln)

/-- RET pops the lane's return stack; an empty one traps (R151). -/
def execRet (g : Guard) (s : State) : Host.Outcome State Fault Refusal :=
  .next (transferWord s fun _ _ ln => retLane g ln)

/-- NEXT counts a trip and goes back while more are wanted; a taken one defers its lanes (R150, R174). -/
def execNext (g : Guard) (c : Fin 8) (target : Word) (s : State) : Host.Outcome State Fault Refusal :=
  .next (transferWord s fun _ _ ln => nextLane g c target ln)

/-! ## Loops, meeting points, hints, election, traps and counters -/

/-- LOOP, in one lane (R149). -/
def loopLane (g : Guard) (c : Fin 8) (bound : Word) (ln : Lane) : Lane :=
  if guardIn g ln then { ln with c := Tbl.put 0 ln.c c 0, bnd := Tbl.put 0 ln.bnd c bound } else ln

/-- LOOP clears the counter and takes the bound, without a jump (R149). -/
def execLoop (g : Guard) (c : Fin 8) (bound : Word) (s : State) : Host.Outcome State Fault Refusal :=
  .next (laneWord s fun _ _ ln => .ok (loopLane g c bound ln))

/-- MEET, in one lane: a target at or beyond the end of `.text`, or on a pad parcel, raises ILLEGAL with detail 11 (R59, R145, R152). -/
def meetLane (text : List Word) (g : Guard) (target : Word) (ln : Lane) : Except Cause Lane :=
  if guardIn g ln then
    if targetLegal text target.toNat then .ok { ln with meet := some target.toNat } else .error ⟨.illegal, 11, 0, 0⟩
  else .ok ln

/-- MEET sets the meeting register of every active lane (R145, R152). -/
def execMeet (g : Guard) (target : Word) (s : State) : Host.Outcome State Fault Refusal :=
  .next (laneWord s fun _ _ ln => meetLane (curText s) g target ln)

/-- NOP changes nothing but the PC (R154). -/
def execNop (_ : Guard) (s : State) : Host.Outcome State Fault Refusal := .next (advance s)

/-- YIELD ends the group's claim under GTO; an agent's group has no claim on a slot (R154, R176, R234) (log entry 11). -/
def execYield (_ : Guard) (s : State) : Host.Outcome State Fault Refusal :=
  let tx := s.cur.tx
  let me := some s.cur.group
  .next (advance (if inAgent s then s else onCore s fun c =>
    { c with slots := Tbl.mod {} c.slots (curGroup s).slot fun sl =>
        (sl.setYielded tx me).setClaim tx (if sl.claimOf tx = me then none else sl.claimOf tx) }))

/-- The lane that ELECT picks among the lanes of `active` (R155). -/
def elected (act : List Nat) (rank : Word) : Nat := act.getD (rank.toNat % act.length) 0

/-- ELECT (R155). -/
def execElect (g : Guard) (d a : Spec) (s : State) : Host.Outcome State Fault Refusal :=
  let act := active s g
  let l0 := elected act (curU s a)
  .next (laneWord s fun _ l ln => .ok (if guardIn g ln then writePred ln d (l == l0) else ln))

/-- TRAP (R156). -/
def execTrap (g : Guard) (a : Spec) (s : State) : Host.Outcome State Fault Refusal :=
  .next (trapActive s (active s g) ⟨.illegal, 9, (curU s a) &&& 0xFFFF, 0⟩)

/-- Whether the issuing team's launch enables debugging (R157, R338). -/
def debugOn (s : State) : Bool := match curGrid s with | some gr => gr.descr.debug | none => false

/-- BKPT (R157). -/
def execBkpt (g : Guard) (s : State) : Host.Outcome State Fault Refusal :=
  .next (if debugOn s then trapActive s (active s g) ⟨.bkpt, 0, 0, 0⟩ else advance s)

/-- A 64-bit value that is the same in every active lane: TIME and CYC (R159). -/
def counterWord (g : Guard) (d : Spec) (x : DWord) (s : State) : State :=
  match d with
  | .g _ => if (active s g).isEmpty then advance s else advance (onGroup s fun grp => writeGPair grp d x)
  | _ => laneWord s fun _ _ ln => .ok (if guardIn g ln then shiftY (writePair ln d x) (x.setWidth 32) else shiftY ln (heldIn ln d))

/-- TIME: the tick as read in the cycle of issue (R159, R160). -/
def execTime (g : Guard) (d : Spec) (s : State) : Host.Outcome State Fault Refusal :=
  .next (counterWord g d (BitVec.ofNat 64 (tick s)) s)

/-- CYC: the core's cycle count (R159). -/
def execCyc (g : Guard) (d : Spec) (s : State) : Host.Outcome State Fault Refusal :=
  .next (counterWord g d (BitVec.ofNat 64 (cyc s s.cur.core)) s)

end Sys2Proof.Machine
end

