-- ==== Sys2Proof/Machine/CrossLane.lean ====
section
/-! DEFINITION. The cross-lane and histogram instructions (R186 to R195). -/
namespace Sys2Proof.Machine

/-- The source lane of a shuffle, or none for the fallback (R189). -/
def shflLane (m : ShflMode) (l : Nat) (b : Word) : Option Nat :=
  let j : Int :=
    match m with
    | .from => b.toNat
    | .shift => (l : Int) + b.toInt
    | .rotate => (l + b.toNat) % 32
    | .xor => l ^^^ b.toNat
  if 0 ≤ j ∧ j ≤ 31 then some j.toNat else none

/-- SHFL (R187, R189). -/
def execShfl (o : Ops) (m : ShflMode) (s : State) : Host.Outcome State Fault Refusal :=
  .next (valueWord false o.g o.d
    (fun grp l =>
      match shflLane m l (readSrc grp l o.b) with
      | some j => some (.w (readSrc grp j o.a), 0)
      | none => some (.w (readSpec grp l o.c), 0)) s)

/-- The lanes of `act` in which predicate `p` holds. -/
def voters (grp : Group) (act : List Nat) (p : Fin 8) : List Nat := act.filter fun l => (laneAt grp l).p.getLsbD p

/-- A predicate form of VOTE, from the numbers `t` and `n` (R190). -/
def votePred (m : VoteMode) (t n : Nat) : Bool :=
  match m with
  | .some => decide (1 ≤ t)
  | .every => t == n
  | .agree => t == 0 || t == n
  | _ => decide (n < 2 * t)

/-- A value form of VOTE in lane `l`, from the voting lanes (R190). -/
def voteVal (m : VoteMode) (vs : List Nat) (l : Nat) : Word :=
  match m with
  | .mask => maskOf vs
  | .tally => BitVec.ofNat 32 vs.length
  | .lead => BitVec.ofNat 32 (vs.headD 32)
  | _ => BitVec.ofNat 32 (vs.filter (· < l)).length

/-- Whether a VOTE delivers a predicate (R190). -/
def voteToPred (m : VoteMode) : Bool :=
  match m with
  | .some | .every | .agree | .major => true
  | _ => false

/-- A value that every contributing lane receives alike, or that a g destination takes once (R190, R193). -/
def groupValue (g : Guard) (d : Spec) (x : Word) (s : State) : State :=
  groupWord s g fun _ => advance (onGroup s fun grp => writeG grp d x)

/-- VOTE (R190). -/
def voteWord (g : Guard) (d : Spec) (p : Fin 8) (m : VoteMode) (s : State) : State :=
  let toPred := voteToPred m
  let act := active s g
  let vs := voters (curGroup s) act p
  match d with
  | .g _ => groupValue g d (voteVal m vs 0) s
  | _ =>
    valueWord toPred g d
      (fun _ l => some (if toPred then .b (votePred m vs.length act.length) else .w (voteVal m vs l), 0)) s

/-- VOTE (R190). -/
def execVote (g : Guard) (d : Spec) (p : Fin 8) (m : VoteMode) (s : State) : Host.Outcome State Fault Refusal :=
  .next (voteWord g d p m s)

/-- The peers of lane `l` among `act` (R191). -/
def peers (grp : Group) (a : Src) (act : List Nat) (l : Nat) : List Nat :=
  act.filter fun k => readSrc grp k a == readSrc grp l a

/-- MATCH in lane `l` (R191). -/
def matchVal (m : MatchMode) (grp : Group) (a : Src) (act : List Nat) (l : Nat) : Word :=
  let ps := peers grp a act l
  match m with
  | .peers => maskOf ps
  | .leader => BitVec.ofNat 32 (ps.headD l)
  | .rank => BitVec.ofNat 32 (ps.filter (· < l)).length
  | .whole => if ps.length == act.length then maskOf act else 0

/-- MATCH (R191). -/
def execMatch (o : Ops) (m : MatchMode) (s : State) : Host.Outcome State Fault Refusal :=
  let act := active s o.g
  .next (valueWord false o.g o.d (fun grp l => some (.w (matchVal m grp o.a act l), 0)) s)

/-- The running combinations over a list of values, each with the flags of the steps that formed it (R193). -/
def runScan (k : Rop) (acc : Word) (fl : Flags) : List Word → List (Word × Flags)
  | [] => []
  | x :: xs =>
    let (y, f) := ropStep k acc x
    (y, fl ||| f) :: runScan k y (fl ||| f) xs

/-- The inclusive scan of a list of values (R193). -/
def scanAll (k : Rop) : List Word → List (Word × Flags)
  | [] => []
  | x :: xs => (x, 0) :: runScan k x 0 xs

/-- SCAN's value for the lane in place `i` (R192, R193). -/
def scanAt (k : Rop) (excl : Bool) (rs : List (Word × Flags)) (i : Nat) : Word × Flags :=
  if excl then (if i = 0 then (ropIdentity k, 0) else rs.getD (i - 1) (0, 0)) else rs.getD i (0, 0)

/-- SCAN (R192, R193). -/
def execScan (o : Ops) (k : Rop) (excl : Bool) (s : State) : Host.Outcome State Fault Refusal :=
  let act := active s o.g
  let rs := scanAll k (act.map fun l => readSrc (curGroup s) l o.a)
  .next (valueWord false o.g o.d
    (fun _ l =>
      let (x, f) := scanAt k excl rs ((act.filter (· < l)).length)
      some (.w x, f)) s)

/-- A REDUCE with a g destination: an enabled flag raises FP for every contributing lane (R193). -/
def reduceG (g : Guard) (d : Spec) (x : Word) (f : Flags) (s : State) : State :=
  groupWord s g fun act =>
    if Flags.enabled (curFpen s) f = 0 then
      advance (onGroup s fun grp =>
        writeG (modLanes grp act fun _ ln => { ln with flags := Flags.accrue ln.flags f }) d x)
    else trapActive s act ⟨.fp, (Flags.enabled (curFpen s) f).toNat, 0, 0⟩

/-- REDUCE (R193). -/
def execReduce (o : Ops) (k : Rop) (s : State) : Host.Outcome State Fault Refusal :=
  let act := active s o.g
  let r := (scanAll k (act.map fun l => readSrc (curGroup s) l o.a)).getLastD (0, 0)
  .next (match o.d with
    | .g _ => reduceG o.g o.d r.1 r.2 s
    | _ => valueWord false o.g o.d (fun _ _ => some (.w r.1, r.2)) s)

/-- Byte `j` of a word. -/
def byteOf (x : Word) (j : Nat) : Nat := x.toNat / 2 ^ (8 * j) % 256

/-- HIST in one lane (R194). -/
def histVal (a b c : Word) : Word :=
  let k := (a - b).toNat
  if k < 4 && byteOf c k < 255 then c + BitVec.ofNat 32 (2 ^ (8 * k)) else c

/-- HIST (R194). -/
def execHist (o : Ops) (s : State) : Host.Outcome State Fault Refusal :=
  .next (valueWord false o.g o.d
    (fun grp l => some (.w (histVal (readSrc grp l o.a) (readSrc grp l o.b) (readSpec grp l o.c)), 0)) s)

/-- MERGE in one lane (R195). -/
def mergeVal (grp : Group) (a : Src) (act : List Nat) (b : Word) : Word :=
  BitVec.ofNat 32 (act.foldl (fun n k => n + byteOf (readSrc grp k a) (b.toNat % 4)) 0)

/-- MERGE (R195). -/
def execMerge (o : Ops) (s : State) : Host.Outcome State Fault Refusal :=
  let act := active s o.g
  .next (valueWord false o.g o.d (fun grp l => some (.w (mergeVal grp o.a act (readSrc grp l o.b)), 0)) s)

end Sys2Proof.Machine
end

