-- ==== Sys2Proof/Machine/Debug.lean ====
section
/-! DEFINITION. Trace buffers and triggers, and the stop of the device's clocks (R436 to R438, R441, R442). -/
namespace Sys2Proof.Machine

/-! ## The trace buffer (R436) -/

/-- The order of the records of one tick: core, then slot, then cycle (R436). -/
def traceBefore (a b : TraceRec) : Bool := decide ([a.core, a.slot, a.cyc.toNat] < [b.core, b.slot, b.cyc.toNat])

/-- DATA of a record in its 112 bits: for a word the places that R436 gives; the other classes have their parts from bit 0 on, in the order in which R436
names them (DESIGN CHOICE, log entry 100). -/
def traceData : TraceData → Nat
  | .issue w lanes => packFields [(w.toNat, 0), (lanes.toNat, 64)]
  | .engine kind owed => packFields [(kind % 2 ^ 8, 0), (owed % 2 ^ 64, 8)]
  | .trap code detail mask => packFields [(code % 2 ^ 8, 0), (detail % 2 ^ 8, 8), (mask.toNat, 16)]
  | .thermal sensor reading => packFields [(sensor % 2 ^ 8, 0), (reading.toNat, 8)]
  | .scheduler taken => bit taken
  | .mark unit opened => packFields [(unit % 2 ^ 8, 0), (bit opened, 8)]

/-- The 32 bytes of a record (R436). -/
def traceBits (r : TraceRec) : BitVec 256 :=
  BitVec.ofNat 64 r.tick ++ r.cyc ++ BitVec.ofNat 24 r.pc ++ BitVec.ofNat 10 r.core ++ BitVec.ofNat 4 r.group ++ BitVec.ofNat 2 r.slot ++
    BitVec.ofNat 4 r.data.cls ++ (0 : BitVec 4) ++ BitVec.ofNat 112 (traceData r.data)

/-- Puts a record among those of its tick. -/
def insertTrace (r : TraceRec) : List TraceRec → List TraceRec
  | [] => [r]
  | x :: xs => if traceBefore r x then r :: x :: xs else x :: insertTrace r xs

/-- Writes records to the buffer of 2,048; each that is overwritten counts in DROP (R436). -/
def writeTrace (d : Die) (rs : List TraceRec) : Die :=
  let all := d.trace ++ rs
  { d with trace := all.drop (all.length - 2048), drop := d.drop + (all.length - 2048) }

/-- Whether a class is enabled by a trigger that is open. -/
def traced (d : Die) (c : Nat) : Bool := d.trig.any fun e => e.2.open_ && e.2.cls.getLsbD c

/-- The records of the present tick go to the buffer, in order, where a trigger captures them; each appears once (R438, R442). -/
def flushTrace (d : Die) : Die :=
  writeTrace { d with recent := [] } ((d.recent.filter fun r => traced d r.data.cls).foldl (fun l r => insertTrace r l) [])

/-- Notes an event of a die in the present tick, at whose end a trigger that opens in it captures the tick whole (R438). -/
def noteTrace (s : State) (die : Nat) (r : TraceRec) : State := modDie s die fun d => { d with recent := d.recent ++ [r] }

/-- A record of a core. -/
def coreRecord (s : State) (k pc group slot : Nat) (x : TraceData) : TraceRec :=
  { tick := tick s, cyc := BitVec.ofNat 32 (cyc s k), pc := pc, core := k, group := group, slot := slot, data := x }

/-! ## Triggers (R437, R438) -/

def condKind (v : DWord) : Nat := fieldAt v.toNat 60 4
def condCore (v : DWord) : Nat := fieldAt v.toNat 50 10
def condArg (v : DWord) : Nat := fieldAt v.toNat 0 50

/-- Whether a condition holds in the present tick, given the tick of arming (R437) (log entry 101). -/
def condHolds (s : State) (d : Die) (armed : Nat) (v : DWord) : Bool :=
  match condKind v with
  | 1 => true
  | 2 => (getDie s (dieOf (condCore v))).recent.any fun r => r.tick == tick s && r.core == condCore v && r.pc == condArg v % 2 ^ 24 &&
      (match r.data with | .issue _ _ => true | _ => false)
  | 3 => d.recent.any fun r => r.tick == tick s && (match r.data with | .trap c _ _ => c == condArg v % 16 | _ => false)
  | 4 => tick s == armed + condArg v
  | _ => false

def getTrig (d : Die) (n : Nat) : Trigger := Tbl.get {} d.trig n

def modTrig (d : Die) (n : Nat) (f : Trigger → Trigger) : Die := { d with trig := Tbl.mod {} d.trig n f }

/-- A trigger-mark record (R438). -/
def markRecord (s : State) (die n : Nat) (opened : Bool) : TraceRec :=
  { coreRecord s (108 * die) 0 0 0 (.mark n opened) with cyc := 0 }

/-- TRIGGER_ARM: a write of DBG_TCTLn; writing ARM = 1 arms the unit (R437). -/
def execTriggerArm (die n : Nat) (val : DWord) (s : State) : Host.Outcome State Fault Refusal :=
  .next (modDie s die fun d => modTrig d n fun t => { t with
    cls := BitVec.ofNat 5 (fieldAt val.toNat 1 5), armed := if val.toNat % 2 = 1 then some (tick s) else none, open_ := false })

/-- TRIGGER_OPEN: in the first tick in which the start condition holds (R438). -/
def execTriggerOpen (die n : Nat) (s : State) : Host.Outcome State Fault Refusal :=
  .next (
    let d := getDie s die
    let t := getTrig d n
    match t.armed with
    | none => s
    | some a =>
      if t.open_ || !condHolds s d a t.tstart then s
      else modDie s die fun d => writeTrace (modTrig d n fun t => { t with open_ := true }) [markRecord s die n true])

/-- Whether the present time unit is the last of its tick. -/
def tickEnds (s : State) : Bool := (s.time + 1) % tickUnits == 0

/-- Whether a unit closes at the end of the present tick. -/
def closes (s : State) (die n : Nat) : Bool :=
  let d := getDie s die
  let t := getTrig d n
  t.open_ && tickEnds s && (match t.armed with | some a => condHolds s d a t.tstop | none => false)

/-- Closes a unit: the tick's records are captured, ARM is cleared, and a mark is written. -/
def closeUnit (s : State) (die n : Nat) : State :=
  modDie s die fun d => writeTrace (modTrig (flushTrace d) n fun t => { t with open_ := false, armed := none }) [markRecord s die n false]

/-- The units that close in the present tick, in the order of the dies; they close together, each by what the tick has brought (R438, R442). -/
def closing (s : State) : List (Nat × Nat) :=
  (List.range 8).flatMap fun die => ((List.range 4).filter (closes s die)).map fun n => (die, n)

def closeAll (s : State) : State := (closing s).foldl (fun s e => closeUnit s e.1 e.2) s

/-- TRIGGER_CLOSE: at the end of the first tick at or after opening in which the stop condition holds (R438). -/
def execTriggerClose (die n : Nat) (s : State) : Host.Outcome State Fault Refusal :=
  .next (if closes s die n then closeAll s else s)

/-! ## DBG_STOP_TICK (R441, R442) -/

/-- DBG_STOP_TICK_WRITE: only while debug is unlocked; a tick at or before the present one leaves 0 (R441). -/
def execDbgStopTickWrite (val : DWord) (s : State) : Host.Outcome State Fault Refusal :=
  .next (
    if !s.boot.debugUnlocked then s
    else { s with stopTick := if val.toNat ≤ tick s then 0 else val })

/-- The units that close in the present tick, and the records of the tick (R442). -/
def endTick (s : State) : State := (List.range 8).foldl (fun s die => modDie s die flushTrace) (closeAll s)

/-- DEVICE_CLOCK_STOP: at the end of the tick that DBG_STOP_TICK names, after its records are written, every clock is gated (R441). -/
def execDeviceClockStop (s : State) : Host.Outcome State Fault Refusal :=
  .next (if s.stopTick ≠ 0 && s.stopTick.toNat == tick s && tickEnds s && !s.stopped then { endTick s with stopped := true, stoppedAt := s.time } else s)

end Sys2Proof.Machine
end

