-- ==== Sys2Proof/Machine/FloatInstr.lean ====
section
/-! DEFINITION. The floating-point, packed, conversion and special-function instructions (R125 to R143). -/
namespace Sys2Proof.Machine

/-- FADD (R127). -/
def execFadd (o : Ops) (r : Rnd) (ftz : Bool) (s : State) : Host.Outcome State Fault Refusal :=
  .next (popWord (.fadd r ftz) o s)

/-- FSUB (R127). -/
def execFsub (o : Ops) (r : Rnd) (ftz : Bool) (s : State) : Host.Outcome State Fault Refusal :=
  .next (popWord (.fsub r ftz) o s)

/-- FMUL (R127). -/
def execFmul (o : Ops) (r : Rnd) (ftz : Bool) (s : State) : Host.Outcome State Fault Refusal :=
  .next (popWord (.fmul r ftz) o s)

/-- FFMA: one rounding (R127). -/
def execFfma (o : Ops) (r : Rnd) (ftz : Bool) (s : State) : Host.Outcome State Fault Refusal :=
  .next (popWord (.ffma r ftz) o s)

/-- FMIN (R94, R127). -/
def execFmin (o : Ops) (prop ftz : Bool) (s : State) : Host.Outcome State Fault Refusal :=
  .next (popWord (.fmin prop ftz) o s)

/-- FMAX (R94, R127). -/
def execFmax (o : Ops) (prop ftz : Bool) (s : State) : Host.Outcome State Fault Refusal :=
  .next (popWord (.fmax prop ftz) o s)

/-- FSET (R128). -/
def execFset (o : Ops) (c : FCmp) (ftz : Bool) (s : State) : Host.Outcome State Fault Refusal :=
  .next (popWord (.fset c ftz) o s)

/-- FCLASS (R129). -/
def execFclass (o : Ops) (s : State) : Host.Outcome State Fault Refusal :=
  .next (popWord (.fclass) o s)

/-- FRND (R127). -/
def execFrnd (o : Ops) (r : Rnd) (ftz : Bool) (s : State) : Host.Outcome State Fault Refusal :=
  .next (popWord (.frnd r ftz) o s)

/-- FSCALE (R127). -/
def execFscale (o : Ops) (r : Rnd) (ftz : Bool) (s : State) : Host.Outcome State Fault Refusal :=
  .next (popWord (.fscale r ftz) o s)

/-- HADD2 (R131). -/
def execHadd2 (o : Ops) (bf : Bool) (r : Rnd) (ftz : Bool) (s : State) : Host.Outcome State Fault Refusal :=
  .next (popWord (.hadd2 bf r ftz) o s)

/-- HMUL2 (R131). -/
def execHmul2 (o : Ops) (bf : Bool) (r : Rnd) (ftz : Bool) (s : State) : Host.Outcome State Fault Refusal :=
  .next (popWord (.hmul2 bf r ftz) o s)

/-- HFMA2 (R131). -/
def execHfma2 (o : Ops) (bf : Bool) (r : Rnd) (ftz : Bool) (s : State) : Host.Outcome State Fault Refusal :=
  .next (popWord (.hfma2 bf r ftz) o s)

/-- HMIN2 (R131). -/
def execHmin2 (o : Ops) (bf prop ftz : Bool) (s : State) : Host.Outcome State Fault Refusal :=
  .next (popWord (.hmin2 bf prop ftz) o s)

/-- HMAX2 (R131). -/
def execHmax2 (o : Ops) (bf prop ftz : Bool) (s : State) : Host.Outcome State Fault Refusal :=
  .next (popWord (.hmax2 bf prop ftz) o s)

/-- FDOT2 (R132). -/
def execFdot2 (o : Ops) (bf : Bool) (r : Rnd) (ftz : Bool) (s : State) : Host.Outcome State Fault Refusal :=
  .next (popWord (.fdot2 bf r ftz) o s)

/-- CVT (R135). -/
def execCvt (o : Ops) (dst src : Ty) (sat ftz : Bool) (r : Rnd) (s : State) : Host.Outcome State Fault Refusal :=
  .next (popWord (.cvt dst src sat ftz r) o s)

/-- CVTN: an illegal descriptor raises FORMAT (R99, R137). -/
def execCvtn (o : Ops) (from_ sat : Bool) (r : Rnd) (s : State) : Host.Outcome State Fault Refusal :=
  .next (popWord (.cvtn from_ sat r) o s)

/-- CVTW (R136). -/
def execCvtw (o : Ops) (dst src : Ty) (sat ftz : Bool) (r : Rnd) (s : State) : Host.Outcome State Fault Refusal :=
  .next (popWord (.cvtw dst src sat ftz r) o s)

/-- PACK (R138). -/
def execPack (o : Ops) (e : Esz) (sat : Bool) (s : State) : Host.Outcome State Fault Refusal :=
  .next (popWord (.pack e sat) o s)

/-- UNPACK (R138). -/
def execUnpack (o : Ops) (e : Esz) (s : State) : Host.Outcome State Fault Refusal :=
  .next (popWord (.unpack e) o s)

/-- DADD (R130). -/
def execDadd (o : Ops) (r : Rnd) (ftz : Bool) (s : State) : Host.Outcome State Fault Refusal :=
  .next (dWord o (fun a b _ => FFmt.f64.add r ftz a b) s)

/-- DMUL (R130). -/
def execDmul (o : Ops) (r : Rnd) (ftz : Bool) (s : State) : Host.Outcome State Fault Refusal :=
  .next (dWord o (fun a b _ => FFmt.f64.mul r ftz a b) s)

/-- DFMA (R130). -/
def execDfma (o : Ops) (r : Rnd) (ftz : Bool) (s : State) : Host.Outcome State Fault Refusal :=
  .next (dWord o (FFmt.f64.fma r ftz) s)

/-- DMIN (R94, R130). -/
def execDmin (o : Ops) (prop ftz : Bool) (s : State) : Host.Outcome State Fault Refusal :=
  .next (dWord o (fun a b _ => FFmt.f64.minmax false prop ftz a b) s)

/-- DMAX (R94, R130). -/
def execDmax (o : Ops) (prop ftz : Bool) (s : State) : Host.Outcome State Fault Refusal :=
  .next (dWord o (fun a b _ => FFmt.f64.minmax true prop ftz a b) s)

/-- DSET (R128, R130). -/
def execDset (o : Ops) (c : FCmp) (ftz : Bool) (s : State) : Host.Outcome State Fault Refusal :=
  .next (valueWord true o.g o.d
    (fun grp l =>
      let (t, fl) := FFmt.f64.compare c ftz (srcPair grp l o.a).toNat (srcPair grp l o.b).toNat
      some (.b t, fl)) s)

/-- NDOT4: an illegal descriptor raises FORMAT for every active lane (R99, R133). -/
def execNdot4 (g : Guard) (d a b c : Spec) (fmt : Word) (r : Rnd) (ftz : Bool) (s : State) : Host.Outcome State Fault Refusal :=
  .next (valueWord false g d
    (fun grp l => (ndot4Bits r ftz (readSpec grp l a).toNat (readSpec grp l b).toNat (readSpec grp l c).toNat fmt.toNat).map fw) s)

/-- A special function (R139, R140). -/
def sfunWord (f : SFun) (o : Ops) (ftz : Bool) (s : State) : State :=
  valueWord false o.g o.d (fun grp l => some (fw (sfun f ftz (readSrc grp l o.a).toNat))) s

/-- RCP (R139, R140). -/
def execRcp (o : Ops) (ftz : Bool) (s : State) : Host.Outcome State Fault Refusal :=
  .next (sfunWord .rcp o ftz s)

/-- RSQ (R139, R140). -/
def execRsq (o : Ops) (ftz : Bool) (s : State) : Host.Outcome State Fault Refusal :=
  .next (sfunWord .rsq o ftz s)

/-- SQRT (R139, R140). -/
def execSqrt (o : Ops) (ftz : Bool) (s : State) : Host.Outcome State Fault Refusal :=
  .next (sfunWord .sqrt o ftz s)

/-- EXP2 (R139, R140). -/
def execExp2 (o : Ops) (ftz : Bool) (s : State) : Host.Outcome State Fault Refusal :=
  .next (sfunWord .exp2 o ftz s)

/-- LOG2 (R139, R140). -/
def execLog2 (o : Ops) (ftz : Bool) (s : State) : Host.Outcome State Fault Refusal :=
  .next (sfunWord .log2 o ftz s)

/-- SIN (R139, R140). -/
def execSin (o : Ops) (ftz : Bool) (s : State) : Host.Outcome State Fault Refusal :=
  .next (sfunWord .sin o ftz s)

/-- COS (R139, R140). -/
def execCos (o : Ops) (ftz : Bool) (s : State) : Host.Outcome State Fault Refusal :=
  .next (sfunWord .cos o ftz s)

/-- TANH (R139, R140). -/
def execTanh (o : Ops) (ftz : Bool) (s : State) : Host.Outcome State Fault Refusal :=
  .next (sfunWord .tanh o ftz s)

end Sys2Proof.Machine
end

