-- ==== Sys2Proof/Machine/Integer.lean ====
section
/-! DEFINITION. The vector integer and logic instructions (R109 to R118). -/
namespace Sys2Proof.Machine

/-- IADD: a + b (R112). -/
def execIadd (o : Ops) (s : State) : Host.Outcome State Fault Refusal :=
  .next (popWord .iadd o s)

/-- ISUB: a − b (R112). -/
def execIsub (o : Ops) (s : State) : Host.Outcome State Fault Refusal :=
  .next (popWord .isub o s)

/-- IADDS: the clamped sum (R112). -/
def execIadds (o : Ops) (n : Bool) (s : State) : Host.Outcome State Fault Refusal :=
  .next (popWord (.iadds n) o s)

/-- IMUL: the low word of the product (R112). -/
def execImul (o : Ops) (s : State) : Host.Outcome State Fault Refusal :=
  .next (popWord .imul o s)

/-- IMULH: the high word (R112). -/
def execImulh (o : Ops) (n : Bool) (s : State) : Host.Outcome State Fault Refusal :=
  .next (popWord (.imulh n) o s)

/-- IMAD: a × b + c (R112). -/
def execImad (o : Ops) (s : State) : Host.Outcome State Fault Refusal :=
  .next (popWord .imad o s)

/-- IMIN (R112). -/
def execImin (o : Ops) (n : Bool) (s : State) : Host.Outcome State Fault Refusal :=
  .next (popWord (.imin n) o s)

/-- IMAX (R112). -/
def execImax (o : Ops) (n : Bool) (s : State) : Host.Outcome State Fault Refusal :=
  .next (popWord (.imax n) o s)

/-- IABS (R112). -/
def execIabs (o : Ops) (s : State) : Host.Outcome State Fault Refusal :=
  .next (popWord .iabs o s)

/-- IDOT4 (R107, R112). -/
def execIdot4 (o : Ops) (na nb : Bool) (s : State) : Host.Outcome State Fault Refusal :=
  .next (popWord (.idot4 na nb) o s)

/-- AND (R112). -/
def execAnd (o : Ops) (s : State) : Host.Outcome State Fault Refusal :=
  .next (popWord .and o s)

/-- OR (R112). -/
def execOr (o : Ops) (s : State) : Host.Outcome State Fault Refusal :=
  .next (popWord .or o s)

/-- XOR (R112). -/
def execXor (o : Ops) (s : State) : Host.Outcome State Fault Refusal :=
  .next (popWord .xor o s)

/-- ANDN: a & ¬b (R112). -/
def execAndn (o : Ops) (s : State) : Host.Outcome State Fault Refusal :=
  .next (popWord .andn o s)

/-- NOT (R112). -/
def execNot (o : Ops) (s : State) : Host.Outcome State Fault Refusal :=
  .next (popWord .not o s)

/-- SHL (R89, R112). -/
def execShl (o : Ops) (s : State) : Host.Outcome State Fault Refusal :=
  .next (popWord .shl o s)

/-- SHR (R89, R112). -/
def execShr (o : Ops) (s : State) : Host.Outcome State Fault Refusal :=
  .next (popWord .shr o s)

/-- SHA (R89, R112). -/
def execSha (o : Ops) (s : State) : Host.Outcome State Fault Refusal :=
  .next (popWord .sha o s)

/-- ROT (R89, R112). -/
def execRot (o : Ops) (s : State) : Host.Outcome State Fault Refusal :=
  .next (popWord .rot o s)

/-- BFX (R113). -/
def execBfx (o : Ops) (n : Bool) (s : State) : Host.Outcome State Fault Refusal :=
  .next (popWord (.bfx n) o s)

/-- BFI (R113). -/
def execBfi (o : Ops) (s : State) : Host.Outcome State Fault Refusal :=
  .next (popWord .bfi o s)

/-- POPC (R112). -/
def execPopc (o : Ops) (s : State) : Host.Outcome State Fault Refusal :=
  .next (popWord .popc o s)

/-- CLZ (R112). -/
def execClz (o : Ops) (s : State) : Host.Outcome State Fault Refusal :=
  .next (popWord .clz o s)

/-- BREV (R112). -/
def execBrev (o : Ops) (s : State) : Host.Outcome State Fault Refusal :=
  .next (popWord .brev o s)

/-- ISET (R114). -/
def execIset (o : Ops) (c : Cmp) (n : Bool) (s : State) : Host.Outcome State Fault Refusal :=
  .next (popWord (.iset c n) o s)

/-- SEL (R112, R114). -/
def execSel (o : Ops) (s : State) : Host.Outcome State Fault Refusal :=
  .next (popWord .sel o s)

/-- MOV (R112). -/
def execMov (o : Ops) (s : State) : Host.Outcome State Fault Refusal :=
  .next (popWord .mov o s)

/-- LEA: a + (b << c) (R112). -/
def execLea (o : Ops) (s : State) : Host.Outcome State Fault Refusal :=
  .next (popWord .lea o s)

/-- MOVI (R116). -/
def execMovi (g : Guard) (d : Spec) (i : Word) (s : State) : Host.Outcome State Fault Refusal :=
  .next (valueWord false g d (fun _ _ => some (.w i, 0)) s)

/-- PSET: the bit of the truth table that the two predicates name (R114). -/
def psetBit (lut : Word) (pa pb : Bool) : Bool := lut.getLsbD ((if pa then 1 else 0) + (if pb then 2 else 0))

/-- PSET (R114). -/
def execPset (o : Ops) (s : State) : Host.Outcome State Fault Refusal :=
  .next (valueWord true o.g o.d
    (fun grp l => some (.b (psetBit (readSpec grp l o.c) (readPred grp l o.a.spec) (readPred grp l o.b.spec)), 0)) s)

/-- IADD64 (R115). -/
def execIadd64 (o : Ops) (s : State) : Host.Outcome State Fault Refusal := .next (wideWord o (fun a b _ => a + b) s)

/-- ISUB64 (R115). -/
def execIsub64 (o : Ops) (s : State) : Host.Outcome State Fault Refusal := .next (wideWord o (fun a b _ => a - b) s)

/-- IMAD64 (R115). -/
def execImad64 (o : Ops) (s : State) : Host.Outcome State Fault Refusal := .next (wideWord o (fun a b c => a * b + c) s)

/-- A 64-bit shift: its count is a 32-bit source (R115). -/
def shift64Word (o : Ops) (f : DWord → Nat → DWord) (s : State) : State :=
  valueWord false o.g o.d (fun grp l => some (.d (f (srcPair grp l o.a) ((readSrc grp l o.b).toNat % 64)), 0)) s

/-- SHL64 (R89, R115). -/
def execShl64 (o : Ops) (s : State) : Host.Outcome State Fault Refusal := .next (shift64Word o (fun a n => a <<< n) s)

/-- SHR64 (R89, R115). -/
def execShr64 (o : Ops) (n : Bool) (s : State) : Host.Outcome State Fault Refusal := .next (shift64Word o (shr64 n) s)

/-- ISET64 (R115). -/
def execIset64 (o : Ops) (c : Cmp) (n : Bool) (s : State) : Host.Outcome State Fault Refusal :=
  .next (valueWord true o.g o.d (fun grp l => some (.b (cmpVal c n (srcPair grp l o.a) (srcPair grp l o.b)), 0)) s)

end Sys2Proof.Machine
end

