-- ==== Sys2Proof/Machine/Uniform.lean ====
section
/-! DEFINITION. The uniform instructions (R119 to R124). -/
namespace Sys2Proof.Machine

/-- The value of a uniform source; IMM32 replaces SB (R119). -/
def usrc (grp : Group) (x : Src) : Word := readSrc grp 0 x

/-- A uniform value instruction: once for the group, if some issuing lane's guard holds (R119, R120). -/
def uniformWord (p : GOp) (o : Ops) (s : State) : State :=
  groupWord s o.g fun _ =>
    advance (onGroup s fun grp => writeG grp o.d (gOp p (usrc grp o.a) (usrc grp o.b) (uval grp o.c)))

/-- GADD (R120). -/
def execGadd (o : Ops) (s : State) : Host.Outcome State Fault Refusal := .next (uniformWord .add o s)

/-- GSUB (R120). -/
def execGsub (o : Ops) (s : State) : Host.Outcome State Fault Refusal := .next (uniformWord .sub o s)

/-- GMUL (R120). -/
def execGmul (o : Ops) (s : State) : Host.Outcome State Fault Refusal := .next (uniformWord .mul o s)

/-- GMAD (R120). -/
def execGmad (o : Ops) (s : State) : Host.Outcome State Fault Refusal := .next (uniformWord .mad o s)

/-- GAND (R120). -/
def execGand (o : Ops) (s : State) : Host.Outcome State Fault Refusal := .next (uniformWord .and o s)

/-- GOR (R120). -/
def execGor (o : Ops) (s : State) : Host.Outcome State Fault Refusal := .next (uniformWord .or o s)

/-- GXOR (R120). -/
def execGxor (o : Ops) (s : State) : Host.Outcome State Fault Refusal := .next (uniformWord .xor o s)

/-- GSHL (R120). -/
def execGshl (o : Ops) (s : State) : Host.Outcome State Fault Refusal := .next (uniformWord .shl o s)

/-- GSHR (R120). -/
def execGshr (o : Ops) (n : Bool) (s : State) : Host.Outcome State Fault Refusal := .next (uniformWord (.shr n) o s)

/-- GMIN (R120). -/
def execGmin (o : Ops) (n : Bool) (s : State) : Host.Outcome State Fault Refusal := .next (uniformWord (.min n) o s)

/-- GMAX (R120). -/
def execGmax (o : Ops) (n : Bool) (s : State) : Host.Outcome State Fault Refusal := .next (uniformWord (.max n) o s)

/-- GSET (R120). -/
def execGset (o : Ops) (c : Cmp) (n : Bool) (s : State) : Host.Outcome State Fault Refusal := .next (uniformWord (.set c n) o s)

/-- GSEL (R120). -/
def execGsel (o : Ops) (s : State) : Host.Outcome State Fault Refusal := .next (uniformWord .sel o s)

/-- GMOV (R120). -/
def execGmov (o : Ops) (s : State) : Host.Outcome State Fault Refusal := .next (uniformWord .mov o s)

/-- GMOVI (R120). -/
def execGmovi (g : Guard) (d : Spec) (i : Word) (s : State) : Host.Outcome State Fault Refusal :=
  .next (groupWord s g fun _ => advance (onGroup s fun grp => writeG grp d i))

/-- GRD: the register of the lane that the low five bits name, whether or not the word issues for it (R121). -/
def execGrd (o : Ops) (s : State) : Host.Outcome State Fault Refusal :=
  .next (groupWord s o.g fun _ =>
    advance (onGroup s fun grp => writeG grp o.d (readSrc grp (sh5 (usrc grp o.b)) o.a)))

/-- The byte that GLD and GST name (R122). -/
def gAddr (s : State) (o : Ops) : Nat := (usrc (curGroup s) o.a + usrc (curGroup s) o.b).toNat

/-- GLD and GST: a failed check or a watchpoint raises its trap for every active lane, and nothing changes (R119, R122, R440). A watchpoint that
every active lane's replay leaves out is not met (R390). -/
def uniformAccess (op : MemOp) (o : Ops) (f : Nat → State) (s : State) : State :=
  groupWord s o.g fun act =>
    let a := gAddr s o
    match checkAccess 4 (curWS s) a with
    | some c => trapActive s act c
    | none =>
      match act.findSome? fun l => watchHit s (laneAt (curGroup s) l) 4 a op.rd op.wr with
      | some i => trapActive s act ⟨.watch, i, BitVec.ofNat 32 a, 0⟩
      | none => f a

/-- GLD (R122). -/
def execGld (o : Ops) (s : State) : Host.Outcome State Fault Refusal :=
  .next (uniformAccess (.ld .w32) o (fun a =>
    let x := BitVec.ofNat 32 (readBytes (curTeam s).sp a 4)
    advance (onGroup s fun grp => writeG grp o.d x)) s)

/-- GST (R122). -/
def execGst (o : Ops) (s : State) : Host.Outcome State Fault Refusal :=
  .next (uniformAccess (.st .w32) o (fun a =>
    let x := uval (curGroup s) o.c
    advance (onTeam s fun t => { t with sp := writeBytes t.sp a x.toNat 4 })) s)

end Sys2Proof.Machine
end

