-- ==== Sys2Proof/Machine/WorkRing.lean ====
section
/-! DEFINITION. The work rings of the hubs, from which the agents take queue commands, launch-side work and the resolution of COPYFAULTs (R450, R452)
(log entry 80). -/
namespace Sys2Proof.Machine

/-! ## Posting and serving -/

/-- Whether a piece of work is still to be done: the queue stands mapped at that command, the grid has not started, the command is still parked. -/
def workThere (s : State) : Work → Bool
  | .command k n => match getQueue s k with
    | some q => q.slot.isSome && q.processing.isNone && q.cons == n && q.prod % 2 ^ 64 != q.cons % 2 ^ 64
    | none => false
  | .launch gid => match getGrid s gid with | some g => g.st == .waiting | none => false
  | .fault core serial => (getDie s (dieOf core)).log.any fun e => e.core == core && e.cmd.serial == serial

/-- The work that a hub's ring is to hold: the commands of its own queues, the starts of grids on hub 0, and the COPYFAULTs of its own dies. -/
def workOf (s : State) (h : Nat) : List Work :=
  (s.queues.filterMap fun e => match e.2 with
    | some q => if q.slot.any (fun n => n / 128 == h) && workThere s (.command e.1 q.cons) then some (.command e.1 q.cons) else none
    | none => none) ++
    (if h = 0 then s.grids.filterMap fun e => if workThere s (.launch e.1) then some (.launch e.1) else none else []) ++
    s.dies.flatMap fun d => if d.1 / 4 = h then d.2.log.map fun e => .fault e.core e.cmd.serial else []

/-- The agent that has drawn a ticket ahead of its entry. -/
def aheadOf (s : State) (h t : Nat) : Option Nat := (s.cores.find? fun e => e.2.ticket == some (h, t)).map (·.1)

/-- Posts work at the tail of a hub's ring of 4,096 entries; while the entry that its number names, modulo 4,096, is not done it waits. -/
def postWork (h : Nat) (s : State) (w : Work) : State :=
  let x := getHub s h
  if x.ring.any fun e => e.work == w || e.ticket % 4096 == x.posted % 4096 then s
  else
    let k := aheadOf s h x.posted
    let now := tick s
    modHub s h fun x => { x with posted := (x.posted + 1) % 2 ^ 64, ring := x.ring ++ [⟨x.posted, k, if k.isSome then now else 0, w⟩] }

/-- Whether an entry is done: an agent has drawn it, and its work is no longer there. -/
def workDone (s : State) (e : WorkEntry) : Bool := e.core.isSome && !(workThere s e.work)

/-- Marks the done entries of a hub's ring: each is served once, and its agent is free. -/
def serveHub (s : State) (h : Nat) : State :=
  match (getHub s h).ring.filter (workDone s) with
  | [] => s
  | l =>
    let s := modHub s h fun x => { x with serve := (x.serve + l.length) % 2 ^ 64, ring := x.ring.filter fun e => !(l.contains e) }
    l.foldl (fun s e => match e.core with
      | some k => if (getCore s k).ticket = some (h, e.ticket) then modCore s k fun c => { c with ticket := none } else s
      | none => s) s

/-- The rings after an event: done entries are marked, and new work is posted. -/
def settleWork (s : State) : State :=
  [0, 1].foldl (fun s h => let s := serveHub s h; (workOf s h).foldl (postWork h) s) s

/-! ## Tickets -/

/-- Whether an agent is at work: its ticket names an entry that is its own, or one that is not posted yet. -/
def holdsTicket (s : State) (k : Nat) : Bool :=
  match (getCore s k).ticket with
  | none => false
  | some (h, t) => !((getHub s h).ring.any fun e => e.ticket == t && e.core != some k) && (decide ((getHub s h).posted ≤ t) || (getHub s h).ring.any fun e => e.ticket == t)

/-- Whether a later core has already drawn a ticket of a hub in this tick. -/
def drawnAbove (s : State) (hub core : Nat) : Bool := (getHub s hub).lastDraw.1 == tick s + 1 && decide (core < (getHub s hub).lastDraw.2)

/-- Whether an agent may draw a ticket: its die works, it has nothing in hand, and no later core has drawn in this tick (R430, R450, R452). -/
def mayDraw (s : State) (core hub : Nat) : Bool := (getDie s (dieOf core)).tripped.isNone && !(holdsTicket s core) && !(drawnAbove s hub core)

/-- AGENT_TICKET_DRAW: the ticket names the entry of its number modulo 4,096, and the agent works on that entry (R450, R452) (log entry 80). -/
def execAgentTicketDraw (core hub : Nat) (s : State) : Host.Outcome State Fault Refusal :=
  .next (
    if !(mayDraw s core hub) then s
    else
      let t := (getHub s hub).tickets
      let now := tick s
      let s := modHub s hub fun h => { h with
        tickets := (t + 1) % 2 ^ 64, lastDraw := (now + 1, core),
        ring := h.ring.map fun e => if e.ticket % 4096 = t % 4096 && e.core.isNone then { e with core := some core, drawn := now } else e }
      modCore s core fun c => { c with ticket := some (hub, t) })

/-- WORK_ENTRY_TIMEOUT: an entry drawn 50,000 ticks ago and not done is posted again at the tail; its agent's result is discarded (R450). -/
def execWorkEntryTimeout (hub i : Nat) (s : State) : Host.Outcome State Fault Refusal :=
  .next (match (getHub s hub).ring[i]? with
    | none => s
    | some e =>
      if e.core.isNone || tick s < e.drawn + 50000 then s
      else postWork hub (modHub s hub fun h => { h with ring := h.ring.eraseIdx i }) e.work)

/-- Whether an agent works on the command that a queue offers, on a die that works (R430, R450). -/
def commandDrawn (s : State) (k : Nat) : Bool :=
  s.hubs.any fun h => h.2.ring.any fun e => match e.work, e.core with
    | .command q _, some c => q == k && (getDie s (dieOf c)).tripped.isNone
    | _, _ => false

/-- The draw that may come next on a hub: where some entry is not drawn, of an agent that has nothing in hand, a free one (R450). -/
def nextDraw (s : State) (hub : Nat) : List Nat :=
  if (getHub s hub).ring.all fun e => e.core.isSome then []
  else match allCores.filter fun k => mayDraw s k hub with
    | [] => []
    | l => (l[Config.choose s.freeNo % l.length]?).toList

end Sys2Proof.Machine
end

