-- ==== Sys2Proof/Machine/Dispatch.lean ====
section
/-! DEFINITION. One arm for each constructor of `Instr`: a direct call of its meaning. -/
namespace Sys2Proof.Machine

def exec (i : Instr) (s : State) : Host.Outcome State Fault Refusal :=
  match i with
  | .nop g => Sys2Proof.Machine.execNop g s
  | .bra g target => Sys2Proof.Machine.execBra g target s
  | .brx g table a => Sys2Proof.Machine.execBrx g table a s
  | .call g target => Sys2Proof.Machine.execCall g target s
  | .ret g => Sys2Proof.Machine.execRet g s
  | .loop g c bound => Sys2Proof.Machine.execLoop g c bound s
  | .next g c target => Sys2Proof.Machine.execNext g c target s
  | .meet g target => Sys2Proof.Machine.execMeet g target s
  | .exit g => Sys2Proof.Machine.execExit g s
  | .yield g => Sys2Proof.Machine.execYield g s
  | .elect g d a => Sys2Proof.Machine.execElect g d a s
  | .trap g a => Sys2Proof.Machine.execTrap g a s
  | .bkpt g => Sys2Proof.Machine.execBkpt g s
  | .bbhint g a => Sys2Proof.Machine.execBbhint g a s
  | .time g d => Sys2Proof.Machine.execTime g d s
  | .cyc g d => Sys2Proof.Machine.execCyc g d s
  | .iadd o => Sys2Proof.Machine.execIadd o s
  | .isub o => Sys2Proof.Machine.execIsub o s
  | .iadds o n => Sys2Proof.Machine.execIadds o n s
  | .imul o => Sys2Proof.Machine.execImul o s
  | .imulh o n => Sys2Proof.Machine.execImulh o n s
  | .imad o => Sys2Proof.Machine.execImad o s
  | .imin o n => Sys2Proof.Machine.execImin o n s
  | .imax o n => Sys2Proof.Machine.execImax o n s
  | .iabs o => Sys2Proof.Machine.execIabs o s
  | .idot4 o na nb => Sys2Proof.Machine.execIdot4 o na nb s
  | .and o => Sys2Proof.Machine.execAnd o s
  | .or o => Sys2Proof.Machine.execOr o s
  | .xor o => Sys2Proof.Machine.execXor o s
  | .andn o => Sys2Proof.Machine.execAndn o s
  | .not o => Sys2Proof.Machine.execNot o s
  | .shl o => Sys2Proof.Machine.execShl o s
  | .shr o => Sys2Proof.Machine.execShr o s
  | .sha o => Sys2Proof.Machine.execSha o s
  | .rot o => Sys2Proof.Machine.execRot o s
  | .bfx o n => Sys2Proof.Machine.execBfx o n s
  | .bfi o => Sys2Proof.Machine.execBfi o s
  | .popc o => Sys2Proof.Machine.execPopc o s
  | .clz o => Sys2Proof.Machine.execClz o s
  | .brev o => Sys2Proof.Machine.execBrev o s
  | .iset o c n => Sys2Proof.Machine.execIset o c n s
  | .sel o => Sys2Proof.Machine.execSel o s
  | .mov o => Sys2Proof.Machine.execMov o s
  | .movi g d idx => Sys2Proof.Machine.execMovi g d idx s
  | .pset o => Sys2Proof.Machine.execPset o s
  | .lea o => Sys2Proof.Machine.execLea o s
  | .iadd64 o => Sys2Proof.Machine.execIadd64 o s
  | .isub64 o => Sys2Proof.Machine.execIsub64 o s
  | .imad64 o => Sys2Proof.Machine.execImad64 o s
  | .shl64 o => Sys2Proof.Machine.execShl64 o s
  | .shr64 o n => Sys2Proof.Machine.execShr64 o n s
  | .iset64 o c n => Sys2Proof.Machine.execIset64 o c n s
  | .gadd o => Sys2Proof.Machine.execGadd o s
  | .gsub o => Sys2Proof.Machine.execGsub o s
  | .gmul o => Sys2Proof.Machine.execGmul o s
  | .gmad o => Sys2Proof.Machine.execGmad o s
  | .gand o => Sys2Proof.Machine.execGand o s
  | .gor o => Sys2Proof.Machine.execGor o s
  | .gxor o => Sys2Proof.Machine.execGxor o s
  | .gshl o => Sys2Proof.Machine.execGshl o s
  | .gshr o n => Sys2Proof.Machine.execGshr o n s
  | .gmin o n => Sys2Proof.Machine.execGmin o n s
  | .gmax o n => Sys2Proof.Machine.execGmax o n s
  | .gset o c n => Sys2Proof.Machine.execGset o c n s
  | .gsel o => Sys2Proof.Machine.execGsel o s
  | .gmov o => Sys2Proof.Machine.execGmov o s
  | .gmovi g d idx => Sys2Proof.Machine.execGmovi g d idx s
  | .gld o => Sys2Proof.Machine.execGld o s
  | .gst o => Sys2Proof.Machine.execGst o s
  | .grd o => Sys2Proof.Machine.execGrd o s
  | .fadd o r ftz => Sys2Proof.Machine.execFadd o r ftz s
  | .fsub o r ftz => Sys2Proof.Machine.execFsub o r ftz s
  | .fmul o r ftz => Sys2Proof.Machine.execFmul o r ftz s
  | .ffma o r ftz => Sys2Proof.Machine.execFfma o r ftz s
  | .fmin o prop ftz => Sys2Proof.Machine.execFmin o prop ftz s
  | .fmax o prop ftz => Sys2Proof.Machine.execFmax o prop ftz s
  | .fset o c ftz => Sys2Proof.Machine.execFset o c ftz s
  | .fclass o => Sys2Proof.Machine.execFclass o s
  | .frnd o r ftz => Sys2Proof.Machine.execFrnd o r ftz s
  | .fscale o r ftz => Sys2Proof.Machine.execFscale o r ftz s
  | .dadd o r ftz => Sys2Proof.Machine.execDadd o r ftz s
  | .dmul o r ftz => Sys2Proof.Machine.execDmul o r ftz s
  | .dfma o r ftz => Sys2Proof.Machine.execDfma o r ftz s
  | .dmin o prop ftz => Sys2Proof.Machine.execDmin o prop ftz s
  | .dmax o prop ftz => Sys2Proof.Machine.execDmax o prop ftz s
  | .dset o c ftz => Sys2Proof.Machine.execDset o c ftz s
  | .hadd2 o bf r ftz => Sys2Proof.Machine.execHadd2 o bf r ftz s
  | .hmul2 o bf r ftz => Sys2Proof.Machine.execHmul2 o bf r ftz s
  | .hfma2 o bf r ftz => Sys2Proof.Machine.execHfma2 o bf r ftz s
  | .hmin2 o bf prop ftz => Sys2Proof.Machine.execHmin2 o bf prop ftz s
  | .hmax2 o bf prop ftz => Sys2Proof.Machine.execHmax2 o bf prop ftz s
  | .fdot2 o bf r ftz => Sys2Proof.Machine.execFdot2 o bf r ftz s
  | .ndot4 g d a b c fmt r ftz => Sys2Proof.Machine.execNdot4 g d a b c fmt r ftz s
  | .cvt o dst src sat ftz r => Sys2Proof.Machine.execCvt o dst src sat ftz r s
  | .cvtn o from_ sat r => Sys2Proof.Machine.execCvtn o from_ sat r s
  | .cvtw o dst src sat ftz r => Sys2Proof.Machine.execCvtw o dst src sat ftz r s
  | .pack o e sat => Sys2Proof.Machine.execPack o e sat s
  | .unpack o e => Sys2Proof.Machine.execUnpack o e s
  | .rcp o ftz => Sys2Proof.Machine.execRcp o ftz s
  | .rsq o ftz => Sys2Proof.Machine.execRsq o ftz s
  | .sqrt o ftz => Sys2Proof.Machine.execSqrt o ftz s
  | .exp2 o ftz => Sys2Proof.Machine.execExp2 o ftz s
  | .log2 o ftz => Sys2Proof.Machine.execLog2 o ftz s
  | .sin o ftz => Sys2Proof.Machine.execSin o ftz s
  | .cos o ftz => Sys2Proof.Machine.execCos o ftz s
  | .tanh o ftz => Sys2Proof.Machine.execTanh o ftz s
  | .shfl o m => Sys2Proof.Machine.execShfl o m s
  | .vote g d p m => Sys2Proof.Machine.execVote g d p m s
  | .match_ o m => Sys2Proof.Machine.execMatch o m s
  | .reduce o r => Sys2Proof.Machine.execReduce o r s
  | .scan o r excl => Sys2Proof.Machine.execScan o r excl s
  | .hist o => Sys2Proof.Machine.execHist o s
  | .merge o => Sys2Proof.Machine.execMerge o s
  | .bar g b count => Sys2Proof.Machine.execBar g b count s
  | .arrive g b count => Sys2Proof.Machine.execArrive g b count s
  | .waitbar g b => Sys2Proof.Machine.execWaitbar g b s
  | .ld o sz cb => Sys2Proof.Machine.execLd o sz cb s
  | .st o sz cb => Sys2Proof.Machine.execSt o sz cb s
  | .atom o a cb => Sys2Proof.Machine.execAtom o a cb s
  | .acas o cb => Sys2Proof.Machine.execAcas o cb s
  | .rld o sz => Sys2Proof.Machine.execRld o sz s
  | .rst o sz => Sys2Proof.Machine.execRst o sz s
  | .ratom o a => Sys2Proof.Machine.execRatom o a s
  | .old o sz => Sys2Proof.Machine.execOld o sz s
  | .ost o sz => Sys2Proof.Machine.execOst o sz s
  | .fence g sz => Sys2Proof.Machine.execFence g sz s
  | .rsv g rid rec => Sys2Proof.Machine.execRsv g rid rec s
  | .rls g rid => Sys2Proof.Machine.execRls g rid s
  | .opfence g => Sys2Proof.Machine.execOpfence g s
  | .mma g tile ra rb vn e => Sys2Proof.Machine.execMma g tile ra rb vn e s
  | .mmaw g => Sys2Proof.Machine.execMmaw g s
  | .tmov g d tile row => Sys2Proof.Machine.execTmov g d tile row s
  | .tset g tile a row => Sys2Proof.Machine.execTset g tile a row s
  | .tzero g tile => Sys2Proof.Machine.execTzero g tile s
  | .drain g tile sb rid e => Sys2Proof.Machine.execDrain g tile sb rid e s
  | .drainw g => Sys2Proof.Machine.execDrainw g s
  | .dpld g prog addr => Sys2Proof.Machine.execDpld g prog addr s
  | .copy g loc shape coord ctr e => Sys2Proof.Machine.execCopy g loc shape coord ctr e s
  | .waitc g ctr target bound => Sys2Proof.Machine.execWaitc g ctr target bound s
  | .cntset g ctr value => Sys2Proof.Machine.execCntset g ctr value s
  | .fetch g d => Sys2Proof.Machine.execFetch g d s
  | .fatom g old addr b ctr e => Sys2Proof.Machine.execFatom g old addr b ctr e s
  | .sread g d num => Sys2Proof.Machine.execSread g d num s
  | .swrite g num a => Sys2Proof.Machine.execSwrite g num a s
  | .rett g rec act => Sys2Proof.Machine.execRett g rec act s
  | .pairedWord x y => Sys2Proof.Machine.execPairedWord x y s
  | .resultWriteback core tx g => Sys2Proof.Machine.execResultWriteback core tx g s
  | .teamStart grid n => Sys2Proof.Machine.execTeamStart grid n s
  | .teamStep core tx => Sys2Proof.Machine.execTeamStep core tx s
  | .teamRetire core tx => Sys2Proof.Machine.execTeamRetire core tx s
  | .barrierWaveRelease core tx => Sys2Proof.Machine.execBarrierWaveRelease core tx s
  | .barrierDeadlock core tx => Sys2Proof.Machine.execBarrierDeadlock core tx s
  | .waitcSatisfied core tx g => Sys2Proof.Machine.execWaitcSatisfied core tx g s
  | .waitcTimeout core tx g => Sys2Proof.Machine.execWaitcTimeout core tx g s
  | .cntsetWrite core tx g => Sys2Proof.Machine.execCntsetWrite core tx g s
  | .fenceComplete core tx g => Sys2Proof.Machine.execFenceComplete core tx g s
  | .remoteAccessEntry core idx => Sys2Proof.Machine.execRemoteAccessEntry core idx s
  | .remoteResultReady core idx => Sys2Proof.Machine.execRemoteResultReady core idx s
  | .rsvEntryUsable core tx g => Sys2Proof.Machine.execRsvEntryUsable core tx g s
  | .mmaGatherDone pair ctx => Sys2Proof.Machine.execMmaGatherDone pair ctx s
  | .mmaCaptureStart pair ctx => Sys2Proof.Machine.execMmaCaptureStart pair ctx s
  | .mmaCaptureEnd pair ctx => Sys2Proof.Machine.execMmaCaptureEnd pair ctx s
  | .mmaRetire pair ctx => Sys2Proof.Machine.execMmaRetire pair ctx s
  | .mmawComplete core tx g => Sys2Proof.Machine.execMmawComplete core tx g s
  | .tmovRead pair ctx idx => Sys2Proof.Machine.execTmovRead pair ctx idx s
  | .tsetWrite pair ctx idx => Sys2Proof.Machine.execTsetWrite pair ctx idx s
  | .drainHalfStart pair ctx half => Sys2Proof.Machine.execDrainHalfStart pair ctx half s
  | .drainRowCommit pair ctx half idx => Sys2Proof.Machine.execDrainRowCommit pair ctx half idx s
  | .drainwComplete core tx g => Sys2Proof.Machine.execDrainwComplete core tx g s
  | .dpldSlotWrite core tx g => Sys2Proof.Machine.execDpldSlotWrite core tx g s
  | .stagingElement core tx => Sys2Proof.Machine.execStagingElement core tx s
  | .stagingComplete core tx => Sys2Proof.Machine.execStagingComplete core tx s
  | .writebackElement core tx => Sys2Proof.Machine.execWritebackElement core tx s
  | .writebackComplete core tx => Sys2Proof.Machine.execWritebackComplete core tx s
  | .copyElement core => Sys2Proof.Machine.execCopyElement core s
  | .copyComplete core => Sys2Proof.Machine.execCopyComplete core s
  | .pageWalkComplete die idx => Sys2Proof.Machine.execPageWalkComplete die idx s
  | .commandLogCheck die idx => Sys2Proof.Machine.execCommandLogCheck die idx s
  | .commandLogEntryRetry core => Sys2Proof.Machine.execCommandLogEntryRetry core s
  | .migrationBack vi va frame => Sys2Proof.Machine.execMigrationBack vi va frame s
  | .migrationComplete idx => Sys2Proof.Machine.execMigrationComplete idx s
  | .writeArrive holder idx => Sys2Proof.Machine.execWriteArrive holder idx s
  | .writeApply holder idx => Sys2Proof.Machine.execWriteApply holder idx s
  | .fatomHomePerform core => Sys2Proof.Machine.execFatomHomePerform core s
  | .fatomOldValueReturn core => Sys2Proof.Machine.execFatomOldValueReturn core s
  | .queueSlotMapDeferred hub => Sys2Proof.Machine.execQueueSlotMapDeferred hub s
  | .queueIdleTimeout slot => Sys2Proof.Machine.execQueueIdleTimeout slot s
  | .quote q => Sys2Proof.Machine.execQuote q s
  | .accept q => Sys2Proof.Machine.execAccept q s
  | .decline q => Sys2Proof.Machine.execDecline q s
  | .launch q => Sys2Proof.Machine.execLaunch q s
  | .mark q => Sys2Proof.Machine.execMark q s
  | .markPost q => Sys2Proof.Machine.execMarkPost q s
  | .badcmd q => Sys2Proof.Machine.execBadcmd q s
  | .gridStart grid => Sys2Proof.Machine.execGridStart grid s
  | .completionRecord grid => Sys2Proof.Machine.execCompletionRecord grid s
  | .eventRecordDeferred q => Sys2Proof.Machine.execEventRecordDeferred q s
  | .eventInterruptCount q => Sys2Proof.Machine.execEventInterruptCount q s
  | .eventInterruptTimer q => Sys2Proof.Machine.execEventInterruptTimer q s
  | .timeSliceEnd grid => Sys2Proof.Machine.execTimeSliceEnd grid s
  | .forcedSaveStart grid => Sys2Proof.Machine.execForcedSaveStart grid s
  | .forcedSaveComplete grid => Sys2Proof.Machine.execForcedSaveComplete grid s
  | .forcedSaveTimeout grid => Sys2Proof.Machine.execForcedSaveTimeout grid s
  | .contextRestore grid => Sys2Proof.Machine.execContextRestore grid s
  | .trapRecordClaim core => Sys2Proof.Machine.execTrapRecordClaim core s
  | .workEntryTimeout hub idx => Sys2Proof.Machine.execWorkEntryTimeout hub idx s
  | .predictionStart q => Sys2Proof.Machine.execPredictionStart q s
  | .predictionRevalidate q => Sys2Proof.Machine.execPredictionRevalidate q s
  | .predictionClaim q => Sys2Proof.Machine.execPredictionClaim q s
  | .predictionHoldExpiry q => Sys2Proof.Machine.execPredictionHoldExpiry q s
  | .flitSend port => Sys2Proof.Machine.execFlitSend port s
  | .laneRepair port lane => Sys2Proof.Machine.execLaneRepair port lane s
  | .laneRepairDone port => Sys2Proof.Machine.execLaneRepairDone port s
  | .portRetrainDone port => Sys2Proof.Machine.execPortRetrainDone port s
  | .laneShed port => Sys2Proof.Machine.execLaneShed port s
  | .laneRegain port => Sys2Proof.Machine.execLaneRegain port s
  | .peerUnreachableTimeout dev => Sys2Proof.Machine.execPeerUnreachableTimeout dev s
  | .governorSample cl => Sys2Proof.Machine.execGovernorSample cl s
  | .voltageSlewDone cl => Sys2Proof.Machine.execVoltageSlewDone cl s
  | .frequencySwitchDone cl => Sys2Proof.Machine.execFrequencySwitchDone cl s
  | .droopWindowEnd cl => Sys2Proof.Machine.execDroopWindowEnd cl s
  | .throttleStopEnd cl => Sys2Proof.Machine.execThrottleStopEnd cl s
  | .throttleHoldEnd cl => Sys2Proof.Machine.execThrottleHoldEnd cl s
  | .diePowerOff die => Sys2Proof.Machine.execDiePowerOff die s
  | .triggerOpen die n => Sys2Proof.Machine.execTriggerOpen die n s
  | .triggerClose die n => Sys2Proof.Machine.execTriggerClose die n s
  | .migrationToTier vi va slot => Sys2Proof.Machine.execMigrationToTier vi va slot s
  | .doorbellSignalStore vi q val => Sys2Proof.Machine.execDoorbellSignalStore vi q val s
  | .teamMigrate core tx dest => Sys2Proof.Machine.execTeamMigrate core tx dest s
  | .agentTicketDraw core hub => Sys2Proof.Machine.execAgentTicketDraw core hub s
  | .viCtxctlStop vi => Sys2Proof.Machine.execViCtxctlStop vi s
  | .viCtxctlResume vi => Sys2Proof.Machine.execViCtxctlResume vi s
  | .viCtxctlReset vi => Sys2Proof.Machine.execViCtxctlReset vi s
  | .viQtableWrite vi q val => Sys2Proof.Machine.execViQtableWrite vi q val s
  | .viRootWrite vi val => Sys2Proof.Machine.execViRootWrite vi val s
  | .viViolClear vi => Sys2Proof.Machine.execViViolClear vi s
  | .hostWrite vi va bytes => Sys2Proof.Machine.execHostWrite vi va bytes s
  | .hostRead vi a n => Sys2Proof.Machine.execHostRead vi a n s
  | .secKeydataWrite vi bytes => Sys2Proof.Machine.execSecKeydataWrite vi bytes s
  | .viFlr vi => Sys2Proof.Machine.execViFlr vi s
  | .attestRequest vi addr => Sys2Proof.Machine.execAttestRequest vi addr s
  | .debugUnlockRequest val => Sys2Proof.Machine.execDebugUnlockRequest val s
  | .flyCtlWrite val => Sys2Proof.Machine.execFlyCtlWrite val s
  | .flitDataReceive port f => Sys2Proof.Machine.execFlitDataReceive port f s
  | .flitAckReceive port ack => Sys2Proof.Machine.execFlitAckReceive port ack s
  | .flitReplayRequestReceive port ack => Sys2Proof.Machine.execFlitReplayRequestReceive port ack s
  | .clDvfsWrite cl val => Sys2Proof.Machine.execClDvfsWrite cl val s
  | .clSlopeWrite cl val => Sys2Proof.Machine.execClSlopeWrite cl val s
  | .drpThreshWrite cl val => Sys2Proof.Machine.execDrpThreshWrite cl val s
  | .droopAlarm cl => Sys2Proof.Machine.execDroopAlarm cl s
  | .currentSample amps => Sys2Proof.Machine.execCurrentSample amps s
  | .sensorSample die temps => Sys2Proof.Machine.execSensorSample die temps s
  | .hbmTempSample die stack temp => Sys2Proof.Machine.execHbmTempSample die stack temp s
  | .powerControlSample watts => Sys2Proof.Machine.execPowerControlSample watts s
  | .scrubErrorFound die addr correctable => Sys2Proof.Machine.execScrubErrorFound die addr correctable s
  | .hbmEcntGather die stack counts ue => Sys2Proof.Machine.execHbmEcntGather die stack counts ue s
  | .triggerArm die n val => Sys2Proof.Machine.execTriggerArm die n val s
  | .dbgStopTickWrite val => Sys2Proof.Machine.execDbgStopTickWrite val s
  | .registerWrite r val => Sys2Proof.Machine.execRegisterWrite r val s
  | .hostCompletion core write ticks => Sys2Proof.Machine.execHostCompletion core write ticks s
  | .laneControlFlitReceive port lane => Sys2Proof.Machine.execLaneControlFlitReceive port lane s
  | .attestReport => Sys2Proof.Machine.execAttestReport s
  | .dbgchalRead => Sys2Proof.Machine.execDbgchalRead s
  | .debugUnlockDone => Sys2Proof.Machine.execDebugUnlockDone s
  | .recoveryVerify => Sys2Proof.Machine.execRecoveryVerify s
  | .recoveryVerifyDone => Sys2Proof.Machine.execRecoveryVerifyDone s
  | .recoveryRun => Sys2Proof.Machine.execRecoveryRun s
  | .recoveryCommit => Sys2Proof.Machine.execRecoveryCommit s
  | .recoveryCommitDone => Sys2Proof.Machine.execRecoveryCommitDone s
  | .recoveryRaise => Sys2Proof.Machine.execRecoveryRaise s
  | .deviceReset => Sys2Proof.Machine.execDeviceReset s
  | .powerLoss => Sys2Proof.Machine.execPowerLoss s
  | .flyCtlApply => Sys2Proof.Machine.execFlyCtlApply s
  | .deviceClockStop => Sys2Proof.Machine.execDeviceClockStop s

end Sys2Proof.Machine
end

