-- ==== Sys2Proof/Machine/Select.lean ====
section
/-! DEFINITION. Selection inside a group, readiness, and the choice of a slot among its groups (R172 to R180, R232 to R234). -/
namespace Sys2Proof.Machine

/-! ## Selection (R172 to R174) -/

/-- Whether a lane is held at its meeting point (R171, R172). -/
def heldLane (ln : Lane) : Bool := decide (ln.st = .free) && ln.meet == some ln.pc

/-- Whether every lane of a meeting set is held, parked or exited (R172, R173). -/
def meetComplete (g : Group) (m : Nat) : Bool :=
  allLanes.all fun l => (laneAt g l).meet != some m || heldLane (laneAt g l) || (laneAt g l).st != .free

/-- Step 1: the held lanes of complete meeting sets are released. -/
def releaseMeets (g : Group) : Group :=
  let ls := allLanes.filter fun l =>
    heldLane (laneAt g l) && (match (laneAt g l).meet with | some m => meetComplete g m | none => false)
  modLanes g ls fun _ ln => { ln with meet := none }

/-- The lanes that selection may choose, without or with the deferred ones. -/
def selectable (g : Group) (deferred : Bool) : List Nat :=
  allLanes.filter fun l => let ln := laneAt g l; decide (ln.st = .free) && !(heldLane ln) && (deferred || !ln.deferred)

/-- Step 2: the candidates. -/
def candidates (g : Group) : List Nat :=
  match selectable g false with
  | [] => selectable g true
  | ls => ls

/-- The lowest PC of a list of lanes. -/
def lowestPc (g : Group) (ls : List Nat) : Nat := ls.foldl (fun m l => min m (laneAt g l).pc) ((laneAt g (ls.headD 0)).pc)

/-- The group after selection, with the PC and the lanes chosen; none where no lane is selectable. -/
def selection (g : Group) : Option (Group × Nat × List Nat) :=
  let g := releaseMeets g
  match candidates g with
  | [] => none
  | ls =>
    let x := lowestPc g ls
    some (modLanes g (allLanes.filter fun l => (laneAt g l).deferred) fun _ ln => { ln with deferred := false }, x,
      ls.filter fun l => (laneAt g l).pc == x)

/-! ## Readiness (R177, R293, R384) -/

/-- Whether an entry of the scoreboard is still pending. -/
def pendingAt (now : Nat) (p : Pend) : Bool := match p.ready with | some c => decide (now < c) | none => true

/-- Whether a pending write holds back a word with these resources that reads or writes last-result entries of these lanes (R48, R177). -/
def holdsBack (now : Nat) (res : List Res) (lanes : BitVec 32) (p : Pend) : Bool :=
  pendingAt now p && res.contains p.res && (match p.res with | .y _ => p.mask &&& lanes != 0 | _ => true)

/-- The resources of a word of a group. -/
def resOf (grp : Group) (i : Instr) : List Res := (i.sources ++ i.dests).flatMap Field.res ++ tileRes grp i

/-- The lanes whose last-result entries a word of a subset may read: GRD reads the lane that it names, and SHFL those that its active lanes name (R121, R187). -/
def lanesRead (grp : Group) (sub : List Nat) (i : Instr) : BitVec 32 :=
  match i with
  | .grd o => maskOf [(readSrc grp 0 o.b).toNat % 32] ||| maskOf sub
  | .shfl o m => maskOf ((activeIn o.g grp sub).filterMap fun l => shflLane m l (readSrc grp l o.b)) ||| maskOf sub
  | _ => maskOf sub

/-- Whether a word waits for every earlier result of its lanes: a SREAD of S_FPFLAGS (R52, R143). -/
def waitsForFlags (i : Instr) : Bool := match i with | .sread _ _ n => n == 10 | _ => false

/-- The reservation entries that a drain program of a team names, with the drain's own (R318). -/
def namedRids (c : Core) (t : Team) (prog : Nat) (sc : Option Nat) : List Nat :=
  match progImage c t prog with
  | some img => (programRids img sc).getD []
  | none => []

/-- Whether the reservation entries that a word or its drain program names are usable (R293, R318). -/
def entriesUsable (c : Core) (t : Team) (grp : Group) (now : Nat) : Instr → Bool
  | .mma _ _ ra rb _ e => entryUsable t now (uval grp ra).toNat && entryUsable t now (uval grp rb).toNat &&
      e.dprog.all fun p => (namedRids c t p.val none).all (entryUsable t now)
  | .rls _ rid | .rsv _ rid _ => entryUsable t now (uval grp rid).toNat
  | .drain _ _ _ rid e => (rid == .zero || entryUsable t now (uval grp rid).toNat) && (namedRids c t e.dprog.val (optRid grp rid)).all (entryUsable t now)
  | .old _ _ | .ost _ _ => t.rsvReady.all fun e => decide (e.2 ≤ now)
  | _ => true

/-- Whether the unit that a word needs can accept it, given the state with the word's issuing context; an RSV or RLS waits before it issues until no MMA
needs its entry (R177, R248, R253, R287, R291, R293). -/
def accepts (s : State) (i : Instr) : Bool :=
  (active s i.guard).isEmpty ||
    (match i with
    | .copy .. | .fatom .. => !(queueFull (curCore s))
    | .mma _ t _ _ _ e => !(mmaBlocked (curCtx s) (tileName (curGroup s) t) e.new)
    | .tset _ t _ _ => !(noPair (curCtx s) (tileName (curGroup s) t) false)
    | .rsv _ rid _ | .rls _ rid => !(entryInUse (curCtx s) (curU s rid).toNat)
    | .tzero _ t => !(noPair (curCtx s) (tileName (curGroup s) t) true)
    | _ => true)

/-- The text of a team's kernel and its number of target tables. -/
def teamCode (s : State) (t : Team) : List Word × Nat := match teamGrid s t with | some g => (g.kernel.text, g.kernel.tables.length) | none => ([], 0)

/-- What a group would issue now. `claims` is false where R179 has put it before a claimant that is ready, which keeps the claim (R178). -/
structure Ready where
  core : Nat
  tx : Nat
  group : Nat
  pc : Nat
  lanes : List Nat
  claims : Bool := true
  deriving DecidableEq, Repr

/-- The state in which the word of a ready group issues: its issuing context is set, and its selection is made (R172). -/
def issuing (s : State) (r : Ready) : State :=
  let t := getTeam s r.core r.tx
  let code := teamCode s t
  let s := { s with cur := { core := r.core, tx := r.tx, group := r.group, lanes := maskOf r.lanes, pc := r.pc, len := lengthAt code.1 r.pc } }
  match selection (groupAt t r.group) with
  | some x => modGroup s r.core r.tx r.group fun _ => x.1
  | none => s

/-- Whether a team's groups may issue at all: it has started, runs, and has not been stopped (R388, R393, R394). -/
def teamIssues (s : State) (t : Team) : Bool := decide (0 < t.ngroups) && !t.stopped && !t.retiring && runs s t.grid

/-- Whether a word's operands, entries and unit are ready (R177). -/
def wordReady (s : State) (r : Ready) (i : Instr) : Bool :=
  let t := getTeam s r.core r.tx
  let grp := groupAt t r.group
  let now := cyc s r.core
  !(grp.pend.any (holdsBack now (resOf grp i) (lanesRead grp r.lanes i))) &&
    !(waitsForFlags i && grp.pend.any fun p => pendingAt now p && p.mask &&& maskOf r.lanes != 0) &&
    entriesUsable (getCore s r.core) t grp now i && accepts (issuing s r) i

/-- The word that a group is ready to issue (R177). A word that cannot be decoded has no operands to wait for. -/
def readyOf (s : State) (k tx g : Nat) : Option Ready :=
  let t := getTeam s k tx
  let grp := groupAt t g
  if !teamIssues s t || grp.ended || grp.wait.isSome || decide (cyc s k < grp.bubble) || decide (16 ≤ recordsOf (getCore s k) tx g) then none
  else match selection grp with
    | none => none
    | some (_, pc, ls) =>
      let code := teamCode s t
      let r : Ready := { core := k, tx := tx, group := g, pc := pc, lanes := ls }
      match fetchAt code.1 code.2 pc with
      | .error _ => some r
      | .ok (i, _) => if wordReady s r i then some r else none

/-! ## The choice of a slot (R178 to R180, R234) -/

def slotAt (c : Core) (n : Nat) : Slot := Tbl.get {} c.slots n

/-- The ready groups of a slot. -/
def readyOn (s : State) (k n : Nat) : List Ready :=
  [0, 1].flatMap fun tx => match teamAt (getCore s k) tx with
    | some t => (List.range t.ngroups).filterMap fun g => if (groupAt t g).slot = n then readyOf s k tx g else none
    | none => []

/-- The first of a list by a comparison; an earlier element wins a tie. -/
def firstBy {α : Type} (before : α → α → Bool) : List α → Option α
  | [] => none
  | x :: xs => some (xs.foldl (fun b y => if before y b then y else b) x)

/-- Whether the team of one group started before that of another (R178, R179, R183). -/
def startedBefore (s : State) (a b : Ready) : Bool := decide ((getTeam s a.core a.tx).startCycle < (getTeam s b.core b.tx).startCycle)

def groupOf (s : State) (r : Ready) : Group := getGroup s r.core r.tx r.group

/-- The order of groups that have waited 16 cycles (R179). -/
def waitsBefore (s : State) (a b : Ready) : Bool :=
  let wa := (groupOf s a).waitCount
  let wb := (groupOf s b).waitCount
  decide (wb < wa) || (wa == wb && (startedBefore s a b || (!startedBefore s b a && decide (a.group < b.group))))

/-- The priority level of a team's context, a lower number first: BOUND, then the LOOSE levels, predicted runs before ballast (R180, R353) (log entry 17). -/
def teamLevel (s : State) (k tx : Nat) : Nat :=
  let t := getTeam s k tx
  match teamGrid s t with
  | none => 99
  | some g => if running s t.grid then 23 else if g.loose then 2 * g.descr.prio + 2 else 0

/-- The team whose word the slot takes where groups of both are ready (R180) (log entry 138). -/
def teamTurn (s : State) (k : Nat) (sl : Slot) (rs : List Ready) : List Ready :=
  let l0 := teamLevel s k 0
  let l1 := teamLevel s k 1
  let of := fun (tx : Nat) => rs.filter fun r => r.tx == tx
  if (of 0).isEmpty || (of 1).isEmpty then rs
  else if l0 < l1 then of 0
  else if l1 < l0 then of 1
  else if sl.lastTeam = some 0 then of 1 else of 0

/-- URG: the lowest progress count, then the lowest group index (R178). -/
def urgBefore (s : State) (a b : Ready) : Bool :=
  let pa := (groupOf s a).progress
  let pb := (groupOf s b).progress
  decide (pa < pb) || (pa == pb && decide (a.group < b.group))

/-- Whether a group yielded in the cycle before this one (R234). -/
def justYielded (s : State) (sl : Slot) (r : Ready) : Bool :=
  sl.yieldedOf r.tx == some r.group && (groupOf s r).issuedAt == cyc s r.core

/-- GTO: the claimant, else the oldest but a group that has just yielded (R178, R234) (log entry 18). -/
def gtoChoice (s : State) (sl : Slot) (rs : List Ready) : Option Ready :=
  match rs.find? fun r => sl.claimOf r.tx == some r.group with
  | some r => some r
  | none =>
    let older := fun (a b : Ready) => startedBefore s a b || (a.tx == b.tx && decide (a.group < b.group))
    match firstBy older (rs.filter fun r => !(justYielded s sl r)) with
    | some r => some r
    | none => firstBy older rs

/-- RR: the first ready group after the last issuer, in cyclic order (R178, R234). -/
def rrChoice (sl : Slot) (rs : List Ready) : Option Ready :=
  let lower := fun (a b : Ready) => decide (a.group < b.group)
  let last := fun (r : Ready) => sl.lastOf r.tx
  match firstBy lower (rs.filter fun r => match last r with | some g => decide (g < r.group) | none => true) with
  | some r => some r
  | none => firstBy lower rs

/-- The policy of a team (R38, R178). -/
def teamPolicy (s : State) (k tx : Nat) : Policy := match teamGrid s (getTeam s k tx) with | some g => g.kernel.issue | none => .urg

/-- The word that a slot issues among its ready groups (R178 to R180). -/
def slotChoice (s : State) (k : Nat) (sl : Slot) (rs : List Ready) : Option Ready :=
  match firstBy (waitsBefore s) (rs.filter fun r => decide (16 ≤ (groupOf s r).waitCount)) with
  | some r => some { r with claims := !(rs.any fun x => x.tx == r.tx && sl.claimOf r.tx == some x.group) }
  | none =>
    match teamTurn s k sl rs with
    | [] => none
    | r :: rest =>
      match teamPolicy s k r.tx with
      | .urg => firstBy (urgBefore s) (r :: rest)
      | .gto => gtoChoice s sl (r :: rest)
      | .rr => rrChoice sl (r :: rest)

/-- Whether some group of a slot issued in a cycle. -/
def issuedOn (s : State) (k n now : Nat) : Bool :=
  (getCore s k).teams.any fun e => match e.2 with
    | some t => t.groups.any fun g => g.2.slot == n && g.2.issuedAt == now + 1
    | none => false

/-- Whether a core's slots may issue now (R426, R430, R431). -/
def coreClocked (s : State) (k : Nat) : Bool :=
  let c := getCluster s (clusterOf k)
  !(clockStopped c) && !(issueBarred c (cyc s k)) && (getDie s (dieOf k)).tripped.all fun t => decide (tick s < t)

/-- The word that a slot issues now; the slots of a core issue in the order 0 to 3 in one cycle (R176, R209). -/
def slotIssue (s : State) (k n : Nat) : Option Ready :=
  let now := cyc s k
  if decide (now < (slotAt (getCore s k) n).busy) || (List.range 4).any fun m => decide (n < m) && issuedOn s k m now then none
  else slotChoice s k (slotAt (getCore s k) n) (readyOn s k n)

/-- The word that a core issues next in the present cycle; none once a cluster or engine access, of class 2 or more, has taken its place in the cycle (R209)
(log entry 19). -/
def coreIssue (s : State) (k : Nat) : Option Ready :=
  if coreClocked s k && ((getCore s k).padCyc != netCyc s k + 1 || decide ((getCore s k).padClass ≤ 1)) then (List.range 4).findSome? (slotIssue s k) else none

end Sys2Proof.Machine
end

