-- ==== Sys2Proof/Machine/Issue.lean ====
section
/-! DEFINITION. Issuing a word: what the core keeps about it, breakpoints, the traps before its meaning, and its meaning (R46, R86, R176 to R180, R232,
R436, R439). -/
namespace Sys2Proof.Machine

/-! ## Issue cycles and latencies (R117, R141, R210, R232) -/

/-- The conflict degree of a local scratchpad access, with the declared bound and the latency that it adds to; none for any other word. -/
def bankWork (s : State) : Instr → Option (Nat × Nat × Nat)
  | .ld o z cb => some (localDegree (.ld z) o s, cbBound cb, 11)
  | .st o z cb => some (localDegree (.st z) o s, cbBound cb, 11)
  | .atom o a cb => some (localDegree (.atom a) o s, cbBound cb, 15)
  | .acas o cb => some (localDegree .acas o s, cbBound cb, 15)
  | _ => none

/-- The cycles for which a word holds its slot, and its latency (log entry 14). -/
def timing (s : State) (i : Instr) : Nat × Nat :=
  match bankWork s i with
  | some (d, b, l) => if b < d then (1, 0) else (max 1 d, l + max 1 d)
  | none => ((Instr.cost i).issue, (Instr.cost i).lat)

/-! ## The scoreboard (R48, R177, R232) -/

/-- Whether a word's result comes by an event, which keeps its own entries (R217, R298, R299). -/
def resultLater : Instr → Bool
  | .rld _ _ | .ratom _ _ | .tmov _ _ _ _ | .tset _ _ _ _ => true
  | _ => false

/-- A pending write of a last-result entry moves with its file in the issuing lanes; one that leaves the file is still awaited by a SREAD of S_FPFLAGS
(R48, R143). -/
def shiftPend (n : Nat) (lanes : BitVec 32) (p : Pend) : List Pend :=
  match p.res with
  | .y j =>
    let stay := p.mask &&& ~~~lanes
    let go := p.mask &&& lanes
    (if stay = 0 then [] else [{ p with mask := stay }]) ++ (if go = 0 then [] else [{ p with res := if 3 < j + n then .flags else .y (j + n), mask := go }])
  | _ => [p]

/-- The new entries of a field. -/
def pendField (ready : Nat) (lanes : BitVec 32) (f : Field) : List Pend := f.res.map fun r => ⟨r, some ready, lanes, 0⟩

/-- The entry of a last-result register: the lanes of `active` wait for their result; what the others hold is there at once (R48). -/
def pendY (ready y : Nat) (act : BitVec 32) : List Pend := if act = 0 then [] else [⟨.y y, some ready, act, 0⟩]

/-- The entries of a word whose results are ready in a cycle: a word without a result that the scoreboard covers is awaited by a SREAD of S_FPFLAGS (R143). -/
def orFlags (ready : Nat) (lanes : BitVec 32) : List Pend → List Pend
  | [] => [⟨.flags, some ready, lanes, 0⟩]
  | l => l

/-- Whether the instruction chapters give a word an end of its own, apart from its latency. -/
def endsLater : Instr → Bool
  | .mma .. | .fence .. | .fetch .. | .cntset .. | .dpld .. | .rsv .. => true
  | _ => false

/-- The entries of a pairable slot's result: its register, and its last-result entry `y`. -/
def pendSlot (s : State) (now : Nat) (moved : BitVec 32) (p : POp) (o : Ops) (y : Nat) : List Pend :=
  let ready := now + (POp.cost p).lat
  orFlags ready s.cur.lanes
    (pendField ready s.cur.lanes ⟨o.d, p.dstRegs⟩ ++ (if p.toPred then [] else pendY ready y (maskOf (active s o.g) &&& moved)))

/-- The entries of a destination field; a uniform register has none where `active` is empty, since nothing writes it (R119). -/
def pendDest (ready : Nat) (lanes act : BitVec 32) (f : Field) : List Pend :=
  match f.sp with
  | .g _ => if act = 0 then [] else pendField ready lanes f
  | _ => pendField ready lanes f

/-- The new scoreboard entries of a word that issues in a cycle with a latency; `moved` are the lanes whose last-result file it has shifted (log entry 13). -/
def newPends (s : State) (now lat : Nat) (moved : BitVec 32) (i : Instr) : List Pend :=
  match i with
  | .pairedWord x y => pendSlot s now moved x.op x.o (if y.op.toPred then 0 else 1) ++ pendSlot s now moved y.op y.o 0
  | i =>
    if resultLater i || lat < 2 then []
    else
      let act := maskOf (active s i.guard)
      let tile := match i with | .tzero _ _ => tileRes (curGroup s) i | _ => []
      let own := i.dests.flatMap (pendDest (now + lat) s.cur.lanes act) ++ (if i.shifts = 0 then [] else pendY (now + lat) 0 (act &&& moved)) ++
        (if act = 0 then [] else tile.map fun r => ⟨r, some (now + lat), act, 0⟩)
      if endsLater i then own else orFlags (now + lat) s.cur.lanes own

/-! ## What the core keeps of an issue (R176, R178 to R180, R425) -/

/-- The group after an issue: its progress and its wait count (R178, R179). -/
def notedGroup (now opened : Nat) (g : Group) : Group :=
  { g with progress := if opened = now + 1 then 0 else g.progress + 1, waitCount := 0, issuedAt := now + 1 }

/-- The slot after an issue: the issuer becomes the claimant, but for one that R179 has put before a claimant that is ready (R176, R178, R180). -/
def notedSlot (busy tx g : Nat) (claims : Bool) (sl : Slot) : Slot :=
  let sl := ((if claims then sl.setClaim tx (some g) else sl).setYielded tx none).setLast tx (some g)
  { sl with busy := busy, lastTeam := some tx }

/-- Notes an issue of the current context that holds its slot for `hold` cycles. -/
def noteIssue (s : State) (hold : Nat) (claims : Bool) : State :=
  let k := s.cur.core
  let now := cyc s k
  let n := (curGroup s).slot
  let opened := (curTeam s).openedAt
  let s := onGroup s (notedGroup now opened)
  let s := onCore s fun c => { c with slots := Tbl.mod {} c.slots n (notedSlot (now + hold) s.cur.tx s.cur.group claims) }
  modCluster s (clusterOf k) fun c => { c with lastIssue := now + 1 }

/-- The lanes of the present issue whose last-result file has shifted between two states of the group (R48): lanes that trap do not shift. -/
def movedLanes (ls : List Nat) (a b : Group) : BitVec 32 := maskOf (ls.filter fun l => decide ((laneAt a l).ysh < (laneAt b l).ysh))

/-- The scoreboard of the issuing group after the meaning of a word: earlier entries of last-result registers move with their files, and the word's own
follow; those that its meaning has put at the end of the list stay (R48, R177, R210). -/
def settlePends (s : State) (i : Instr) (g : Group) : Group :=
  let old := curGroup s
  let moved := movedLanes (subLanes s) old g
  let own := newPends s (cyc s s.cur.core) (timing s i).2 moved i
  { g with pend := (g.pend.take old.pend.length).flatMap (shiftPend i.shifts moved) ++ own ++ g.pend.drop old.pend.length }

/-! ## Breakpoints (R439) -/

/-- Whether a breakpoint register watches an issue. -/
def bpMatches (b : BpReg) (pc g : Nat) : Bool :=
  b.val.getLsbD 63 && b.val.getLsbD (47 + g) && fieldAt b.val.toNat 0 24 == pc

/-- The issue at which a register stops: HIT, where 0 acts as 1. -/
def bpHit (b : BpReg) : Nat := max 1 (fieldAt b.val.toNat 32 15)

/-- A register after an issue that it watches: the count, and EN cleared at the hit. -/
def bpCount (b : BpReg) : BpReg :=
  if bpHit b ≤ b.count + 1 then { val := b.val &&& 0x7FFFFFFFFFFFFFFF, count := 0 } else { b with count := b.count + 1 }

/-- Counts an issue in the breakpoint registers of its core; whether one is hit. For a grid without DEBUG they do nothing (log entry 16). -/
def breakpoint (s : State) : State × Bool :=
  if !debugOn s then (s, false)
  else
    let bp := (curCore s).bp
    let m := fun (b : BpReg) => bpMatches b s.cur.pc s.cur.group
    if bp.any fun e => m e.2 then
      (onCore s fun c => { c with bp := c.bp.map fun e => (e.1, if m e.2 then bpCount e.2 else e.2) }, bp.any fun e => m e.2 && decide (bpHit e.2 ≤ e.2.count + 1))
    else (s, false)

/-- Parks the issuing lanes under a BKPT record that a register raised (R390, R439). -/
def parkBreak (s : State) : State :=
  let ts := (subLanes s).map fun l => (⟨l, .bkpt, 0, 0, 0⟩ : LaneTrap)
  let r := { trapRecord s s.cur.core s.cur.tx s.cur.group s.cur.pc ts .bkpt with viaReg := true }
  pushTrap (onGroup s fun grp => modLanes grp (subLanes s) fun _ ln => { ln with st := .parked }) s.cur.core r

/-! ## Trace records (R436) -/

/-- The record of the issuing word. -/
def noteWord (s : State) : State :=
  let k := s.cur.core
  noteTrace s (dieOf k) (coreRecord s k s.cur.pc s.cur.group (curGroup s).slot
    (.issue (BitVec.ofNat 64 (parcels (curText s) (s.cur.pc / 4) 2)) s.cur.lanes))

/-- The trap records that an event of a tick has written on a core, in places that were free; a record that a restore brings back, or that a claim marks, is none of
them (R383). -/
def newTraps (now : Nat) (a b : Core) : List TrapRec :=
  b.traps.filterMap fun e => match e.2 with
    | some r => if r.tick = now && (Tbl.get none a.traps e.1).isNone then some r else none
    | none => none

/-- The commands that an event has parked in a die's log: each is a COPYFAULT (R256, R383). -/
def newFaults (a b : Die) : List LogEntry := b.log.filter fun e => !(a.log.any fun x => x.core == e.core && x.cmd.serial == e.cmd.serial)

/-- The kind of a command in a trace record: 0 COPY, 1 FATOM, 2 staging, 3 write-back. -/
def cmdKindNo (c : Cmd) : Nat :=
  match c.kind with
  | .copy _ _ _ _ _ => 0
  | .fatom _ _ _ _ _ _ => 1
  | _ => if isWback c then 3 else 2

/-- The commands that entered or left the engines of a core. -/
def movedCmds (a b : Core) : List Cmd :=
  let has := fun (l : List Cmd) (c : Cmd) => l.any fun x => x.serial == c.serial
  (engineCmds b).filter (fun c => !(has (engineCmds a) c)) ++ (engineCmds a).filter fun c => !(has (engineCmds b) c)

/-- The places of a core that were taken or left. -/
def movedTeams (a b : Core) : List Bool :=
  [0, 1].filterMap fun tx => if (teamAt a tx).isSome = (teamAt b tx).isSome then none else some (teamAt b tx).isSome

/-- The records of the classes trap, engine and scheduler for a core that an event has changed (log entry 100). -/
def coreTrace (s t : State) (k : Nat) : List TraceRec :=
  let a := getCore s k
  let b := getCore t k
  ((newTraps (tick t) a b).map fun r => coreRecord t k 0 r.group r.islot (.trap r.code.num r.detail r.mask)) ++
    ((movedCmds a b).map fun c => coreRecord t k 0 c.group 0 (.engine (cmdKindNo c) c.owed)) ++
    (movedTeams a b).map fun x => coreRecord t k 0 0 0 (.scheduler x)

/-- The records of the class thermal of a sample of a die's sensors. -/
def heatTrace (t : State) : Instr → List (Nat × TraceRec)
  | .sensorSample die temps => temps.zipIdx.map fun e => (die, coreRecord t (108 * die) 0 0 0 (.thermal e.2 e.1))
  | _ => []

/-- The trap records of the COPYFAULTs of a die. -/
def faultTrace (s t : State) (die : Nat) : List TraceRec :=
  (newFaults (getDie s die) (getDie t die)).map fun e => coreRecord t e.core 0 e.cmd.group 0 (.trap TrapCode.copyfault.num e.fault.detail 0)

/-- Notes what has changed between two states in the trace of the dies. -/
def noteChange (s t : State) : State :=
  let rs := (t.cores.map (·.1)).flatMap (fun k => (coreTrace s t k).map fun r => (dieOf k, r)) ++
    (t.dies.map (·.1)).flatMap fun d => (faultTrace s t d).map fun r => (d, r)
  rs.foldl (fun t e => noteTrace t e.1 e.2) t

/-- Notes what an instruction or event has done in the trace of the dies. -/
def noteEvent (s : State) (i : Instr) (t : State) : State := (heatTrace t i).foldl (fun t e => noteTrace t e.1 e.2) (noteChange s t)

/-! ## The issue of a word -/

/-- What follows the meaning of a word: a watchpoint exemption is spent, and the trace notes what happened (R390, R436). -/
def afterWord (s : State) (i : Instr) (t : State) : State :=
  noteEvent s i (onGroup t fun grp => clearWatch grp (subLanes s))

/-- What follows the meaning of a group's word: its results are pending too (R232). -/
def afterIssue (s : State) (i : Instr) (t : State) : State := afterWord s i (onGroup t (settlePends s i))

/-- The state on which the meaning of a word acts: its issue is noted (R176 to R180). -/
def noted (s : State) (claims : Bool) (i : Instr) : State := noteIssue s (timing s i).1 claims

/-- The next state of an outcome, changed. -/
def onNext (o : Host.Outcome State Fault Refusal) (f : State → State) : Host.Outcome State Fault Refusal :=
  match o with
  | .next t => .next (f t)
  | .fault x => .fault x
  | .refused x => .refused x

/-- PSLOT of a word that a check stops before its meaning: 01 or 10 where a check of one slot of a paired word failed, slot X before slot Y; 00 for a check
of the whole word (R85, R383) (log entry 119). -/
def failedSlot (w d : Nat) : Nat :=
  if w % 4 ≠ 2 || bitsAt w 2 9 ≠ 0x1F0 || d < 5 || 7 < d then 0
  else match decodeSlot (bitsAt w 11 58) with
    | .error m => if m = d then 1 else 2
    | .ok _ => 2

/-- PSLOT of a word that names a register past the group's budget (R46, R383) (log entry 119). -/
def heavySlot (budget : Nat) (i : Instr) : Nat :=
  match i with
  | .pairedWord x _ => if (Instr.pairedWord x x).overBudget budget then 1 else 2
  | _ => 0

/-- A word that traps every lane for which it issues, before any effect (R46, R86). -/
def trapWord (s : State) (claims : Bool) (c : Cause) : State :=
  let t := trapAll (noteIssue s 1 claims) (subLanes s) c
  noteEvent s (.nop Guard.always) t

/-- The issue of a ready group's word: a breakpoint register first, then its decode, its budget and its meaning (R46, R85, R86, R439, R442). -/
def issueWord (s : State) (r : Ready) : Host.Outcome State Fault Refusal :=
  let code := teamCode s (getTeam s r.core r.tx)
  let b := breakpoint (noteWord (issuing s r))
  let s := b.1
  if b.2 then .next (noteEvent s (.nop Guard.always) (parkBreak (noteIssue s 1 r.claims)))
  else match fetchAt code.1 code.2 r.pc with
    | .error d => .next (trapWord s r.claims ⟨.illegal, d, 0, failedSlot (wordAt code.1 r.pc) d⟩)
    | .ok (i, _) =>
      if i.overBudget (curGroup s).budget then .next (trapWord s r.claims ⟨.bounds, 0, 0, heavySlot (curGroup s).budget i⟩)
      else onNext (exec i (noted s r.claims i)) (afterIssue s i)

end Sys2Proof.Machine
end

