-- ==== Sys2Proof/Machine/Moves.lean ====
section
/-! DEFINITION. What can happen next: the words that cores issue, the events that are due, those that may come at any moment, and the inputs; and the
passing of time (log entry 2). -/
namespace Sys2Proof.Machine

/-! ## Events of a core -/

/-- The place of each team of a core. -/
def placesOf (c : Core) : List (Nat × Team) := [0, 1].filterMap fun tx => (teamAt c tx).map fun t => (tx, t)

/-- The event that ends a wait. -/
def waitEvents (k tx g : Nat) (w : Wait) : List Instr :=
  match w.kind with
  | .waitc _ _ _ _ _ => [.waitcSatisfied k tx g, .waitcTimeout k tx g]
  | .cntset _ _ _ => [.cntsetWrite k tx g]
  | .fence _ _ => [.fenceComplete k tx g]
  | .mmaw => [.mmawComplete k tx g]
  | .drainw _ => [.drainwComplete k tx g]
  | .dpld _ _ _ => [.dpldSlotWrite k tx g]
  | .rsv _ _ | .rls _ => [.rsvEntryUsable k tx g]
  | .barrier _ _ | .wave | .fetch _ => []

/-- The due events of a group. -/
def groupEvents (k tx g : Nat) (x : Group) : List Instr :=
  (if x.pend.isEmpty then [] else [.resultWriteback k tx g]) ++ (match x.wait with | some w => waitEvents k tx g w | none => [])

/-- The due events of a team. -/
def teamEvents (k tx : Nat) (t : Team) : List Instr :=
  (t.groups.flatMap fun e => groupEvents k tx e.1 e.2) ++ (if t.waves.isEmpty then [] else [.barrierWaveRelease k tx]) ++
    (if t.rsvReady.isEmpty then [] else [.rsvEntryUsable k tx 0]) ++ [.barrierDeadlock k tx, .teamStep k tx, .teamRetire k tx]

/-- Whether a record that ends its grid has to be claimed now: the grid's teams stop within 2,000 ticks of its first trap (R388). -/
def claimDue (s : State) (r : TrapRec) : Bool :=
  !r.claimed && r.teamx != 2 && decide (r.tick + 2000 ≤ tick s) && (match getGrid s (getTeam s r.core r.teamx).grid with | some g => ends g r.code | none => false)

/-- The due events of a core. -/
def coreDue (s : State) (k : Nat) (c : Core) : List Instr :=
  ((placesOf c).flatMap fun e => teamEvents k e.1 e.2) ++
    ((List.range c.remotes.length).flatMap fun i => [.remoteAccessEntry k i, .remoteResultReady k i]) ++
    (if c.copyq.any isBlocked || (placesOf c).any fun e => e.2.jobs.any isBlocked then [.commandLogEntryRetry k] else []) ++
    (if c.traps.any fun e => e.2.any (claimDue s) then [.trapRecordClaim k] else [])

/-- The events of a core's engines, which have no time of their own but for the ticks that a command owes. -/
def coreLoose (k : Nat) (c : Core) : List Instr :=
  (if c.copyq.isEmpty then [] else [.copyElement k, .copyComplete k, .fatomHomePerform k, .fatomOldValueReturn k]) ++
    ((placesOf c).flatMap fun e => if e.2.jobs.isEmpty then [] else
      [.stagingElement k e.1, .stagingComplete k e.1, .writebackElement k e.1, .writebackComplete k e.1]) ++
    (if c.traps.any fun e => e.2.any fun r => !r.claimed then [.trapRecordClaim k] else [])

/-- The cores whose scratchpad an event may reach (R209). -/
def touches (s : State) : Instr → List Nat
  | .copyElement k | .copyComplete k | .fatomOldValueReturn k | .stagingElement k _ | .stagingComplete k _ | .writebackElement k _ => [k]
  | .remoteAccessEntry k i => match (getCore s k).remotes[i]? with | some r => [r.target] | none => []
  | .drainRowCommit p n _ _ => [homeCore (getCtx s p n)]
  | .cntsetWrite k _ _ | .dpldSlotWrite k _ _ | .rsvEntryUsable k _ _ => [k]
  | _ => []

/-- The class of an access in the order of R209: words issue in class 1, then come the cluster accesses by source, the stager, the copy engine, and the
drain stores of the home and of the follower (R209, R324). Class 7 is what comes after the words of a cycle (R402); 0 is every other event, which may make a
group ready and comes first. -/
def orderOf (s : State) : Instr → List Nat
  | .cntsetWrite k tx g | .dpldSlotWrite k tx g | .rsvEntryUsable k tx g => [1, (getGroup s k tx g).slot]
  | .remoteAccessEntry k i => [2, localIndex k, i]
  | .stagingElement _ _ | .stagingComplete _ _ | .writebackElement _ _ => [3]
  | .copyElement _ | .copyComplete _ | .fatomOldValueReturn _ => [4]
  | .drainRowCommit _ _ h i => [5, h, i]
  | .forcedSaveStart _ | .timeSliceEnd _ => [7]
  | _ => [0]

/-- The class of an event, the first number of its order. -/
def classOf (s : State) (e : Instr) : Nat := (orderOf s e).headD 0

/-- Whether an event may still come in this cycle at the scratchpads that it reaches: nothing of a later class has come, and no word can issue there any more,
but for the access of a group's own word, which takes its place among the words (R209). -/
def inOrderOfPad (s : State) (e : Instr) : Bool :=
  (touches s e).all fun k =>
    let c := getCore s k
    (decide (classOf s e ≤ 1) || (coreIssue s k).isNone) && (c.padCyc != netCyc s k + 1 || decide (c.padClass ≤ classOf s e))

/-- Notes that an event has reached scratchpads. -/
def notePad (s : State) (e : Instr) (t : State) : State :=
  (touches s e).foldl (fun t k => let n := netCyc s k + 1; modCore t k fun c => { c with padCyc := n, padClass := classOf s e }) t

/-! ## Events of pairs, dies, views and clusters -/

/-- The due events of a matrix context (R277, R287, R298, R299, R317). -/
def ctxDue (p n : Nat) (c : Ctx) : List Instr :=
  (if c.mmas.isEmpty then [] else [.mmaGatherDone p n, .mmaCaptureStart p n, .mmaCaptureEnd p n, .mmaRetire p n]) ++
    ((List.range c.ops.length).flatMap fun i => [.tmovRead p n i, .tsetWrite p n i]) ++
    (if c.drains.isEmpty then [] else [.drainHalfStart p n 0, .drainHalfStart p n 1]) ++
    ((List.range c.drains.length).flatMap fun i => [.drainRowCommit p n 0 i, .drainRowCommit p n 1 i])

def pairDue (p : Nat) (u : PairUnit) : List Instr := ctxDue p 0 u.c0 ++ ctxDue p 1 u.c1

/-- The measurements of a die that are due (R429, R432, R451); their values are free. -/
def dieReadings (s : State) (d : Nat) : List Instr :=
  let x := getDie s d
  let now := tick s
  (if x.sensorDue ≤ now then [.sensorSample d (Config.sensorTemps now d)] else []) ++
    [0, 1].flatMap fun n =>
      let y := Tbl.get ({} : Stack) x.hbmStacks n
      (if y.tempDue ≤ now then [.hbmTempSample d n (Config.stackTemp now d n)] else []) ++
        if y.ecntDue ≤ now then [.hbmEcntGather d n (Config.stackCounts now d n).1 (Config.stackCounts now d n).2] else []

/-- The measurements that are due, and the alarms that droops raise (R426, R428, R429, R432, R433, R451) (log entry 133). -/
def readings (s : State) : List Instr :=
  ((List.range 8).flatMap (dieReadings s)) ++ (if s.currentDue ≤ tick s then [.currentSample (Config.dieAmps (tick s))] else []) ++
    (if s.powerDue ≤ tick s then [.powerControlSample (Config.packageWatts (tick s))] else []) ++
    (s.dips.filter (dipAlarms s)).map fun e => .droopAlarm e.2.1

/-- The due events of a die. -/
def dieDue (now d : Nat) (x : Die) : List Instr :=
  ((List.range x.log.length).map fun i => .commandLogCheck d i) ++ (if x.tripped.any fun due => decide (due ≤ now) then [.diePowerOff d] else []) ++
    (x.trig.map fun e => .triggerOpen d e.1) ++
    (List.range x.walks.length).filterMap fun i => if (x.walks[i]?).any fun w => w.started.any fun t => decide (t + 250 ≤ now) then some (.pageWalkComplete d i) else none

/-- The events of a die that have no time of their own: a walk ends at any moment within 250 ticks of its start, and the rails go off at any within 1,000
of a trip (R255, R430). -/
def dieLoose (d : Nat) (x : Die) : List Instr :=
  (List.range x.walks.length).map (fun i => .pageWalkComplete d i) ++ (if x.tripped.isSome then [.diePowerOff d] else [])

/-- The due events of a cluster: those of clusters 0 to 71 (R424 to R426, R431). -/
def clusterDue (s : State) (cl : Nat) : List Instr :=
  let c := getCluster s cl
  (match c.change with | .none => [] | _ => [.voltageSlewDone cl, .frequencySwitchDone cl]) ++ (if c.barredTo = 0 then [] else [.droopWindowEnd cl]) ++
    (match c.throttle with | .stopped _ => [.throttleStopEnd cl] | .hold _ => [.throttleHoldEnd cl] | _ => [])

/-- The ticks by which the repairs and retrainings that go on have passed their budget (R410). -/
def lateNow (s : State) : Nat :=
  (s.ports.map fun e => max (match e.2.repairing with | (_, due) :: _ => tick s - due | [] => 0)
    (match e.2.st with | .retraining due => tick s - due | _ => 0)).foldl max 0

/-- The due events of a view: a waiting write is applied as soon as it may be, and a write has arrived within 400 ticks of its stamp, or later by the time of
a repair beyond its budget (R272, R410). -/
def viewDue (s : State) (d : Nat) (v : View) : List Instr :=
  (List.range v.held.length).map (fun i => .writeApply d i) ++
    (List.range v.flight.length).filterMap fun i =>
      if (v.flight[i]?).any fun w => decide (w.tick + 400 + max w.late (lateNow s) ≤ tick s) then some (.writeArrive d i) else none

def viewLoose (d : Nat) (v : View) : List Instr := (List.range v.flight.length).map fun i => .writeArrive d i

/-! ## Events of queues, grids and the fabric -/

/-- The commands of queues: among those possible only the first in order of hub, interface and slot is taken (R346). -/
def commandEvents (k : Nat) : List Instr := [.quote k, .accept k, .decline k, .launch k, .mark k, .badcmd k]

/-- The queues that may take a command, in the order of R346: by hub, then interface, then hardware slot. -/
def queueOrder (s : State) : List Nat :=
  (sorted (fun a b => decide (a.1 ≤ b.1)) (s.queues.filterMap fun e => match e.2 with
    | some q => if q.processing.isNone then q.slot.map fun n => ([slotHub n, queueVi e.1, n], e.1) else none
    | none => none)).map (·.2)

def queueDue (k : Nat) (q : Queue) : List Instr :=
  [.eventInterruptCount k, .eventInterruptTimer k] ++ (match q.slot with | some n => [.queueIdleTimeout n] | none => [])

def queueLoose (k : Nat) : List Instr :=
  [.markPost k, .eventRecordDeferred k, .predictionStart k, .predictionClaim k]

/-- The tick at which a placed team of a grid becomes eligible: inside the launch term, and spaced from those placed on its cluster in the same tick (R166,
R342, R428). -/
def teamDue (s : State) (gid : Nat) (g : Grid) (k order : Nat) : Nat :=
  g.started + Config.launchTicks gid % (g.terms.launch + 1) + order * waveTicks s (clusterOf k)

/-- Whether team `n` of a grid has been placed, has not started, and is due to. -/
def startDue (s : State) (gid : Nat) (g : Grid) (n : Nat) : Bool :=
  match teamNo s gid n with
  | some (k, tx) => (getTeam s k tx).ngroups == 0 && decide (teamDue s gid g k (getTeam s k tx).order ≤ tick s)
  | none => false

def gridDue (s : State) (gid : Nat) (g : Grid) : List Instr :=
  (match g.st with
    | .waiting => [.gridStart gid]
    | .running => [.timeSliceEnd gid] ++
        (List.range g.cores.length).filterMap fun n =>
          if startDue s gid g n then some (.teamStart gid n) else none
    | .saving => [.forcedSaveStart gid, .forcedSaveComplete gid]
    | .saved => [.contextRestore gid]
    | _ => [])

def portDue (p : Nat) (x : Port) : List Instr :=
  (if x.ctl.isEmpty && x.resend = 0 && x.txq.isEmpty then [] else [.flitSend p]) ++
    ((x.errs.map (·.1) ++ x.told).map fun l => .laneRepair p l)

/-- A port that has shed regains its lanes within 200 ticks of its queue's passing 8 flits (R411). -/
def regainDue (now p : Nat) (x : Port) : List Instr :=
  if x.st == .shed && x.highSince != 0 && decide (x.highSince + 199 ≤ now) then [.laneRegain p] else []

def portLoose (p : Nat) (x : Port) : List Instr :=
  (if !x.repairing.isEmpty then [.laneRepairDone p] else []) ++ (match x.st with | .retraining _ => [.portRetrainDone p] | .shed => [.laneRegain p] | _ => [])

/-- The peers that the commands of a core need. -/
def neededPeers (s : State) (c : Core) : List Nat :=
  (placesOf c).flatMap fun e => match teamGrid s e.2 with
    | none => []
    | some g => (((c.copyq.filter fun x => x.tx == e.1) ++ e.2.jobs).flatMap (neededPages g)).filterMap fun v =>
        (walkTree s g.vi v).bind fun l => if l.pte.tgt = 3 then some (keyPeer (leafKey l v)) else none

/-- The pages of the faults in the logs, each of which may be wanted back from the tier (R257). -/
def wantedPages (s : State) : List (Nat × Nat) :=
  s.dies.flatMap fun d => d.2.log.filterMap fun e => (getGrid s (getTeam s e.core e.cmd.tx).grid).map fun g => (g.vi, e.fault.va)

/-- The moves back from the tier that the firmware may begin, to a frame that is free (R257). -/
def backMoves (s : State) : List Instr :=
  let f := Config.freeFrame s.freeNo % 2 ^ 24
  (wantedPages s).filterMap fun x => match walkTree s x.1 x.2 with
    | some l => if frameFree s f (pageSize l.level) && !(inFly s f (pageSize l.level)) then some (.migrationBack x.1 x.2 (BitVec.ofNat 32 f)) else none
    | none => none

/-! ## All events -/

/-- Whether the agents run: of an image that has passed its checks, or of a recovery image (R445, R446). -/
def agentsRun (s : State) : Bool := !s.boot.recovery || s.boot.recImage

/-- The draws of the agents (R450). -/
def agentDraws (s : State) : List Instr :=
  if agentsRun s then [0, 1].flatMap fun h => (nextDraw s h).map fun k => .agentTicketDraw k h else []

/-- The events of bring-up and of attestation that a request has started. -/
def bootLoose (b : Boot) : List Instr :=
  (if b.attest.isEmpty then [] else [.attestReport]) ++ (if b.unlockStatus = 3 then [.debugUnlockDone] else []) ++
    (if b.rcvStatus = 1 then [.recoveryVerifyDone, .recoveryCommitDone] else [])

/-- The events whose moment the spec fixes: they come before time passes. -/
def dueEvents (s : State) : List Instr :=
  (s.cores.flatMap fun e => coreDue s e.1 e.2) ++ (s.pairs.flatMap fun e => pairDue e.1 e.2) ++ (s.dies.flatMap fun e => dieDue (tick s) e.1 e.2) ++
    ((List.range 72).flatMap (clusterDue s)) ++ (s.views.flatMap fun e => viewDue s e.1 e.2) ++
    (s.queues.flatMap fun e => match e.2 with | some q => queueDue e.1 q | none => []) ++
    (s.grids.flatMap fun e => match e.2 with | some g => gridDue s e.1 g | none => []) ++ (s.ports.flatMap fun e => portDue e.1 e.2 ++ regainDue (tick s) e.1 e.2) ++
    ((List.range 48).filter (canShed s)).map (fun p => .laneShed p) ++
    ((s.cores.flatMap fun e => neededPeers s e.2).eraseDups.map fun d => .peerUnreachableTimeout d) ++
    (if (getHub s 0).waiting.isEmpty then [] else [.queueSlotMapDeferred 0]) ++
    (if s.flyWrite.isSome then [.flyCtlApply] else []) ++ readings s

/-- The events that may come at any moment (log entry 110). -/
def looseEvents (s : State) : List Instr :=
  (s.cores.flatMap fun e => coreLoose e.1 e.2) ++ (s.dies.flatMap fun e => dieLoose e.1 e.2) ++ (s.views.flatMap fun e => viewLoose e.1 e.2) ++
    (s.queues.flatMap fun e => if e.2.isSome then queueLoose e.1 else []) ++
    (s.grids.flatMap fun e => if e.2.isSome then [.completionRecord e.1] else []) ++ (s.ports.flatMap fun e => portLoose e.1 e.2) ++
    ((List.range s.migrations.length).map fun i => .migrationComplete i) ++
    backMoves s ++ bootLoose s.boot ++ agentDraws s

/-- Whether an event would change the machine (log entry 108). -/
def changes (s : State) (e : Instr) : Bool :=
  match exec e s with
  | .next t => decide (t ≠ s)
  | _ => true

/-- The first unit of a tick belongs to the writes that arrive: a holder applies a write before an engine reads the element in the same tick (R281). -/
def tickBegins (s : State) : Bool := s.time % tickUnits == 0

/-- Whether an event may come in the present unit of its tick: an engine's accesses come after the writes that arrive (R281), and a reading of the sensors
after the changes of point that complete in its tick (R435). -/
def inOrderOfTick (s : State) : Instr → Bool
  | .writeArrive .. => tickBegins s
  | .copyElement _ | .stagingElement _ _ | .writebackElement _ _ | .fatomHomePerform _ | .sensorSample .. => !(tickBegins s)
  | _ => true

/-- The events of a list that can happen now. -/
def enabled (s : State) (es : List Instr) : List Instr :=
  es.filter fun e => inOrderOfTick s e && inOrderOfPad s e && changes s e

/-- The commands that can be taken now: those of the first queue that has one on which an agent works (R346, R450). -/
def commandsNow (s : State) : List Instr := ((queueOrder s).findSome? fun k => match enabled s (commandEvents k) with
  | [] => none
  | l => if commandDrawn s k then some l else none).getD []

/-! ## Inputs -/

/-- Whether an instruction is an input from outside the device: of the host, the PF, a link partner or a measurement. -/
def isInput : Instr → Bool
  | .doorbellSignalStore .. | .viCtxctlStop _ | .viCtxctlResume _ | .viCtxctlReset _ | .viQtableWrite .. | .viRootWrite .. | .viViolClear _
  | .hostWrite .. | .hostRead .. | .secKeydataWrite .. | .viFlr _ | .attestRequest .. | .dbgchalRead | .debugUnlockRequest _ | .recoveryVerify
  | .recoveryRun | .recoveryCommit | .recoveryRaise | .deviceReset | .powerLoss | .flyCtlWrite _ | .flitDataReceive .. | .flitAckReceive ..
  | .flitReplayRequestReceive .. | .laneControlFlitReceive .. | .clDvfsWrite .. | .clSlopeWrite .. | .drpThreshWrite ..
  | .scrubErrorFound .. | .triggerArm ..
  | .dbgStopTickWrite _ | .registerWrite .. | .hostCompletion .. | .migrationToTier .. | .migrationBack .. | .teamMigrate .. => true
  | _ => false

/-- The accesses of the host that reach the device while it is in recovery: through the PF, its configuration space, SEC_IDPUB, attestation and the mailbox
(R446). -/
def reachesRecovery : Instr → Bool
  | .recoveryVerify | .recoveryRun | .recoveryCommit | .recoveryRaise | .registerWrite .secRcvaddr _ | .registerWrite .secRcvctlLen _ => true
  | .hostRead vi a _ => vi == 64 && (a.space == .idPub || a.space == .config)
  | .attestRequest vi _ => vi == 64
  | _ => false

/-- The inputs that are no access of the host: of link partners, of memory that the scrub reads, and the host's answers to the device (R405, R409, R451). -/
def isForeign : Instr → Bool
  | .flitDataReceive .. | .flitAckReceive .. | .flitReplayRequestReceive .. | .laneControlFlitReceive .. | .scrubErrorFound .. | .hostCompletion .. => true
  | _ => false

/-- What the firmware's agents do of their own accord: in recovery only a recovery image runs them (R446, R450). -/
def isAgents : Instr → Bool
  | .migrationToTier .. | .migrationBack .. | .teamMigrate .. => true
  | _ => false

/-- The spaces that the PF reads and an interface does not. -/
def pfSpace : Space → Bool
  | .chain | .config | .scan => true
  | _ => false

/-- Whether a read names a space of its reader: the PF has no BAR of an interface (R415, R416, R420). -/
def readable : Instr → Bool
  | .hostRead vi a _ => if vi = 64 then pfSpace a.space || a.space == .idPub else !pfSpace a.space
  | _ => true

/-- Whether the PF's link, which runs on when the clocks stop, brings an input: the host scans the state out through it (R441) (log entry 94). -/
def scansOut : Instr → Bool
  | .hostRead vi _ _ => vi == 64
  | _ => false

/-- Whether an input reaches the device: after a stop of the clocks a reset does, and what the PF reads (R441, R446). -/
def admits (s : State) (i : Instr) : Bool :=
  match i with
  | .deviceReset | .powerLoss => true
  | i =>
    readable i && isInput i && (!s.stopped || scansOut i) &&
      (!s.boot.recovery || reachesRecovery i || isForeign i || (isAgents i && agentsRun s) || (s.stopped && scansOut i))

/-- A word of a firmware agent issues in its context: it is decoded as every word is, and a word that decode refuses raises ILLEGAL for the agent (R86,
R391). -/
def agentWord (s : State) (w : Nat) : Host.Outcome State Fault Refusal :=
  match decodeWord ⟨s.cur.pc, 0⟩ w with
  | .error d => .next (trapAll s (subLanes s) ⟨.illegal, d, 0, failedSlot w d⟩)
  | .ok i => onNext (exec i s) (afterWord s i)

/-- An input is taken; one that does not reach the device is dropped (log entry 81). -/
def takeInput (s : State) (x : Input) : Host.Outcome State Fault Refusal :=
  match x with
  | .word c b =>
    let w := b.toNat % 2 ^ (8 * wordBytes b.toNat)
    if c.tx = 2 && !s.stopped && agentsRun s then agentWord { s with cur := { c with len := wordBytes b.toNat } } w
    else .next s
  | .outside i => if admits s i then onNext (exec i s) (noteEvent s i) else .next s

/-! ## Time -/

/-- The wait count of a group at the end of a cycle (R179). -/
def countWait (s : State) (k tx n now : Nat) (g : Group) : Group :=
  { g with waitCount := if g.issuedAt = now + 1 || (readyOf s k tx n).isNone then 0 else g.waitCount + 1 }

/-- The mark of a CNTSET that will be a group's selected word in the next cycle, kept from the first such cycle on (R252); a group that waits or stands in
a bubble selects none. -/
def markCntset (s : State) (c : Core) (t : Team) (now : Nat) (g : Group) : Option (Nat × Nat) :=
  if !teamIssues s t || g.ended || g.wait.isSome || decide (now + 1 < g.bubble) then none
  else
    let code := teamCode s t
    (selection g).bind fun x => match fetchAt code.1 code.2 x.2.1 with
      | .ok (.cntset .., _) => some (x.2.1, if g.issuedAt = now + 1 then c.serial else match g.cntMark with
          | some (p, n) => if p = x.2.1 then n else c.serial
          | none => c.serial)
      | _ => none

/-- What the cores of a cluster keep at the end of a cycle. -/
def endCycle (s : State) (k : Nat) (c : Core) : Core :=
  let now := cyc s k
  { c with
    serialAt := c.serial,
    teams := c.teams.map fun e => (e.1, e.2.map fun t => { t with
      groups := t.groups.map fun g => (g.1, { countWait s k e.1 g.1 now g.2 with cntMark := markCntset s c t now g.2 }) }) }

/-- Whether the present time unit is the last of a cycle of a cluster. -/
def cycleEnds (s : State) (cl : Nat) : Bool := decide (cyclesAt (getCluster s cl) s.time < cyclesAt (getCluster s cl) (s.time + 1))

/-- Whether a team stands on a core of a cluster. -/
def occupied (s : State) (cl : Nat) : Bool := s.cores.any fun e => clusterOf e.1 == cl && !(placesOf e.2).isEmpty

/-- What a cluster keeps at the end of a time unit: the energy that it has used, and at the end of a cycle whether it stalled (R352, R425). -/
def endUnit (s : State) (cl : Nat) (c : Cluster) : Cluster :=
  { c with nj := c.nj + Config.energyStep (s.time * 72 + cl),
           stallIdle := if cycleEnds s cl && occupied s cl && c.lastIssue != cyclesAt c s.time + 1 then c.stallIdle + 1 else c.stallIdle }

/-- The droops of the next tick come to be known; those of the past that raised no alarm are forgotten (R426) (log entry 133). -/
def comingDips (s : State) : State :=
  let n := tick s + 1
  { s with dips := (Config.dips n).map fun e => (n * tickUnits + e.1 % tickUnits, e.2.1 % 72, e.2.2) }

/-- The soft errors of a tick fall at its start, and are traced (R258, R436). -/
def strikeNow (s : State) : State := if tickBegins s then noteChange s (strikes s) else s

/-- A time unit passes; at the end of a tick the tile dispensers serve the claims that it has brought (R242, R258). -/
def passTime (s : State) : State :=
  if s.stopped then { s with time := s.time + 1, stage := 0 }
  else
    let s := if tickEnds s then comingDips (serveClaims s) else s
    strikeNow { s with
      time := s.time + 1, stage := 0,
      cores := s.cores.map fun e => (e.1, if cycleEnds s (clusterOf e.1) then endCycle s e.1 e.2 else e.2),
      clusters := (List.range 72).foldl (fun m cl => Tbl.mod {} m cl (endUnit s cl)) s.clusters,
      dies := if tickEnds s then s.dies.map fun e => (e.1, if e.2.recent.isEmpty then e.2 else flushTrace e.2) else s.dies }

/-! ## The end of a tick (R346, R356, R378, R402, R438, R441) -/

/-- The triggers that close at the end of the tick, and then the stop of the clocks (R438, R441, R442). -/
def closeEvents (s : State) : List Instr :=
  match (s.dies.flatMap fun d => (d.2.trig.map (·.1)).filterMap fun n => if closes s d.1 n then some (Instr.triggerClose d.1 n) else none) with
  | [] => [.deviceClockStop]
  | l => l

/-- The events of the end of a tick that may come, each with its stage: a comparison follows every write, retirement and trap of the tick and precedes the
commands of other queues (R378); the commands follow every reading of a sensor and are taken in the order of R346 (R356). -/
def mayEnd (s : State) : List (Nat × Instr) :=
  (enabled s (s.queues.flatMap fun e => if e.2.isSome then [.predictionRevalidate e.1] else [])).map (fun e => (2, e)) ++ (commandsNow s).map fun e => (3, e)

/-- The governor's samples that are due: a binding of the tick comes before them (R425, R435). -/
def governorEvents (s : State) : List Instr :=
  (List.range 72).filterMap fun cl => if (getCluster s cl).sampleDue ≤ tick s then some (.governorSample cl) else none

/-- The events of the end of a tick that come before it passes: a HOLD that expires after the bindings of its tick (R378), a deadline after the saves that
complete in its tick and a work entry's timeout after its completion (R402, R452), the governor's samples, and the triggers and the stop of the clocks. -/
def mustEnd (s : State) : List (Nat × Instr) :=
  let at_ := fun (n : Nat) (es : List Instr) => (enabled s es).map fun e => (n, e)
  match at_ 4 (s.queues.flatMap fun e => if e.2.isSome then [.predictionHoldExpiry e.1] else []) ++
      at_ 5 ((s.grids.flatMap fun e => if e.2.isSome then [.forcedSaveTimeout e.1] else []) ++ governorEvents s ++
        s.hubs.flatMap fun e => (List.range e.2.ring.length).map fun i => .workEntryTimeout e.1 i) with
  | [] => at_ 6 (closeEvents s)
  | l => l

/-- Whether an input may be taken in the present unit of its tick: a unit that scrub marks is marked before an engine reads in that tick (R452). -/
def fitsUnit (s : State) : Input → Bool
  | .outside (.scrubErrorFound ..) => tickBegins s
  | _ => true

/-- The stage of an input that waits for the end of the tick: a reset that the host orders comes after every retirement and trap of its tick (R356, R402);
a write of VI_ROOT comes after the pins, and one of CL_DVFS after the bindings (R422, R435). -/
def endStage : Input → Option Nat
  | .outside (.viCtxctlReset _) => some 1
  | .outside (.viRootWrite ..) | .outside (.clDvfsWrite ..) => some 4
  | _ => none

/-! ## The next move -/

/-- A move of the machine; `atEnd` gives the stage of one that belongs to the end of the tick. -/
inductive Move where
  | issue (r : Ready)
  | event (e : Instr)
  | input (x : Input)
  | atEnd (n : Nat) (e : Instr)
  | pass
  deriving DecidableEq, Repr

/-- The moves that come before time passes, each with its order. -/
def dueOrdered (s : State) : List (List Nat × Move) :=
  ((s.cores.map (·.1)).filterMap (coreIssue s)).map (fun r => ([1, (getGroup s r.core r.tx r.group).slot], .issue r)) ++
    (enabled s (dueEvents s)).map fun e => (orderOf s e, .event e)

/-- The first order in a list. -/
def firstOrder : List (List Nat × Move) → List Nat
  | [] => []
  | x :: xs => xs.foldl (fun m y => if y.1 < m then y.1 else m) x.1

/-- The moves that come before time passes: of those possible, the ones that the order of R209 puts first. -/
def dueMoves (s : State) : List Move :=
  if s.stopped then [] else let l := dueOrdered s; (l.filter fun x => x.1 == firstOrder l).map (·.2)

/-- Whether an event without a moment of its own comes before every due one that the order of R209 puts before it. -/
def notAhead (s : State) (e : Instr) : Bool := (touches s e).isEmpty || (dueOrdered s).all fun x => !decide (x.1 < orderOf s e)

/-- The moves that may come now or later, until the end of the tick has begun. -/
def looseMoves (s : State) : List Move :=
  if s.stage ≠ 0 then []
  else
    (if s.stopped then [] else ((enabled s (looseEvents s)).filter (notAhead s)).map .event) ++
      (match s.inbox with | x :: _ => if (endStage x).isSome || !(fitsUnit s x) then [] else [.input x] | [] => [])

/-- The moves of the end of the tick, which come once nothing else is due in its last unit, in the order of their stages. -/
def endMoves (s : State) : List Move :=
  if !(tickEnds s) then []
  else
    let late := match s.inbox with | x :: _ => if (endStage x).any fun n => decide (s.stage ≤ n) then [Move.input x] else [] | [] => []
    let may := if s.stopped then [] else (mayEnd s).filter fun x => decide (s.stage ≤ x.1)
    let must := if s.stopped then [] else mustEnd s
    late ++ (may ++ must).map (fun x => .atEnd x.1 x.2) ++ (if must.isEmpty then [.pass] else [])

/-- The possible moves: time passes only where nothing is due. -/
def moves (s : State) : List Move :=
  let d := dueMoves s
  d ++ looseMoves s ++ (if !d.isEmpty then [] else if tickEnds s then endMoves s else [.pass])

/-- The next move, with the state from which it goes on: a choice among several takes a free value (log entry 2). -/
def nextMove (s : State) : Move × State :=
  match moves s with
  | [] => (.pass, s)
  | [m] => (m, s)
  | m :: ms => ((m :: ms).getD (Config.choose s.freeNo % (ms.length + 1)) m, { s with freeNo := s.freeNo + 1 })

/-- Carries out a move. -/
def move (m : Move) (s : State) : Host.Outcome State Fault Refusal :=
  match m with
  | .issue r => issueWord s r
  | .event e => onNext (exec e s) fun t => settleWork (noteEvent s e (notePad s e t))
  | .input x => onNext (takeInput { s with inbox := s.inbox.drop 1, stage := (endStage x).getD s.stage } x) settleWork
  | .atEnd n e => onNext (exec e { s with stage := n }) fun t => settleWork (noteEvent s e t)
  | .pass => .next (passTime s)

end Sys2Proof.Machine
end

