-- ==== Sys2Proof/Machine/Load.lean ====
section
/-! DEFINITION. A machine that stands before the issue of one given word: what a launch would have brought about (log entry 1). -/
namespace Sys2Proof.Machine

/-- A NOP, as two parcels (R154). -/
def nopParcels : List Word := [0xFFFF8000, 0x07FFFFFF]

/-- An EXIT and the pads that end its block (R59, R153). -/
def exitBlock : List Word := [0xFFFF8020, 0x07FFFFFF, 3, 3, 3, 3, 3, 3]

/-- `n` parcels of a word. -/
def parcelsOf (w : Nat) : Nat → List Word
  | 0 => []
  | n + 1 => BitVec.ofNat 32 w :: parcelsOf (w / 2 ^ 32) n

/-- A text whose word at offset 32 is the given one, with a block of words before it and an EXIT after it. -/
def loadedText (w : Nat) : List Word :=
  let ps := parcelsOf w (wordBytes w / 4)
  nopParcels ++ nopParcels ++ nopParcels ++ nopParcels ++ (ps ++ List.replicate (8 - ps.length) 3) ++ exitBlock

/-- A kernel of one group with a text and 32 target tables. -/
def loadedKernel (text : List Word) : Kernel :=
  { text := text, data := [], regions := [], tables := List.replicate 32 [32], progs := [], argMask := 0, args8 := 0, pure_ := false, issue := .urg,
    depth := 16, cgroups := 1, cbudget := 1536, pgroups := 0, pbudget := 0, hash := 0, copyCharge := [], mmaCharge := 0, places := [], matrix := false,
    remote := false }

/-- The descriptor of a LOOSE launch on one core with the default windows (R338). -/
def loadedDescr : Descr :=
  { lstart := 0, lenergy := 0, ltime := 0, accby := 0, bblen := 0, bbbase := 0, plim := 1, slice := 1000, defw := true, sign := false, debug := false,
    fpen := 0, nr := 0, wo16 := 0, ws64 := 0, bws := 0, bwc := 0, prio := 0, loose := true, floor := 0, dies := 0, cores := 1, x := 1, y := 1, z := 1,
    args := 0, image := 0, mbz := false }

/-- A grid that runs a text on one core. -/
def loadedGrid (text : List Word) (core : Nat) : Grid :=
  { vi := 0, q := 0, qid := 1, tag := 0, kernel := loadedKernel text, descr := loadedDescr, argBlock := [], loose := true, terms := ⟨0, 0, 0, 0, 0, 0⟩,
    floor := 0, st := .running, cores := [core], started := 0, nextTile := 0, admitted := [], declared := [], traps := [], tcount := 0, events := [],
    excused := 0, pj := 0, pjJudged := 0, energy0 := [], coreNj := 0, saved := [], clock := [], req := none, hostReq := false, sliceEnd := none, pred := none,
    claimed := false, droop0 := [], retired := 0, remapped := none, need := [], owedHost := [], owedPeer := [], est := 0, accepted := 0,
    qdescr := none }

/-- A group whose lanes stand at a PC. -/
def loadedGroup (pc : Nat) : Group := { budget := 1536, lanes := (List.range 32).map fun l => (l, { pc := pc }) }

/-- A team of one group. -/
def loadedTeam (gid pc : Nat) : Team := { grid := gid, ngroups := 1, groups := [(0, loadedGroup pc)] }

/-- The state with a grid of one team on core 0, whose one group stands before the word of `w`; no other core works and no input waits. -/
def loadWord (s : State) (w : Nat) : State :=
  { s with inbox := [], cores := [(0, { teams := [(0, some (loadedTeam 0 32))] })], grids := [(0, some (loadedGrid (loadedText w) 0))] }

end Sys2Proof.Machine
end

