-- ==== Sys2Proof/Machine/Step.lean ====
section
/-! DEFINITION. One step of the machine: its next move. -/
namespace Sys2Proof.Machine

/-- One step: an issue, an event, an input, or the passing of a time unit (log entry 109). -/
def step (s : State) : Host.Outcome State Fault Refusal := move (nextMove s).1 (nextMove s).2

/-- The state in which `step` fetches and runs the instruction whose low `nbits` bits are `w` (log entry 1). -/
def State.withFetchWord (s : State) (nbits w : Nat) : State := loadWord s (w % 2 ^ nbits)

end Sys2Proof.Machine
end

