-- ==== Sys2Proof/Safety.lean ====
section
/-! DEFINITION. What counts as a safe run: every step answers a next state. And the frames in which statements say what an instruction leaves
alone. -/
namespace Sys2Proof.Safety

open Sys2Proof.Machine

/-- The machine goes on: the outcome is a next state, neither a fault nor a refusal. -/
def Continues (r : Host.Outcome State Fault Refusal) : Prop := ∃ t, r = .next t

/-- `t` follows from `s` by some number of steps. -/
inductive Reaches : State → State → Prop where
  | refl (s : State) : Reaches s s
  | step (s t u : State) (h : step s = .next t) (k : Reaches t u) : Reaches s u

/-- A safe run from `s`: whatever state follows, the machine goes on from it. -/
def SafeFrom (s : State) : Prop := ∀ t, Reaches s t → Continues (step t)

/-! ## Frames -/

/-- From `s` to `t` nothing changed outside the cores: no device register, no byte of global memory, no queue, no grid. -/
def SameDevice (s t : State) : Prop := { t with cores := s.cores } = s

/-- From `s` to `t` nothing changed but in core `k`. -/
structure OnlyCore (k : Nat) (s t : State) : Prop where
  device : SameDevice s t
  others : ∀ j, j ≠ k → getCore t j = getCore s j

/-- From `s` to `t` nothing changed but in the team in place `tx` of core `k`. -/
structure OnlyTeam (k tx : Nat) (s t : State) : Prop where
  core : OnlyCore k s t
  rest : { getCore t k with teams := (getCore s k).teams } = getCore s k
  others : ∀ j, j ≠ tx → teamAt (getCore t k) j = teamAt (getCore s k) j

/-- From `s` to `t` nothing changed but in group `g` of a team: no byte of its windows, no barrier, no reservation. -/
structure OnlyGroup (k tx g : Nat) (s t : State) : Prop where
  team : OnlyTeam k tx s t
  rest : { getTeam t k tx with groups := (getTeam s k tx).groups } = getTeam s k tx
  others : ∀ j, j ≠ g → getGroup t k tx j = getGroup s k tx j

/-- From `s` to `t` nothing changed but in some lanes of a group: no uniform register, no wait, no other lane. -/
structure OnlyLanes (k tx g : Nat) (ls : List Nat) (s t : State) : Prop where
  group : OnlyGroup k tx g s t
  rest : { getGroup t k tx g with lanes := (getGroup s k tx g).lanes } = getGroup s k tx g
  others : ∀ l, l ∉ ls → laneAt (getGroup t k tx g) l = laneAt (getGroup s k tx g) l

end Sys2Proof.Safety
end

