-- ==== Sys2Proof/Certificates/Slice0/Obligations.lean ====
section
/-! DEFINITION. The statements for the provers. Each is a closed proposition about `exec`, `step`, `decodeTableWord` or `State.reset`; the
definitions before them say, once, what a word or an event may change. -/
namespace Sys2Proof.Claims

open Sys2Proof.Machine Sys2Proof.Safety

/-- The outcome of an instruction. -/
abbrev Out := Host.Outcome State Fault Refusal

/-! ## Lanes and their registers -/

/-- Lane `l` of the issuing group. -/
def lane (s : State) (l : Nat) : Lane := laneAt (curGroup s) l

/-- A register of a lane, by its number in its file. -/
def vreg (m : Lane) (n : Fin 1536) : Word := Tbl.get 0 m.v n
def oreg (m : Lane) (n : Fin 32) : Word := Tbl.get 0 m.o n
def preg (m : Lane) (n : Fin 8) : Bool := m.p.getLsbD n

/-- A uniform register of the issuing group. -/
def greg (s : State) (n : Fin 128) : Word := Tbl.get 0 (curGroup s).g n

/-- A source in lane `l` of the issuing group (R110): 32 bits, and 64 bits. -/
def src (s : State) (a : Src) (l : Nat) : Word := readSrc (curGroup s) l a
def src64 (s : State) (a : Src) (l : Nat) : DWord := srcPair (curGroup s) l a
def spec (s : State) (a : Spec) (l : Nat) : Word := readSpec (curGroup s) l a
def spec64 (s : State) (a : Spec) (l : Nat) : DWord := readPair (curGroup s) l a

/-- Nothing changed but the issuing lanes. -/
def LanesOnly (s t : State) : Prop := OnlyLanes s.cur.core s.cur.tx s.cur.group (subLanes s) s t

/-- The last-result file has shifted once, with `x` (R48). -/
def Shifted (m m' : Lane) (x : Word) : Prop := m'.y0 = x ∧ m'.y1 = m.y0 ∧ m'.y2 = m.y1 ∧ m'.y3 = m.y2

/-- From `m` to `m'` nothing changed but v, o and last-result registers, flags and the PC. -/
def SameBeyondValues (m m' : Lane) : Prop :=
  { m' with v := m.v, o := m.o, y0 := m.y0, y1 := m.y1, y2 := m.y2, y3 := m.y3, ysh := m.ysh, flags := m.flags, pc := m.pc } = m

/-- A lane receives the 32-bit result `x` and the flags `fl`, and goes on to `pc`: register `d` holds `x` (the zero code holds nothing), the
last-result file shifts, flags are only set, and nothing else changes (R45, R48, R66, R95, R111). -/
structure Gets32 (m m' : Lane) (d : Spec) (x : Word) (fl : Flags) (pc : Nat) : Prop where
  v : ∀ n, vreg m' n = if d = .v n then x else vreg m n
  o : ∀ n, oreg m' n = if d = .o n then x else oreg m n
  y : Shifted m m' x
  flags : m'.flags = m.flags ||| fl.setWidth 32
  pc : m'.pc = pc
  rest : SameBeyondValues m m'

/-- A lane receives the 64-bit result `x`: the low word in `d`, the high word in the register after it, and one shift with the low word (R48, R50). -/
structure Gets64 (m m' : Lane) (d : Spec) (x : DWord) (fl : Flags) (pc : Nat) : Prop where
  v : ∀ n, vreg m' n = if specPlus d 1 = .v n then x.extractLsb' 32 32 else if d = .v n then x.extractLsb' 0 32 else vreg m n
  o : ∀ n, oreg m' n = if specPlus d 1 = .o n then x.extractLsb' 32 32 else if d = .o n then x.extractLsb' 0 32 else oreg m n
  y : Shifted m m' (x.extractLsb' 0 32)
  flags : m'.flags = m.flags ||| fl.setWidth 32
  pc : m'.pc = pc
  rest : SameBeyondValues m m'

/-- A lane receives the predicate `b` in `d`, where a write to p0 is discarded; nothing shifts (R45, R48). -/
structure GetsPred (m m' : Lane) (d : Spec) (b : Bool) (fl : Flags) (pc : Nat) : Prop where
  p : ∀ n, preg m' n = if d = .p n ∧ n ≠ 0 then b else preg m n
  flags : m'.flags = m.flags ||| fl.setWidth 32
  pc : m'.pc = pc
  rest : { m' with p := m.p, flags := m.flags, pc := m.pc } = m

/-- A guarded-off lane of a value instruction: the last-result file shifts with what the destination holds, 0 for the zero code (R48). -/
structure IdlesShifting (m m' : Lane) (d : Spec) (pc : Nat) : Prop where
  y : Shifted m m' (match d with | .v n => vreg m n | .o n => oreg m n | _ => 0)
  pc : m'.pc = pc
  rest : { m' with y0 := m.y0, y1 := m.y1, y2 := m.y2, y3 := m.y3, ysh := m.ysh, pc := m.pc } = m

/-- A lane changes in nothing but its PC. -/
def MovesTo (m m' : Lane) (pc : Nat) : Prop := m' = { m with pc := pc }

/-- A vector value word with a 32-bit result completes: every active lane receives its result and its flags, every other issuing lane idles, and
nothing else changes (R6, R86, R111, R126). -/
def Value32 (s : State) (r : Out) (g : Guard) (d : Spec) (x : Nat → Word) (fl : Nat → Flags) : Prop :=
  ∃ t, r = .next t ∧ LanesOnly s t ∧
    (∀ l ∈ active s g, Gets32 (lane s l) (lane t l) d (x l) (fl l) (curNext s)) ∧
    (∀ l ∈ subLanes s, l ∉ active s g → IdlesShifting (lane s l) (lane t l) d (curNext s))

/-- The same with a 64-bit result. -/
def Value64 (s : State) (r : Out) (g : Guard) (d : Spec) (x : Nat → DWord) (fl : Nat → Flags) : Prop :=
  ∃ t, r = .next t ∧ LanesOnly s t ∧
    (∀ l ∈ active s g, Gets64 (lane s l) (lane t l) d (x l) (fl l) (curNext s)) ∧
    (∀ l ∈ subLanes s, l ∉ active s g → IdlesShifting (lane s l) (lane t l) d (curNext s))

/-- The same with a predicate result: a guarded-off lane only goes on. -/
def ValuePred (s : State) (r : Out) (g : Guard) (d : Spec) (x : Nat → Bool) (fl : Nat → Flags) : Prop :=
  ∃ t, r = .next t ∧ LanesOnly s t ∧
    (∀ l ∈ active s g, GetsPred (lane s l) (lane t l) d (x l) (fl l) (curNext s)) ∧
    (∀ l ∈ subLanes s, l ∉ active s g → MovesTo (lane s l) (lane t l) (curNext s))

/-- No flags. -/
def quiet : Nat → Flags := fun _ => 0

end Sys2Proof.Claims

open Sys2Proof Sys2Proof.Machine Sys2Proof.Safety Sys2Proof.Claims

/-! ## Vector integer words -/

/-- R107, R110, R111, R112, R118: the sums, products, extrema, absolute value and byte dot product give every active lane the stated result in every operand form. IMULH is said by
the whole 64-bit product, and IADDS by its clamp. -/
def Obligations.IntegerWords : Prop :=
  (∀ (o : Ops) (n : Bool) (s : State),
    Value32 s (exec (.iadd o) s) o.g o.d (fun l => src s o.a l + src s o.b l) quiet ∧
    Value32 s (exec (.isub o) s) o.g o.d (fun l => src s o.a l - src s o.b l) quiet ∧
    Value32 s (exec (.imul o) s) o.g o.d (fun l => src s o.a l * src s o.b l) quiet ∧
    Value32 s (exec (.imulh o n) s) o.g o.d (fun l =>
      if n then ((src s o.a l).setWidth 64 * (src s o.b l).setWidth 64).extractLsb' 32 32
      else ((src s o.a l).signExtend 64 * (src s o.b l).signExtend 64).extractLsb' 32 32) quiet ∧
    Value32 s (exec (.imad o) s) o.g o.d (fun l => src s o.a l * src s o.b l + spec s o.c l) quiet ∧
    Value32 s (exec (.lea o) s) o.g o.d (fun l => src s o.a l + src s o.b l <<< ((spec s o.c l).extractLsb' 0 5).toNat) quiet ∧
    Value32 s (exec (.iadds o n) s) o.g o.d (fun l =>
      let a := src s o.a l
      let b := src s o.b l
      if n then (if 2 ^ 32 ≤ a.toNat + b.toNat then 0xFFFFFFFF else a + b)
      else if 2 ^ 31 ≤ a.toInt + b.toInt then 0x7FFFFFFF else if a.toInt + b.toInt < -2 ^ 31 then 0x80000000 else a + b) quiet) ∧
  (∀ (o : Ops) (n nb : Bool) (s : State),
    let less := fun (a b : Word) => if n then a.toNat < b.toNat else a.toInt < b.toInt
    let byte := fun (unsigned : Bool) (x : Word) (j : Nat) =>
      if unsigned then ((x.extractLsb' (8 * j) 8).setWidth 32 : Word) else ((x.extractLsb' (8 * j) 8).signExtend 32 : Word)
    Value32 s (exec (.imin o n) s) o.g o.d (fun l => if less (src s o.b l) (src s o.a l) then src s o.b l else src s o.a l) quiet ∧
    Value32 s (exec (.imax o n) s) o.g o.d (fun l => if less (src s o.a l) (src s o.b l) then src s o.b l else src s o.a l) quiet ∧
    Value32 s (exec (.iabs o) s) o.g o.d (fun l => BitVec.ofNat 32 (src s o.a l).toInt.natAbs) quiet ∧
    Value32 s (exec (.idot4 o n nb) s) o.g o.d (fun l =>
      let term := fun j => byte n (src s o.a l) j * byte nb (src s o.b l) j
      term 0 + term 1 + term 2 + term 3 + spec s o.c l) quiet)

/-- R112, R116: the logic words, SEL, MOV and MOVI in every active lane, bit by bit. -/
def Obligations.LogicAndMoves : Prop := ∀ (o : Ops) (i : Word) (s : State),
  Value32 s (exec (.and o) s) o.g o.d (fun l => src s o.a l &&& src s o.b l) quiet ∧
  Value32 s (exec (.or o) s) o.g o.d (fun l => src s o.a l ||| src s o.b l) quiet ∧
  Value32 s (exec (.xor o) s) o.g o.d (fun l => src s o.a l ^^^ src s o.b l) quiet ∧
  Value32 s (exec (.andn o) s) o.g o.d (fun l => src s o.a l &&& ~~~src s o.b l) quiet ∧
  Value32 s (exec (.not o) s) o.g o.d (fun l => ~~~src s o.a l) quiet ∧
  Value32 s (exec (.sel o) s) o.g o.d (fun l =>
    if (match o.c with | .p n => preg (lane s l) n | _ => false) then src s o.a l else src s o.b l) quiet ∧
  Value32 s (exec (.mov o) s) o.g o.d (fun l => src s o.a l) quiet ∧
  Value32 s (exec (.movi o.g o.d i) s) o.g o.d (fun _ => i) quiet

/-- R89, R112, R113: the shifts count only bits [4:0]; BFX and BFI take pos and len from their control word and cut the field at bit 31; POPC counts the set bits; CLZ counts the
leading zero bits, 32 for 0; bit i of BREV's source moves to bit 31 − i. -/
def Obligations.ShiftAndBitWords : Prop :=
  (∀ (o : Ops) (n : Bool) (s : State),
    let cnt := fun l => (src s o.b l).toNat % 32
    let pos := fun l => ((src s o.b l).extractLsb' 0 5).toNat
    let len := fun l => min ((src s o.b l).extractLsb' 8 6).toNat (32 - pos l)
    Value32 s (exec (.shl o) s) o.g o.d (fun l => src s o.a l <<< cnt l) quiet ∧
    Value32 s (exec (.shr o) s) o.g o.d (fun l => src s o.a l >>> cnt l) quiet ∧
    Value32 s (exec (.sha o) s) o.g o.d (fun l => (src s o.a l).sshiftRight (cnt l)) quiet ∧
    Value32 s (exec (.rot o) s) o.g o.d (fun l => (src s o.a l <<< cnt l) ||| (src s o.a l >>> (32 - cnt l))) quiet ∧
    Value32 s (exec (.bfx o n) s) o.g o.d (fun l =>
      let f := (src s o.a l).extractLsb' (pos l) (len l)
      if n then f.setWidth 32 else f.signExtend 32) quiet ∧
    Value32 s (exec (.bfi o) s) o.g o.d (fun l =>
      let mask : Word := BitVec.ofNat 32 (2 ^ len l - 1) <<< pos l
      (spec s o.c l &&& ~~~mask) ||| (src s o.a l <<< pos l &&& mask)) quiet) ∧
  (∀ (o : Ops) (s : State),
    Value32 s (exec (.popc o) s) o.g o.d (fun l =>
      BitVec.ofNat 32 ((List.range 32).filter fun i => (src s o.a l).getLsbD i).length) quiet ∧
    Value32 s (exec (.clz o) s) o.g o.d (fun l =>
      BitVec.ofNat 32 ((List.range 32).takeWhile fun i => !(src s o.a l).getMsbD i).length) quiet ∧
    Value32 s (exec (.brev o) s) o.g o.d (fun l => (src s o.a l).reverse) quiet)

/-- R114, R115: ISET, ISET64 and PSET write the predicate of every active lane, p0 and the zero code excepted; nothing shifts. -/
def Obligations.PredicateWords : Prop := ∀ (o : Ops) (k : Cmp) (n : Bool) (s : State),
  let holds := fun (a b : Int) => match k with
    | .eq => decide (a = b) | .ne => decide (a ≠ b) | .lt => decide (a < b) | .le => decide (a ≤ b) | .gt => decide (b < a) | .ge => decide (b ≤ a)
  let pv := fun (x : Spec) l => match x with | .p n => preg (lane s l) n | _ => false
  ValuePred s (exec (.iset o k n) s) o.g o.d (fun l =>
    if n then holds (src s o.a l).toNat (src s o.b l).toNat else holds (src s o.a l).toInt (src s o.b l).toInt) quiet ∧
  ValuePred s (exec (.iset64 o k n) s) o.g o.d (fun l =>
    if n then holds (src64 s o.a l).toNat (src64 s o.b l).toNat else holds (src64 s o.a l).toInt (src64 s o.b l).toInt) quiet ∧
  ValuePred s (exec (.pset o) s) o.g o.d (fun l =>
    (spec s o.c l).getLsbD ((pv o.a.spec l).toNat + 2 * (pv o.b.spec l).toNat)) quiet

/-- R50, R89, R115: the 64-bit words over pairs, in every active lane; the shift count is a 32-bit source of which bits [5:0] count. -/
def Obligations.WideIntegerWords : Prop := ∀ (o : Ops) (n : Bool) (s : State),
  Value64 s (exec (.iadd64 o) s) o.g o.d (fun l => src64 s o.a l + src64 s o.b l) quiet ∧
  Value64 s (exec (.isub64 o) s) o.g o.d (fun l => src64 s o.a l - src64 s o.b l) quiet ∧
  Value64 s (exec (.imad64 o) s) o.g o.d (fun l => src64 s o.a l * src64 s o.b l + spec64 s o.c l) quiet ∧
  Value64 s (exec (.shl64 o) s) o.g o.d (fun l => src64 s o.a l <<< ((src s o.b l).toNat % 64)) quiet ∧
  Value64 s (exec (.shr64 o n) s) o.g o.d (fun l =>
    if n then src64 s o.a l >>> ((src s o.b l).toNat % 64) else (src64 s o.a l).sshiftRight ((src s o.b l).toNat % 64)) quiet

namespace Sys2Proof.Claims

/-! ## Words that act once for the group -/

/-- Nothing happens but that the issuing lanes go on to the next PC. -/
def GoesOn (s t : State) : Prop := LanesOnly s t ∧ ∀ l ∈ subLanes s, MovesTo (lane s l) (lane t l) (curNext s)

/-- A word that acts once for the group completes: with no active lane it only goes on (R6, R119); else its outcome is as said. -/
def GroupOnce (s : State) (r : Out) (g : Guard) (p : List Nat → State → Prop) : Prop :=
  ∃ t, r = .next t ∧ (active s g = [] → GoesOn s t) ∧ (active s g ≠ [] → p (active s g) t)

/-- A uniform register holds `x`, the issuing lanes go on, and nothing else changes; the zero code holds nothing (R66, R119). -/
structure GroupGets (s t : State) (d : Spec) (x : Word) : Prop where
  frame : OnlyGroup s.cur.core s.cur.tx s.cur.group s t
  g : ∀ n, greg t n = if d = .g n then x else greg s n
  lanes : ∀ l ∈ subLanes s, MovesTo (lane s l) (lane t l) (curNext s)
  others : ∀ l, l ∉ subLanes s → lane t l = lane s l
  rest : { curGroup t with g := (curGroup s).g, lanes := (curGroup s).lanes } = curGroup s

/-- One trap record joins the core's table and the grid's count, with the cause `c` and the lanes `bad`; outside the issuing group nothing else
changes (R381, R383, R384, R387). -/
structure Recorded (s t : State) (bad : List Nat) (c : Cause) : Prop where
  record : ∃ i, freeTrap (curCore s) = some i ∧ Tbl.get none (curCore t).traps i = some
    { tick := tick s, aux := c.aux, mask := maskOf bad, pc := s.cur.pc, detail := c.detail, code := c.code, pslot := c.pslot,
      group := s.cur.group, teamx := s.cur.tx, core := s.cur.core,
      qid := match teamGrid s (curTeam s) with | some gr => gr.qid | none => 0, islot := (curGroup s).slot } ∧
    ∀ j, j ≠ i → Tbl.get none (curCore t).traps j = Tbl.get none (curCore s).traps j
  counted : ∀ gr, getGrid s (curTeam s).grid = some gr → s.cur.tx ≠ 2 → ∃ gr', getGrid t (curTeam s).grid = some gr' ∧
    gr'.tcount = gr.tcount + 1 ∧ gr'.traps.length = gr.traps.length + 1 ∧
    { gr' with tcount := gr.tcount, traps := gr.traps, events := gr.events } = gr
  groups : ∀ j, j ≠ s.cur.group → getGroup t s.cur.core s.cur.tx j = getGroup s s.cur.core s.cur.tx j
  team : { curTeam t with groups := (curTeam s).groups } = curTeam s
  teams : ∀ j, j ≠ s.cur.tx → teamAt (curCore t) j = teamAt (curCore s) j
  core : { curCore t with teams := (curCore s).teams, traps := (curCore s).traps } = curCore s
  cores : ∀ j, j ≠ s.cur.core → getCore t j = getCore s j
  device : { t with cores := s.cores, grids := s.grids } = s

/-- The active lanes leave as a parked sub-group under one record and the other issuing lanes go on (R86, R385). -/
structure Parks (s t : State) (act : List Nat) (c : Cause) : Prop where
  parked : ∀ l ∈ act, lane t l = { lane s l with st := .parked }
  others : ∀ l ∈ subLanes s, l ∉ act → MovesTo (lane s l) (lane t l) (curNext s)
  lanes : ∀ l, l ∉ subLanes s → l ∉ act → lane t l = lane s l
  group : { curGroup t with lanes := (curGroup s).lanes } = curGroup s
  recorded : Recorded s t act c

/-- A uniform source (R119). -/
def usr (s : State) (a : Src) : Word := readSrc (curGroup s) 0 a
def usp (s : State) (a : Spec) : Word := readSpec (curGroup s) 0 a

/-- A uniform value word (R119, R120). -/
def Uniform (s : State) (r : Out) (g : Guard) (d : Spec) (x : Word) : Prop := GroupOnce s r g fun _ t => GroupGets s t d x

/-- The byte of the issuing team's scratchpad at `a`, and its word there, little-endian (R1, R207). -/
def spByte (s : State) (a : Nat) : Byte := Tbl.get 0 (curTeam s).sp a
def spWord (s : State) (a : Nat) : Word := spByte s (a + 3) ++ spByte s (a + 2) ++ spByte s (a + 1) ++ spByte s a

/-- Whether the launch of the issuing team enables debugging, which arms watchpoints (R157, R440). -/
def debugging (s : State) : Bool := match curGrid s with | some g => g.descr.debug | none => false

/-- The alignment and window check of R213, in its order, for `n` bytes of a window of `w` bytes. -/
def accessCause (n w a : Nat) : Option TrapCode := if a % n ≠ 0 then some .misalign else if w < a + n then some .bounds else none

end Sys2Proof.Claims

/-! ## Uniform words -/

/-- R119, R120, R121, R122, R213: the uniform words act once for the group: their g destination holds the stated value, broadcast from the g sources; GRD reads the register of the lane
that the low five bits name; GLD and GST access one scratchpad word, MISALIGN before BOUNDS. No watchpoint is armed where debugging is off. -/
def Obligations.UniformWords : Prop :=
  (∀ (o : Ops) (n : Bool) (k : Cmp) (i : Word) (s : State),
    let a := usr s o.a
    let b := usr s o.b
    let c := usp s o.c
    let cnt := b.toNat % 32
    let less := fun (x y : Word) => if n then x.toNat < y.toNat else x.toInt < y.toInt
    let cmp := fun (x y : Int) => match k with
      | .eq => decide (x = y) | .ne => decide (x ≠ y) | .lt => decide (x < y) | .le => decide (x ≤ y) | .gt => decide (y < x) | .ge => decide (y ≤ x)
    Uniform s (exec (.gadd o) s) o.g o.d (a + b) ∧
    Uniform s (exec (.gsub o) s) o.g o.d (a - b) ∧
    Uniform s (exec (.gmul o) s) o.g o.d (a * b) ∧
    Uniform s (exec (.gmad o) s) o.g o.d (a * b + c) ∧
    Uniform s (exec (.gand o) s) o.g o.d (a &&& b) ∧
    Uniform s (exec (.gor o) s) o.g o.d (a ||| b) ∧
    Uniform s (exec (.gxor o) s) o.g o.d (a ^^^ b) ∧
    Uniform s (exec (.gshl o) s) o.g o.d (a <<< cnt) ∧
    Uniform s (exec (.gshr o n) s) o.g o.d (if n then a >>> cnt else a.sshiftRight cnt) ∧
    Uniform s (exec (.gmin o n) s) o.g o.d (if less b a then b else a) ∧
    Uniform s (exec (.gmax o n) s) o.g o.d (if less a b then b else a) ∧
    Uniform s (exec (.gset o k n) s) o.g o.d (if (if n then cmp a.toNat b.toNat else cmp a.toInt b.toInt) then 1 else 0) ∧
    Uniform s (exec (.gsel o) s) o.g o.d (if c = 0 then b else a) ∧
    Uniform s (exec (.gmov o) s) o.g o.d a ∧
    Uniform s (exec (.gmovi o.g o.d i) s) o.g o.d i ∧
    Uniform s (exec (.grd o) s) o.g o.d (src s o.a cnt)) ∧
  (∀ (o : Ops) (s : State), debugging s = false → (freeTrap (curCore s)).isSome →
    let a := (usr s o.a + usr s o.b).toNat
    GroupOnce s (exec (.gld o) s) o.g (fun act t => match accessCause 4 (curWS s) a with
      | some code => Parks s t act ⟨code, 0, BitVec.ofNat 32 a, 0⟩
      | none => GroupGets s t o.d (spWord s a)) ∧
    GroupOnce s (exec (.gst o) s) o.g (fun act t => match accessCause 4 (curWS s) a with
      | some code => Parks s t act ⟨code, 0, BitVec.ofNat 32 a, 0⟩
      | none =>
        OnlyTeam s.cur.core s.cur.tx s t ∧ spWord t a = usp s o.c ∧ (∀ b, b < a ∨ a + 4 ≤ b → spByte t b = spByte s b) ∧
        (∀ l ∈ subLanes s, MovesTo (lane s l) (lane t l) (curNext s)) ∧ (∀ l, l ∉ subLanes s → lane t l = lane s l) ∧
        (∀ j, j ≠ s.cur.group → groupAt (curTeam t) j = groupAt (curTeam s) j) ∧
        { curGroup t with lanes := (curGroup s).lanes } = curGroup s ∧
        { curTeam t with sp := (curTeam s).sp, groups := (curTeam s).groups } = curTeam s))

/-- R381, R383, R385, R156, R157: TRAP takes the exception: ILLEGAL with detail 9 and its code for the active lanes; BKPT takes BKPT where the launch
enables debugging, and is a NOP where it does not. -/
def Obligations.TrapAndBreakpointWords : Prop := ∀ (g : Guard) (a : Spec) (s : State), (freeTrap (curCore s)).isSome →
  GroupOnce s (exec (.trap g a) s) g (fun act t => Parks s t act ⟨.illegal, 9, usp s a &&& 0xFFFF, 0⟩) ∧
  GroupOnce s (exec (.bkpt g) s) g (fun act t => if debugging s then Parks s t act ⟨.bkpt, 0, 0, 0⟩ else GoesOn s t)

namespace Sys2Proof.Claims

/-! ## F32 values, from R90 alone -/

def isNan32 (x : Word) : Bool := x.extractLsb' 23 8 == 255 && x.extractLsb' 0 23 != 0
def isSig32 (x : Word) : Bool := isNan32 x && !x.getLsbD 22
def isFin32 (x : Word) : Bool := x.extractLsb' 23 8 != 255
def isSub32 (x : Word) : Bool := x.extractLsb' 23 8 == 0 && x.extractLsb' 0 23 != 0

/-- A subnormal input read as a zero of its sign under FTZ (R92). -/
def flush32 (ftz : Bool) (x : Word) : Word := if ftz && isSub32 x then x &&& 0x80000000 else x

/-- The value of finite bits in units of 2^-149; beyond every finite value for an infinity. -/
def value32 (x : Word) : Int :=
  let e := (x.extractLsb' 23 8).toNat
  let m := (x.extractLsb' 0 23).toNat
  let v : Int := if e = 0 then m else (2 ^ 23 + m) * 2 ^ (e - 1)
  if x.msb then -v else v

/-- The correct rounding of R91: `x` is the F32 result of the exact value `E`, in units of 2^-(298 + j), in a rounding direction. -/
def RoundedBy (j : Nat) (r : Rnd) (E : Int) (x : Word) : Prop :=
  let v := fun (w : Word) => value32 w * 2 ^ (149 + j)
  let near := fun (w : Word) => (E - v w).natAbs
  match r with
  | .rn =>
    if (2 ^ 25 - 1) * 2 ^ (103 + 298 + j) ≤ E.natAbs then x = (if E < 0 then 0xFF800000 else 0x7F800000)
    else isFin32 x ∧ ∀ w, isFin32 w → near x ≤ near w ∧ (near x = near w → v w ≠ v x → x.getLsbD 0 = false)
  | .rz => isFin32 x ∧ (v x).natAbs ≤ E.natAbs ∧ 0 ≤ v x * E ∧ ∀ w, isFin32 w → (v w).natAbs ≤ E.natAbs → (v w).natAbs ≤ (v x).natAbs
  | .rd => if isFin32 x then v x ≤ E ∧ ∀ w, isFin32 w → v w ≤ E → v w ≤ v x else x = 0xFF800000 ∧ ∀ w, isFin32 w → E < v w
  | .ru => if isFin32 x then E ≤ v x ∧ ∀ w, isFin32 w → E ≤ v w → v x ≤ v w else x = 0x7F800000 ∧ ∀ w, isFin32 w → v w < E

/-- The same in units of 2^-298. -/
def Rounded32 (r : Rnd) (E : Int) (x : Word) : Prop := RoundedBy 0 r E x

/-- The integer to which E / 2^k rounds in a direction. -/
def RoundsTo (r : Rnd) (E : Int) (k : Nat) (n : Int) : Prop :=
  let one : Int := 2 ^ k
  match r with
  | .rn => 2 * (E - n * one).natAbs ≤ 2 ^ k ∧ (2 * (E - n * one).natAbs = 2 ^ k → n % 2 = 0)
  | .rz => (n * one).natAbs ≤ E.natAbs ∧ E.natAbs < (n * one).natAbs + 2 ^ k ∧ 0 ≤ n * E
  | .rd => n * one ≤ E ∧ E < (n + 1) * one
  | .ru => E ≤ n * one ∧ (n - 1) * one < E

/-- A result with its flags. -/
def bits32 (x : FRes) : Word := BitVec.ofNat 32 x.1
def bits64 (x : FRes) : DWord := BitVec.ofNat 64 x.1

/-- A floating-point word completes where no active lane raises a flag that its launch enables (R96). -/
def Float32 (s : State) (r : Out) (g : Guard) (d : Spec) (x : Nat → FRes) : Prop :=
  (∀ l ∈ active s g, (x l).2 &&& (curFpen s).setWidth 6 = 0) → Value32 s r g d (fun l => bits32 (x l)) (fun l => (x l).2)

def Float64 (s : State) (r : Out) (g : Guard) (d : Spec) (x : Nat → FRes) : Prop :=
  (∀ l ∈ active s g, (x l).2 &&& (curFpen s).setWidth 6 = 0) → Value64 s r g d (fun l => bits64 (x l)) (fun l => (x l).2)

def FloatPred (s : State) (r : Out) (g : Guard) (d : Spec) (x : Nat → Bool × Flags) : Prop :=
  (∀ l ∈ active s g, (x l).2 &&& (curFpen s).setWidth 6 = 0) → ValuePred s r g d (fun l => (x l).1) (fun l => (x l).2)

/-- The order of R94 on non-NaN bits: −0 is less than +0. -/
def below32 (a b : Word) : Bool := decide (value32 a < value32 b) || (value32 a == value32 b && a.msb && !b.msb)

end Sys2Proof.Claims

/-! ## Floating-point words -/

/-- R92, R126, R127, R142: the F32 arithmetic words complete with the rounded results and flags of the format rules, where no enabled flag is raised. What FADD,
FSUB, FMUL and FFMA give is said by FusedResultsAreCorrectlyRounded and NanResultsAreTheDefaultNan. FRND gives the integer to which its operand rounds in the direction of RND, with
its sign and no flag; FSCALE gives the exact a · 2^n rounded once, with the sign of a, NX exactly where it differs, and a zero with UF and NX where FTZ flushes it; both keep an infinity and
make a NaN the default NaN, with NV for a signalling one. -/
def Obligations.SinglePrecisionWords : Prop := ∀ (o : Ops) (r : Rnd) (z : Bool) (s : State),
  let a := fun l => (src s o.a l).toNat
  let b := fun l => (src s o.b l).toNat
  let c := fun l => (spec s o.c l).toNat
  Float32 s (exec (.fadd o r z) s) o.g o.d (fun l => FFmt.f32.add r z (a l) (b l)) ∧
  Float32 s (exec (.fsub o r z) s) o.g o.d (fun l => FFmt.f32.sub r z (a l) (b l)) ∧
  Float32 s (exec (.fmul o r z) s) o.g o.d (fun l => FFmt.f32.mul r z (a l) (b l)) ∧
  Float32 s (exec (.ffma o r z) s) o.g o.d (fun l => FFmt.f32.fma r z (a l) (b l) (c l)) ∧
  Float32 s (exec (.frnd o r z) s) o.g o.d (fun l => FFmt.f32.integral r z (a l)) ∧
  Float32 s (exec (.fscale o r z) s) o.g o.d (fun l => FFmt.f32.scale r z (a l) (src s o.b l).toInt) ∧
  ∀ (x : Word) (n : Int),
    let y := flush32 z x
    let rnd := FFmt.f32.integral r z x.toNat
    let scale := FFmt.f32.scale r z x.toNat n
    let kept := FFmt.f32.scale r false y.toNat n
    let j := (-149 - n).toNat
    let E := value32 y * 2 ^ (149 + n).toNat
    (isNan32 x → ∀ f ∈ [rnd, scale], bits32 f = 0x7FC00000 ∧ f.2 = if isSig32 x then 16 else 0) ∧
    (!isFin32 x && !isNan32 x → ∀ f ∈ [rnd, scale], bits32 f = x ∧ f.2 = 0) ∧
    (isFin32 x → isFin32 (bits32 rnd) = true ∧ (bits32 rnd).msb = x.msb ∧ rnd.2 = 0 ∧
      ∀ m, RoundsTo r (value32 y) 149 m → value32 (bits32 rnd) = m * 2 ^ 149) ∧
    (isFin32 x → RoundedBy j r E (bits32 kept) ∧ (bits32 kept).msb = x.msb ∧
      (kept.2.getLsbD 0 = true ↔ ¬(isFin32 (bits32 kept) = true ∧ value32 (bits32 kept) * 2 ^ (149 + j) = E)) ∧
      if z && isSub32 (bits32 kept) then bits32 scale = bits32 kept &&& 0x80000000 ∧ scale.2 = 3 else scale = kept)

/-- R91: on finite operands and without FTZ, the results of FADD, FSUB, FMUL and FFMA are the exact value rounded once: to the nearest value with ties to
even, toward zero, or to the next value on the side of the direction; and NX is set exactly where the result differs from the exact value (R95). -/
def Obligations.FusedResultsAreCorrectlyRounded : Prop := ∀ (r : Rnd) (a b c : Word),
  isFin32 a → isFin32 b → isFin32 c →
  let ok := fun (x : FRes) (E : Int) => Rounded32 r E (bits32 x) ∧
    (x.2.getLsbD 0 = true ↔ ¬(isFin32 (bits32 x) = true ∧ value32 (bits32 x) * 2 ^ 149 = E))
  ok (FFmt.f32.add r false a.toNat b.toNat) ((value32 a + value32 b) * 2 ^ 149) ∧
  ok (FFmt.f32.sub r false a.toNat b.toNat) ((value32 a - value32 b) * 2 ^ 149) ∧
  ok (FFmt.f32.mul r false a.toNat b.toNat) (value32 a * value32 b) ∧
  ok (FFmt.f32.fma r false a.toNat b.toNat c.toNat) (value32 a * value32 b + value32 c * 2 ^ 149)

/-- R90, R93: a NaN operand of FADD, FSUB, FMUL or FFMA gives the default NaN, whatever its payload and sign; NV is set by a signalling NaN, by ∞ − ∞, and by
0 × ∞ even beside a quiet NaN addend. -/
def Obligations.NanResultsAreTheDefaultNan : Prop := ∀ (r : Rnd) (z : Bool) (a b c : Word),
  let inf := fun (x : Word) => !isFin32 x && !isNan32 x
  let zero := fun (x : Word) => value32 (flush32 z x) == 0
  let sig := isSig32 a || isSig32 b
  let add := FFmt.f32.add r z a.toNat b.toNat
  let sub := FFmt.f32.sub r z a.toNat b.toNat
  let mul := FFmt.f32.mul r z a.toNat b.toNat
  let fma := FFmt.f32.fma r z a.toNat b.toNat c.toNat
  let zi := (inf a && zero b) || (zero a && inf b)
  ((isNan32 a || isNan32 b || (inf a && inf b && a.msb != b.msb)) → bits32 add = 0x7FC00000) ∧
  ((isNan32 a || isNan32 b || (inf a && inf b && a.msb == b.msb)) → bits32 sub = 0x7FC00000) ∧
  ((isNan32 a || isNan32 b || zi) → bits32 mul = 0x7FC00000) ∧
  ((isNan32 a || isNan32 b || isNan32 c || zi) → bits32 fma = 0x7FC00000) ∧
  add.2.getLsbD 4 = (sig || (inf a && inf b && a.msb != b.msb)) ∧
  sub.2.getLsbD 4 = (sig || (inf a && inf b && a.msb == b.msb)) ∧
  mul.2.getLsbD 4 = (sig || zi) ∧
  ((isNan32 c || zi) → fma.2.getLsbD 4 = (sig || isSig32 c || zi))

/-- R92, R94, R128, R129: FMIN, FMAX, FSET and FCLASS complete with results read from the F32 values: −0 is less than +0 in FMIN and FMAX and equal to it in
FSET; a NaN yields the other operand or, with PROP, the default NaN; only a signalling NaN raises NV; and FCLASS is one-hot, with no flush and no flag. -/
def Obligations.MinMaxCompareAndClassOfF32 : Prop := ∀ (o : Ops) (p z : Bool) (k : FCmp) (s : State),
  let a := fun l => flush32 z (src s o.a l)
  let b := fun l => flush32 z (src s o.b l)
  let nv := fun l => if isSig32 (a l) || isSig32 (b l) then (16 : Flags) else 0
  let pick := fun (first : Nat → Bool) l =>
    if isNan32 (a l) && isNan32 (b l) then 0x7FC00000
    else if isNan32 (a l) then (if p then 0x7FC00000 else b l)
    else if isNan32 (b l) then (if p then 0x7FC00000 else a l)
    else if first l then a l else b l
  let un := fun l => isNan32 (a l) || isNan32 (b l)
  let x := fun l => value32 (a l)
  let y := fun l => value32 (b l)
  let quietly := ∀ l ∈ active s o.g, nv l &&& (curFpen s).setWidth 6 = 0
  (quietly → Value32 s (exec (.fmin o p z) s) o.g o.d (pick fun l => !below32 (b l) (a l)) nv) ∧
  (quietly → Value32 s (exec (.fmax o p z) s) o.g o.d (pick fun l => !below32 (a l) (b l)) nv) ∧
  (quietly → ValuePred s (exec (.fset o k z) s) o.g o.d (fun l => match k with
    | .eq => !un l && x l == y l | .ne => un l || x l != y l | .lt => !un l && decide (x l < y l) | .le => !un l && decide (x l ≤ y l)
    | .gt => !un l && decide (y l < x l) | .ge => !un l && decide (y l ≤ x l) | .num => !un l | .nan => un l) nv) ∧
  Value32 s (exec (.fclass o) s) o.g o.d (fun l =>
    let w := src s o.a l
    let n := w.msb
    if isSig32 w then 0x100 else if isNan32 w then 0x200
    else if !isFin32 w then (if n then 1 else 0x80)
    else if value32 w = 0 then (if n then 8 else 0x10)
    else if isSub32 w then (if n then 4 else 0x20) else (if n then 2 else 0x40)) quiet

/-- R91, R107, R128, R130, R131, R132: the F64 words over pairs complete with the results of the same rules over F64; the packed words work on each 16-bit half on its own in the
format that BF selects and OR the flags; FDOT2 sums its two products and the F32 addend exactly and rounds once. The sign of a zero sum in FDOT2 is the model's own
choice (log entry 131). -/
def Obligations.DoubleAndPackedWords : Prop :=
  (∀ (o : Ops) (r : Rnd) (p z : Bool) (k : FCmp) (s : State),
    let a := fun l => (src64 s o.a l).toNat
    let b := fun l => (src64 s o.b l).toNat
    let c := fun l => (spec64 s o.c l).toNat
    Float64 s (exec (.dadd o r z) s) o.g o.d (fun l => FFmt.f64.add r z (a l) (b l)) ∧
    Float64 s (exec (.dmul o r z) s) o.g o.d (fun l => FFmt.f64.mul r z (a l) (b l)) ∧
    Float64 s (exec (.dfma o r z) s) o.g o.d (fun l => FFmt.f64.fma r z (a l) (b l) (c l)) ∧
    Float64 s (exec (.dmin o p z) s) o.g o.d (fun l => FFmt.f64.minmax false p z (a l) (b l)) ∧
    Float64 s (exec (.dmax o p z) s) o.g o.d (fun l => FFmt.f64.minmax true p z (a l) (b l)) ∧
    FloatPred s (exec (.dset o k z) s) o.g o.d (fun l => FFmt.f64.compare k z (a l) (b l))) ∧
  (∀ (o : Ops) (bf p z : Bool) (r : Rnd) (s : State),
    let f := if bf then FFmt.bf16 else FFmt.f16
    let half := fun (x : Word) (j : Nat) => (x.extractLsb' (16 * j) 16).toNat
    let a := fun l => half (src s o.a l)
    let b := fun l => half (src s o.b l)
    let c := fun l => half (spec s o.c l)
    let both := fun (h : Nat → FRes) => (((h 1).1 % 2 ^ 16 * 2 ^ 16 + (h 0).1 % 2 ^ 16, (h 0).2 ||| (h 1).2) : FRes)
    Float32 s (exec (.hadd2 o bf r z) s) o.g o.d (fun l => both fun j => f.add r z (a l j) (b l j)) ∧
    Float32 s (exec (.hmul2 o bf r z) s) o.g o.d (fun l => both fun j => f.mul r z (a l j) (b l j)) ∧
    Float32 s (exec (.hfma2 o bf r z) s) o.g o.d (fun l => both fun j => f.fma r z (a l j) (b l j) (c l j)) ∧
    Float32 s (exec (.hmin2 o bf p z) s) o.g o.d (fun l => both fun j => f.minmax false p z (a l j) (b l j)) ∧
    Float32 s (exec (.hmax2 o bf p z) s) o.g o.d (fun l => both fun j => f.minmax true p z (a l j) (b l j)) ∧
    Float32 s (exec (.fdot2 o bf r z) s) o.g o.d (fun l =>
      let v := fun (x : Nat) => f.num (f.flushIn z x)
      FFmt.f32.sumOf r z [(v (a l 0), v (b l 0)), (v (a l 1), v (b l 1))] [FFmt.f32.num (FFmt.f32.flushIn z (spec s o.c l).toNat)]))

namespace Sys2Proof.Claims

/-! ## Integers and narrow elements, from R88 and R98 to R100 alone -/

def isInt (t : Ty) : Bool := match t with | .i8 | .i16 | .i32 | .n8 | .n16 | .n32 => true | _ => false

/-- The integer that a type reads in a register (R88, R135). -/
def intIn (t : Ty) (x : Word) : Int :=
  match t with
  | .i8 => (x.extractLsb' 0 8).toInt | .i16 => (x.extractLsb' 0 16).toInt | .n8 => (x.extractLsb' 0 8).toNat | .n16 => (x.extractLsb' 0 16).toNat
  | .n32 => x.toNat | _ => x.toInt

/-- An integer as a type leaves it in a register: wrapped to the type, then extended. -/
def intOut (t : Ty) (v : Int) : Word :=
  match t with
  | .i8 => (BitVec.ofInt 8 v).signExtend 32 | .i16 => (BitVec.ofInt 16 v).signExtend 32 | .n8 => (BitVec.ofInt 8 v).setWidth 32
  | .n16 => (BitVec.ofInt 16 v).setWidth 32 | _ => BitVec.ofInt 32 v

/-- The ends of an integer type. -/
def least (t : Ty) : Int := match t with | .i8 => -128 | .i16 => -32768 | .i32 => -2147483648 | _ => 0
def most (t : Ty) : Int := match t with | .i8 => 127 | .i16 => 32767 | .i32 => 2147483647 | .n8 => 255 | .n16 => 65535 | _ => 4294967295

/-- The indefinite value (R97): the most negative value, or all ones. -/
def indef (t : Ty) : Int := if least t = 0 then most t else least t

/-- The value of F64 bits in units of 2^-1074. -/
def value64 (x : DWord) : Int :=
  let e := (x.extractLsb' 52 11).toNat
  let m := (x.extractLsb' 0 52).toNat
  let v : Int := if e = 0 then m else (2 ^ 52 + m) * 2 ^ (e - 1)
  if x.msb then -v else v

/-- The fields of a narrow descriptor (R98). -/
def widthOf (d : Word) : Nat := match (d.extractLsb' 17 2).toNat with | 0 => 4 | 1 => 6 | _ => 8
def mantOf (d : Word) : Nat := (d.extractLsb' 4 3).toNat
def expOf (d : Word) : Nat := (d.extractLsb' 1 3).toNat
def biasOf (d : Word) : Nat := (d.extractLsb' 7 8).toNat

/-- A descriptor that R99 does not make illegal. -/
def legalFmt (d : Word) : Bool :=
  d.extractLsb' 20 12 == 0 && d.extractLsb' 17 2 != 3 && d.extractLsb' 15 2 != 3 &&
    (d.extractLsb' 0 1).toNat + expOf d + mantOf d == widthOf d && !(expOf d == 0 && (biasOf d != 0 || d.extractLsb' 15 2 != 0))

/-- The value of an element code in units of 2^-298, none for a NaN or an infinity (R100). -/
def narrowVal (d x : Word) : Option Int :=
  let w := widthOf d
  let code := x.toNat % 2 ^ w
  let neg := d.getLsbD 0 && x.getLsbD (w - 1)
  if expOf d = 0 then some (((code : Int) - if neg then 2 ^ w else 0) * 2 ^ 298)
  else
    let e := code / 2 ^ mantOf d % 2 ^ expOf d
    let m := code % 2 ^ mantOf d
    let v : Int := if e = 0 then m * 2 ^ (299 - biasOf d - mantOf d) else (2 ^ mantOf d + m) * 2 ^ (298 + e - biasOf d - mantOf d)
    let top := e == 2 ^ expOf d - 1
    if top && (d.extractLsb' 15 2 == 2 || (d.extractLsb' 15 2 == 1 && m == 2 ^ mantOf d - 1)) then none else some (if neg then -v else v)

/-- Element `j` of a register (R104). -/
def elemAt (d x : Word) (j : Nat) : Word := x >>> (if widthOf d = 4 then 4 * j else 8 * j)

/-- A value word of which some active lanes meet an illegal descriptor: they take FORMAT and commit nothing, under one record; the other active lanes
receive their results, where none raises an enabled flag, and the guarded-off lanes idle (R86, R99, R133). -/
def TakesFormat (s : State) (r : Out) (g : Guard) (d : Spec) (bad : List Nat) (x : Nat → FRes) : Prop :=
  (freeTrap (curCore s)).isSome → bad ≠ [] → (∀ l ∈ active s g, l ∉ bad → (x l).2 &&& (curFpen s).setWidth 6 = 0) →
  ∃ t n, r = .next t ∧ (∀ l ∈ bad, lane t l = { lane s l with st := .parked }) ∧
    (∀ l ∈ active s g, l ∉ bad → Gets32 (lane s l) (lane t l) d (bits32 (x l)) (x l).2 (curNext s)) ∧
    (∀ l ∈ subLanes s, l ∉ active s g → IdlesShifting (lane s l) (lane t l) d (curNext s)) ∧
    freeTrap (curCore s) = some n ∧ ∃ rec, Tbl.get none (curCore t).traps n = some rec ∧ rec.code = .format ∧ rec.mask = maskOf bad ∧
      rec.pc = s.cur.pc ∧ rec.group = s.cur.group ∧ rec.tick = tick s

end Sys2Proof.Claims

/-- R88, R97, R99 to R101, R133, R135 to R138: the conversions, the element moves and NDOT4 complete with the results of the format rules, and where an active lane
meets an illegal descriptor CVTN and NDOT4 take FORMAT. Integers wrap or, with SAT, clamp; F32 rounds to an integer in the direction of RND and is then
checked against the range of the type, with the indefinite value and NV, or the nearest end and SAT; an integer rounds to F32 by R91; F32 to F64 is exact; the narrow elements have the values of R100,
and the worked encodings of R101 hold. The sign of a zero sum in NDOT4, and a source of −0.0 in CVTN, are the model's own choices (log entries 131 and 130). -/
def Obligations.ConversionWords : Prop := ∀ (o : Ops) (d t : Ty) (e : Esz) (fr sat z : Bool) (r : Rnd) (fmt : Word) (s : State),
  let v := fun l => cvtBits d t sat z r (if t = .f64 then (src64 s o.a l).toNat else (src s o.a l).toNat)
  let A := fun l => src s o.a l
  let B := fun l => src s o.b l
  let gives := fun (x : FRes) (y : Word) (fl : Flags) => bits32 x = y ∧ x.2 = fl
  let w := match e with | .w4 => 4 | .w8 => 8 | .w16 => 16
  let place := fun (l : Nat) => w * ((B l).toNat % (32 / w))
  -- CVT: it completes with `v`, and this is what `v` holds
  (d = .f64 → Float64 s (exec (.cvt o d t sat z r) s) o.g o.d v) ∧ (d ≠ .f64 → Float32 s (exec (.cvt o d t sat z r) s) o.g o.d v) ∧
  (isInt t → isInt d → ∀ l, let x := intIn t (A l)
    gives (v l) (intOut d (if sat then max (least d) (min (most d) x) else x)) (if sat && decide (x < least d ∨ most d < x) then 32 else 0)) ∧
  (t = .f32 → isInt d → ∀ l,
    let y := flush32 z (A l)
    (isNan32 y → gives (v l) (intOut d (if sat then 0 else indef d)) 16) ∧
    (!isFin32 y && !isNan32 y → if sat then gives (v l) (intOut d (if y.msb then least d else most d)) 32 else gives (v l) (intOut d (indef d)) 16) ∧
    (isFin32 y → ∀ n, RoundsTo r (value32 y) 149 n →
      if least d ≤ n ∧ n ≤ most d then gives (v l) (intOut d n) (if n * 2 ^ 149 = value32 y then 0 else 1)
      else if sat then gives (v l) (intOut d (if n < least d then least d else most d)) 33 else gives (v l) (intOut d (indef d)) 16)) ∧
  (isInt t → d = .f32 → ∀ l, Rounded32 r (intIn t (A l) * 2 ^ 298) (bits32 (v l)) ∧ (v l).2 = if value32 (bits32 (v l)) = intIn t (A l) * 2 ^ 149 then 0 else 1) ∧
  (t = .f32 → d = .f64 → ∀ l,
    let y := flush32 z (A l)
    (isFin32 y → value64 (bits64 (v l)) = value32 y * 2 ^ 925 ∧ (bits64 (v l)).msb = y.msb ∧ (v l).2 = 0) ∧
    (isNan32 y → bits64 (v l) = 0x7FF8000000000000 ∧ (v l).2 = if isSig32 y then 16 else 0)) ∧
  -- CVTW: two conversions, one to each half
  Float32 s (exec (.cvtw o d t sat z r) s) o.g o.d (fun l =>
    let lo := cvtBits d t sat z r (A l).toNat
    let hi := cvtBits d t sat z r (B l).toNat
    (((bits32 hi).extractLsb' 0 16 ++ (bits32 lo).extractLsb' 0 16 : Word).toNat, lo.2 ||| hi.2)) ∧
  -- PACK and UNPACK
  (let out := fun (l : Nat) => sat && decide ((A l).toInt < -(2 ^ (w - 1)) ∨ 2 ^ (w - 1) - 1 < (A l).toInt)
   Value32 s (exec (.pack o e sat) s) o.g o.d (fun l =>
    let x : Int := if out l then (if (A l).toInt < 0 then -(2 ^ (w - 1)) else 2 ^ (w - 1) - 1) else (A l).toInt
    let field : Word := ((1#32 <<< w) - 1) <<< place l
    (spec s o.c l &&& ~~~field) ||| ((BitVec.ofInt 32 x <<< place l) &&& field)) (fun l => if out l then 32 else 0)) ∧
  Value32 s (exec (.unpack o e) s) o.g o.d (fun l => BitVec.ofNat 32 ((A l).toNat / 2 ^ place l % 2 ^ w)) quiet ∧
  -- CVTN
  ((∀ l ∈ active s o.g, legalFmt (B l)) → ∃ x : Nat → FRes, Float32 s (exec (.cvtn o fr sat r) s) o.g o.d x ∧
    (∀ l ∈ active s o.g, cvtnBits fr sat r (A l).toNat (B l).toNat = some (x l)) ∧
    (fr = true → ∀ l ∈ active s o.g, match narrowVal (B l) (A l) with
      | some E => Rounded32 r E (bits32 (x l)) ∧ ((x l).2 = 0 ↔ isFin32 (bits32 (x l)) ∧ value32 (bits32 (x l)) * 2 ^ 149 = E)
      | none => (bits32 (x l) = 0x7FC00000 ∨ bits32 (x l) = 0x7F800000 ∨ bits32 (x l) = 0xFF800000) ∧ (x l).2 = 0)) ∧
  (∃ x : Nat → FRes, TakesFormat s (exec (.cvtn o fr sat r) s) o.g o.d ((active s o.g).filter fun l => !legalFmt (B l)) x ∧
    ∀ l, legalFmt (B l) → cvtnBits fr sat r (A l).toNat (B l).toNat = some (x l)) ∧
  cvtnBits false false .rn 0x43960000 0x000C83B9 = some (0x79, 1) ∧ cvtnBits false false .rn 0x43E60000 0x000C83B9 = some (0x7E, 1) ∧
  cvtnBits false false .rn 0x43EB0000 0x000C83B9 = some (0x7E, 33) ∧ cvtnBits false false .rn 0x43EB0000 0x000483B9 = some (0x7F, 5) ∧
  -- NDOT4
  (legalFmt fmt → ∃ x : Nat → FRes, Float32 s (exec (.ndot4 o.g o.d o.a.spec o.b.spec o.c fmt r z) s) o.g o.d x ∧ ∀ l,
    let p := spec s o.a.spec l
    let q := spec s o.b.spec l
    let c := spec s o.c l
    ndot4Bits r z p.toNat q.toNat c.toNat fmt.toNat = some (x l) ∧
    (z = false → expOf fmt = 0 → isFin32 c → ∀ f : Nat → Int, (∀ j < 4, ∃ u v, narrowVal fmt (elemAt fmt p j) = some (u * 2 ^ 298) ∧
        narrowVal fmt (elemAt fmt q j) = some (v * 2 ^ 298) ∧ f j = u * v) →
      Rounded32 r ((f 0 + f 1 + f 2 + f 3) * 2 ^ 298 + value32 c * 2 ^ 149) (bits32 (x l)))) ∧
  (legalFmt fmt = false → TakesFormat s (exec (.ndot4 o.g o.d o.a.spec o.b.spec o.c fmt r z) s) o.g o.d (active s o.g) fun _ => (0, 0))

/-- R139, R140: the special functions complete for every input; their special inputs give the table's results and flags, and with FTZ a subnormal input acts as
the zero of its sign. What they deliver elsewhere is the model's evaluation of the function (log entry 5). -/
def Obligations.SpecialFunctionWords : Prop := ∀ (o : Ops) (z : Bool) (s : State) (w : Word),
  let words := [(SFun.rcp, Instr.rcp o z), (.rsq, .rsq o z), (.sqrt, .sqrt o z), (.exp2, .exp2 o z), (.log2, .log2 o z), (.sin, .sin o z), (.cos, .cos o z), (.tanh, .tanh o z)]
  let f := fun (k : SFun) (x : Word) => sfun k z x.toNat
  let dz : Flags := 8
  let nv : Flags := 16
  (∀ e ∈ words, Float32 s (exec e.2 s) o.g o.d (fun l => f e.1 (src s o.a l))) ∧
  (∀ e ∈ words, isNan32 w → f e.1 w = (0x7FC00000, if isSig32 w then nv else 0)) ∧
  f .rcp 0 = (0x7F800000, dz) ∧ f .rcp 0x80000000 = (0xFF800000, dz) ∧ f .rcp 0x7F800000 = (0, 0) ∧ f .rcp 0xFF800000 = (0x80000000, 0) ∧
  f .rsq 0 = (0x7F800000, dz) ∧ f .rsq 0x80000000 = (0xFF800000, dz) ∧ f .rsq 0x7F800000 = (0, 0) ∧
  f .sqrt 0 = (0, 0) ∧ f .sqrt 0x80000000 = (0x80000000, 0) ∧ f .sqrt 0x7F800000 = (0x7F800000, 0) ∧
  f .exp2 0xFF800000 = (0, 0) ∧ f .exp2 0x7F800000 = (0x7F800000, 0) ∧ f .exp2 0 = (0x3F800000, 0) ∧
  f .log2 0 = (0xFF800000, dz) ∧ f .log2 0x80000000 = (0xFF800000, dz) ∧ f .log2 0x7F800000 = (0x7F800000, 0) ∧ f .log2 0x3F800000 = (0, 0) ∧
  f .sin 0x7F800000 = (0x7FC00000, nv) ∧ f .sin 0xFF800000 = (0x7FC00000, nv) ∧ f .sin 0 = (0, 0) ∧ f .sin 0x80000000 = (0x80000000, 0) ∧
  f .cos 0x7F800000 = (0x7FC00000, nv) ∧ f .cos 0xFF800000 = (0x7FC00000, nv) ∧ f .cos 0 = (0x3F800000, 0) ∧ f .cos 0x80000000 = (0x3F800000, 0) ∧
  f .tanh 0x7F800000 = (0x3F800000, 0) ∧ f .tanh 0xFF800000 = (0xBF800000, 0) ∧ f .tanh 0 = (0, 0) ∧ f .tanh 0x80000000 = (0x80000000, 0) ∧
  ((w.msb && !isNan32 w && value32 (flush32 z w) != 0) → ∀ k ∈ [SFun.rsq, .sqrt, .log2], f k w = (0x7FC00000, nv)) ∧
  ((z && isSub32 w) → ∀ e ∈ words, f e.1 w = f e.1 (w &&& 0x80000000)) ∧
  f .exp2 0x43000000 = (0x7F800000, 5) ∧ f .exp2 0x7F7FFFFF = (0x7F800000, 5)

/-- R96, R126: where some active lanes raise an enabled flag, those lanes take FP and commit nothing, under one record whose detail is the OR of the enabled
flags that they raise; the other active lanes commit, and the guarded-off lanes idle. Said for FADD, FMUL and FFMA. -/
def Obligations.EnabledFlagsTakeFp : Prop := ∀ (o : Ops) (r : Rnd) (z : Bool) (s : State) (i : Instr) (x : Nat → FRes),
  (freeTrap (curCore s)).isSome →
  ((i = .fadd o r z ∧ x = fun l => FFmt.f32.add r z (src s o.a l).toNat (src s o.b l).toNat) ∨
   (i = .fmul o r z ∧ x = fun l => FFmt.f32.mul r z (src s o.a l).toNat (src s o.b l).toNat) ∨
   (i = .ffma o r z ∧ x = fun l => FFmt.f32.fma r z (src s o.a l).toNat (src s o.b l).toNat (spec s o.c l).toNat)) →
  let raised := fun l => (x l).2 &&& (curFpen s).setWidth 6
  let bad := (active s o.g).filter fun l => raised l != 0
  bad ≠ [] →
  ∃ t n, exec i s = .next t ∧
    (∀ l ∈ bad, lane t l = { lane s l with st := .parked }) ∧
    (∀ l ∈ active s o.g, l ∉ bad → Gets32 (lane s l) (lane t l) o.d (bits32 (x l)) (x l).2 (curNext s)) ∧
    (∀ l ∈ subLanes s, l ∉ active s o.g → IdlesShifting (lane s l) (lane t l) o.d (curNext s)) ∧
    freeTrap (curCore s) = some n ∧ ∃ rec, Tbl.get none (curCore t).traps n = some rec ∧ rec.code = .fp ∧ rec.mask = maskOf bad ∧
      rec.pc = s.cur.pc ∧ rec.detail = bad.foldl (fun m l => m ||| (raised l).toNat) 0 ∧ rec.group = s.cur.group ∧ rec.tick = tick s

namespace Sys2Proof.Claims

/-- A 64-bit result in an even pair of uniform registers (R50, R159). -/
structure GroupGets64 (s t : State) (d : Spec) (x : DWord) : Prop where
  frame : OnlyGroup s.cur.core s.cur.tx s.cur.group s t
  g : ∀ n, greg t n = if specPlus d 1 = .g n then x.extractLsb' 32 32 else if d = .g n then x.extractLsb' 0 32 else greg s n
  lanes : ∀ l ∈ subLanes s, MovesTo (lane s l) (lane t l) (curNext s)
  others : ∀ l, l ∉ subLanes s → lane t l = lane s l
  rest : { curGroup t with g := (curGroup s).g, lanes := (curGroup s).lanes } = curGroup s

/-- A word that only lanes of the issue see: each lane of the issue becomes what `f` says, and nothing else changes. -/
def Lanes (s : State) (r : Out) (f : Nat → Lane) : Prop :=
  ∃ t, r = .next t ∧ LanesOnly s t ∧ ∀ l ∈ subLanes s, lane t l = f l

/-- The destination is no uniform register. -/
def NotG (d : Spec) : Prop := ∀ n, d ≠ .g n

/-- A step of R192, on the bits of its operands. -/
def scanStep (k : Rop) (x y : Word) : FRes :=
  match k with
  | .iadd => ((x + y).toNat, 0)
  | .imin => ((if y.toInt < x.toInt then y else x).toNat, 0)
  | .imax => ((if x.toInt < y.toInt then y else x).toNat, 0)
  | .nmin => (min x.toNat y.toNat, 0)
  | .nmax => (max x.toNat y.toNat, 0)
  | .and => ((x &&& y).toNat, 0)
  | .or => ((x ||| y).toNat, 0)
  | .xor => ((x ^^^ y).toNat, 0)
  | .fadd => FFmt.f32.add .rn false x.toNat y.toNat
  | .fmin => FFmt.f32.minmax false false false x.toNat y.toNat
  | .fmax => FFmt.f32.minmax true false false x.toNat y.toNat

/-- The combination of a list of values in its order, with the flags of all its steps (R193). -/
def combine (k : Rop) : List Word → Word × Flags
  | [] => (0, 0)
  | x :: xs => xs.foldl (fun a y => (bits32 (scanStep k a.1 y), a.2 ||| (scanStep k a.1 y).2)) (x, 0)

/-- The identities of R192. -/
def identity (k : Rop) : Word :=
  match k with
  | .imin => 0x7FFFFFFF | .imax => 0x80000000 | .nmin | .and => 0xFFFFFFFF | .fadd => 0x80000000 | .fmin => 0x7F800000 | .fmax => 0xFF800000
  | _ => 0

end Sys2Proof.Claims

/-! ## Cross-lane and histogram words -/

/-- R186 to R191, R194, R195: SHFL, VOTE, MATCH, HIST and MERGE give every contributing lane the stated result from the contributing lanes' old values; a g
destination of VOTE is written once. -/
def Obligations.CrossLaneSelections : Prop := ∀ (o : Ops) (sm : ShflMode) (vm : VoteMode) (mm : MatchMode) (g : Guard) (d : Spec) (p : Fin 8) (s : State),
  let act := active s o.g
  let vs := (active s g).filter fun l => preg (lane s l) p
  let n := (active s g).length
  let same := fun l => act.filter fun k => src s o.a k == src s o.a l
  let below := fun (xs : List Nat) (l : Nat) => BitVec.ofNat 32 (xs.filter (· < l)).length
  let byte := fun (x : Word) (j : Nat) => (x.extractLsb' (8 * j) 8).toNat
  Value32 s (exec (.shfl o sm) s) o.g o.d (fun l =>
    let b := src s o.b l
    let j : Int := match sm with
      | .from => b.toNat | .shift => l + b.toInt | .rotate => ((l + b.toNat) % 32 : Nat) | .xor => (l ^^^ b.toNat : Nat)
    if 0 ≤ j ∧ j ≤ 31 then src s o.a j.toNat else spec s o.c l) quiet ∧
  (NotG d → match vm with
    | .some => ValuePred s (exec (.vote g d p vm) s) g d (fun _ => decide (1 ≤ vs.length)) quiet
    | .every => ValuePred s (exec (.vote g d p vm) s) g d (fun _ => decide (vs.length = n)) quiet
    | .agree => ValuePred s (exec (.vote g d p vm) s) g d (fun _ => decide (vs.length = 0 ∨ vs.length = n)) quiet
    | .major => ValuePred s (exec (.vote g d p vm) s) g d (fun _ => decide (n < 2 * vs.length)) quiet
    | .mask => Value32 s (exec (.vote g d p vm) s) g d (fun _ => maskOf vs) quiet
    | .tally => Value32 s (exec (.vote g d p vm) s) g d (fun _ => BitVec.ofNat 32 vs.length) quiet
    | .lead => Value32 s (exec (.vote g d p vm) s) g d (fun _ => BitVec.ofNat 32 (vs.headD 32)) quiet
    | .rank => Value32 s (exec (.vote g d p vm) s) g d (below vs) quiet) ∧
  (¬NotG d →
    Uniform s (exec (.vote g d p .mask) s) g d (maskOf vs) ∧ Uniform s (exec (.vote g d p .tally) s) g d (BitVec.ofNat 32 vs.length) ∧
    Uniform s (exec (.vote g d p .lead) s) g d (BitVec.ofNat 32 (vs.headD 32))) ∧
  Value32 s (exec (.match_ o mm) s) o.g o.d (fun l => match mm with
    | .peers => maskOf (same l) | .leader => BitVec.ofNat 32 ((same l).headD l) | .rank => below (same l) l
    | .whole => if ∀ k ∈ act, src s o.a k = src s o.a l then maskOf act else 0) quiet ∧
  Value32 s (exec (.hist o) s) o.g o.d (fun l =>
    let k := (src s o.a l - src s o.b l).toNat
    let c := spec s o.c l
    if k < 4 ∧ byte c k < 255 then c + BitVec.ofNat 32 (2 ^ (8 * k)) else c) quiet ∧
  Value32 s (exec (.merge o) s) o.g o.d (fun l =>
    BitVec.ofNat 32 (act.map fun k => byte (src s o.a k) ((src s o.b l).toNat % 4)).sum) quiet

/-- R192, R193: REDUCE and SCAN combine the contributing lanes' values in ascending lane order; EXCL delivers the combination of the lanes below, the identity in the
lowest; a g destination of REDUCE is written once, with the flags in every contributing lane. Said where no enabled flag is raised. -/
def Obligations.ReductionsAndScans : Prop := ∀ (o : Ops) (k : Rop) (s : State),
  let act := active s o.g
  let vals := fun (ls : List Nat) => ls.map fun l => src s o.a l
  let upto := fun l => combine k (vals (act.filter (· ≤ l)))
  let under := fun l => if (act.filter (· < l)).isEmpty then (identity k, (0 : Flags)) else combine k (vals (act.filter (· < l)))
  let all := combine k (vals act)
  let calm := fun (f : Flags) => f &&& (curFpen s).setWidth 6 = 0
  ((∀ l ∈ act, calm (upto l).2) → Value32 s (exec (.scan o k false) s) o.g o.d (fun l => (upto l).1) (fun l => (upto l).2)) ∧
  ((∀ l ∈ act, calm (under l).2) → Value32 s (exec (.scan o k true) s) o.g o.d (fun l => (under l).1) (fun l => (under l).2)) ∧
  (NotG o.d → calm all.2 → Value32 s (exec (.reduce o k) s) o.g o.d (fun _ => all.1) (fun _ => all.2)) ∧
  (¬NotG o.d → calm all.2 → GroupOnce s (exec (.reduce o k) s) o.g fun act t =>
    OnlyGroup s.cur.core s.cur.tx s.cur.group s t ∧ (∀ n, greg t n = if o.d = .g n then all.1 else greg s n) ∧
    (∀ l ∈ act, lane t l = { lane s l with flags := (lane s l).flags ||| all.2.setWidth 32, pc := curNext s }) ∧
    (∀ l ∈ subLanes s, l ∉ act → MovesTo (lane s l) (lane t l) (curNext s)) ∧ (∀ l, l ∉ subLanes s → lane t l = lane s l) ∧
    { curGroup t with g := (curGroup s).g, lanes := (curGroup s).lanes } = curGroup s) ∧
  (¬NotG o.d → ¬calm all.2 → (freeTrap (curCore s)).isSome →
    GroupOnce s (exec (.reduce o k) s) o.g fun act t => Parks s t act ⟨.fp, (all.2 &&& (curFpen s).setWidth 6).toNat, 0, 0⟩)

namespace Sys2Proof.Claims

/-! ## Control words -/

/-- A legal transfer target: inside `.text` and on no pad parcel (R145). -/
def Legal (s : State) (x : Nat) : Prop := x < 4 * (curText s).length ∧ ((curText s).getD (x / 4) 0) % 4 ≠ 3

end Sys2Proof.Claims
namespace Sys2Proof.Claims

/-- A control word completes: the lanes of the issue outside `bad` become what `f` says, a taken transfer opens the two-cycle bubble of R233, the lanes of `bad` park
at the word under one record of cause `c`, and nothing else changes (R144, R163, R385). -/
structure Goes (s t : State) (f : Nat → Lane) (taken : Prop) (bad : List Nat) (c : Cause) : Prop where
  lanes : ∀ l ∈ subLanes s, l ∉ bad → lane t l = f l
  parked : ∀ l ∈ bad, lane t l = { lane s l with st := .parked }
  others : ∀ l, l ∉ subLanes s → lane t l = lane s l
  group : { curGroup t with lanes := (curGroup s).lanes, bubble := (curGroup s).bubble } = curGroup s
  bubble : taken → (curGroup t).bubble = cyc s s.cur.core + 3
  none : ¬taken → (curGroup t).bubble = (curGroup s).bubble
  calm : bad = [] → OnlyGroup s.cur.core s.cur.tx s.cur.group s t
  trap : bad ≠ [] → Recorded s t bad c

def Transfer (s : State) (r : Out) (f : Nat → Lane) (taken : Prop) (bad : List Nat) (c : Cause) : Prop := ∃ t, r = .next t ∧ Goes s t f taken bad c

end Sys2Proof.Claims

/-! ## Control words -/

/-- R145, R147, R148, R150, R151: each lane makes its transfer or goes on. BRA to an illegal target is ILLEGAL 11; BRX beyond its table is BOUNDS; CALL at depth D is
LIMIT_DEPTH and RET at depth 0 is ILLEGAL 10; NEXT counts a trip in every lane of its issue, and a lane that wants a trip beyond its bound takes LIMIT_LOOP and
commits nothing. BRX, CALL, RET and NEXT are said for legal targets, which every accepted kernel has. -/
def Obligations.TransferWords : Prop := ∀ (g : Guard) (tgt : Word) (tab : BitVec 5) (a : Spec) (c : Fin 8) (s : State),
  (freeTrap (curCore s)).isSome →
  let act := active s g
  let next := curNext s
  let goes := fun (m : Lane) (pc : Nat) => { m with pc := pc }
  let table := match curGrid s with | some gr => gr.kernel.tables.getD tab.toNat [] | none => []
  let depth := match curGrid s with | some gr => gr.kernel.depth | none => 0
  let k := fun l => (spec s a l).toNat
  let trip := fun l => (Tbl.get 0 (lane s l).c c).toNat + 1
  let bound := fun l => (Tbl.get 0 (lane s l).bnd c).toNat
  let want := fun l => if g = Guard.always then decide (trip l < bound l) else act.contains l
  (Legal s tgt.toNat → Transfer s (exec (.bra g tgt) s) (fun l => goes (lane s l) (if l ∈ act then tgt.toNat else next)) (act ≠ []) [] ⟨.illegal, 11, 0, 0⟩) ∧
  (¬Legal s tgt.toNat → Transfer s (exec (.bra g tgt) s) (fun l => goes (lane s l) next) False act ⟨.illegal, 11, 0, 0⟩) ∧
  ((∀ x ∈ table, Legal s x) →
    let bad := act.filter fun l => decide (table.length ≤ k l)
    Transfer s (exec (.brx g tab a) s) (fun l => goes (lane s l) (if l ∈ act then table.getD (k l) 0 else next)) (∃ l ∈ act, l ∉ bad) bad ⟨.bounds, 0, 0, 0⟩) ∧
  (Legal s tgt.toNat →
    let bad := act.filter fun l => decide ((lane s l).rs.length = depth)
    Transfer s (exec (.call g tgt) s)
      (fun l => if l ∈ act then { lane s l with rs := next :: (lane s l).rs, pc := tgt.toNat } else goes (lane s l) next)
      (∃ l ∈ act, l ∉ bad) bad ⟨.limitDepth, 0, 0, 0⟩) ∧
  ((∀ l ∈ act, ∀ x ∈ (lane s l).rs.head?, Legal s x) →
    let bad := act.filter fun l => decide ((lane s l).rs = [])
    Transfer s (exec (.ret g) s)
      (fun l => if l ∈ act then { lane s l with rs := (lane s l).rs.tail, pc := (lane s l).rs.headD 0 } else goes (lane s l) next)
      (∃ l ∈ act, l ∉ bad) bad ⟨.illegal, 10, 0, 0⟩) ∧
  (Legal s tgt.toNat →
    let bad := (subLanes s).filter fun l => want l && decide (bound l ≤ trip l)
    Transfer s (exec (.next g c tgt) s)
      (fun l => { lane s l with
        c := Tbl.put 0 (lane s l).c c (BitVec.ofNat 32 (trip l))
        pc := if want l then tgt.toNat else next
        deferred := want l || (lane s l).deferred })
      (∃ l ∈ subLanes s, want l ∧ l ∉ bad) bad ⟨.limitLoop, 0, 0, 0⟩)

/-- R145, R149, R152, R154, R155, R158, R159: LOOP opens its counter at 0 with its bound; MEET sets the meeting register, or is ILLEGAL 11 where its target is illegal; NOP only goes on; ELECT gives true to the lane of `active` whose place
is the rank modulo their number; TIME and CYC write the global tick and the core's cycle count; YIELD ends the claim of its own group and no other; and BBHINT counts 1 for its
entry, BOUNDS beyond the declared length. The model's own choice here is that of log entry 11. -/
def Obligations.LoopMeetElectYieldAndCounterWords : Prop :=
  (∀ (g : Guard) (d a : Spec) (c : Fin 8) (x : Word) (s : State),
    let act := active s g
    let next := curNext s
    let now := BitVec.ofNat 64 (tick s)
    let cycles := BitVec.ofNat 64 (cyc s s.cur.core)
    Lanes s (exec (.loop g c x) s) (fun l => if l ∈ act then
      { lane s l with c := Tbl.put 0 (lane s l).c c 0, bnd := Tbl.put 0 (lane s l).bnd c x, pc := next } else { lane s l with pc := next }) ∧
    (Legal s x.toNat →
      Lanes s (exec (.meet g x) s) (fun l => if l ∈ act then { lane s l with meet := some x.toNat, pc := next } else { lane s l with pc := next })) ∧
    (¬Legal s x.toNat → (freeTrap (curCore s)).isSome →
      Transfer s (exec (.meet g x) s) (fun l => { lane s l with pc := next }) False act ⟨.illegal, 11, 0, 0⟩) ∧
    Lanes s (exec (.nop g) s) (fun l => { lane s l with pc := next }) ∧
    ValuePred s (exec (.elect g d a) s) g d (fun l => decide (act[(usp s a).toNat % act.length]? = some l)) quiet ∧
    (NotG d → Value64 s (exec (.time g d) s) g d (fun _ => now) quiet ∧ Value64 s (exec (.cyc g d) s) g d (fun _ => cycles) quiet) ∧
    (¬NotG d →
      GroupOnce s (exec (.time g d) s) g (fun _ t => GroupGets64 s t d now) ∧ GroupOnce s (exec (.cyc g d) s) g (fun _ t => GroupGets64 s t d cycles))) ∧
  (∀ (g : Guard) (a : Spec) (s : State), (freeTrap (curCore s)).isSome →
    let tx := s.cur.tx
    let me := some s.cur.group
    let slot := fun (u : State) (i : Nat) => Tbl.get {} (curCore u).slots i
    let mine := (curGroup s).slot
    let len := match curGrid s with | some gr => gr.descr.bblen | none => 0
    let i := (usp s a).toNat
    let count := fun (u : State) (tx j : Nat) => match (curCore u).bbcache.find? fun e => e.1 == tx && e.2.1 == j with | some e => e.2.2 | none => 0
    (∃ t, exec (.yield g) s = .next t ∧
      OnlyCore s.cur.core s t ∧ (∀ l ∈ subLanes s, MovesTo (lane s l) (lane t l) (curNext s)) ∧ (∀ l, l ∉ subLanes s → lane t l = lane s l) ∧
      (tx ≠ 2 → (slot t mine).claimOf tx ≠ me ∧ ((slot s mine).claimOf tx ≠ me → (slot t mine).claimOf tx = (slot s mine).claimOf tx) ∧
        (slot t mine).claimOf (1 - tx) = (slot s mine).claimOf (1 - tx)) ∧
      (∀ j, j ≠ mine → slot t j = slot s j) ∧ (∀ j, j ≠ s.cur.tx → teamAt (curCore t) j = teamAt (curCore s) j) ∧
      { curGroup t with lanes := (curGroup s).lanes } = curGroup s) ∧
    GroupOnce s (exec (.bbhint g a) s) g fun act t =>
      if len = 0 then GoesOn s t
      else if len ≤ i then Parks s t act ⟨.bounds, 0, 0, 0⟩
      else (∀ l ∈ subLanes s, MovesTo (lane s l) (lane t l) (curNext s)) ∧ (∀ l, l ∉ subLanes s → lane t l = lane s l) ∧
        (((curCore s).bbcache.length < 256 ∨ ∃ e ∈ (curCore s).bbcache, e.1 = s.cur.tx ∧ e.2.1 = i) → OnlyCore s.cur.core s t ∧
          count t s.cur.tx i = count s s.cur.tx i + 1 ∧ ∀ tx j, (tx, j) ≠ (s.cur.tx, i) → count t tx j = count s tx j))

/-- R144, R153: EXIT ends every active lane and the other lanes of its issue go on; the group has ended exactly where none of its 32 lanes remains, and while one remains
nothing but those lanes changes. -/
def Obligations.ExitEndsLanes : Prop := ∀ (g : Guard) (s : State), ∃ t, exec (.exit g) s = .next t ∧
  (∀ l ∈ active s g, lane t l = { lane s l with st := .exited }) ∧
  (∀ l ∈ subLanes s, l ∉ active s g → MovesTo (lane s l) (lane t l) (curNext s)) ∧
  (∀ l, l ∉ subLanes s → lane t l = lane s l) ∧
  ((curGroup t).ended = true ↔ (curGroup s).ended = true ∨ ∀ l < 32, (lane t l).st = .exited) ∧
  ((∃ l < 32, (lane t l).st ≠ .exited) → LanesOnly s t)

namespace Sys2Proof.Claims

/-! ## Memory words -/

/-- The bytes of a window, as a function. -/
abbrev Mem := Nat → Byte

/-- The sixteen bytes at `a`, little-endian. -/
def quadAt (m : Mem) (a : Nat) : BitVec 128 :=
  m (a + 15) ++ m (a + 14) ++ m (a + 13) ++ m (a + 12) ++ m (a + 11) ++ m (a + 10) ++ m (a + 9) ++ m (a + 8) ++
    m (a + 7) ++ m (a + 6) ++ m (a + 5) ++ m (a + 4) ++ m (a + 3) ++ m (a + 2) ++ m (a + 1) ++ m a

/-- The window after a store of the `n` low bytes of `x` at `a`. -/
def stored (m : Mem) (a n : Nat) (x : BitVec 128) : Mem := fun b => if a ≤ b ∧ b < a + n then x.extractLsb' (8 * (b - a)) 8 else m b

/-- The window after the steps of some lanes in order. -/
def after (step : Nat → Mem → Mem) (m : Mem) (ls : List Nat) : Mem := ls.foldl (fun m l => step l m) m

/-- The bytes and the registers of a size (R75, R212). -/
def sizeBytes (z : Size) : Nat := match z with | .i8 | .n8 => 1 | .i16 | .n16 => 2 | .w32 => 4 | .w64 => 8 | .w128 => 16
def sizeRegs (z : Size) : Nat := match z with | .w64 => 2 | .w128 => 4 | _ => 1

/-- A loaded value in its registers: I8 and I16 sign-extended, N8 and N16 zero-extended (R213). -/
def loaded (z : Size) (x : BitVec 128) : BitVec 128 :=
  match z with
  | .i8 => ((x.extractLsb' 0 8).signExtend 32).setWidth 128
  | .n8 => (x.extractLsb' 0 8).setWidth 128
  | .i16 => ((x.extractLsb' 0 16).signExtend 32).setWidth 128
  | .n16 => (x.extractLsb' 0 16).setWidth 128
  | .w32 => (x.extractLsb' 0 32).setWidth 128
  | .w64 => (x.extractLsb' 0 64).setWidth 128
  | .w128 => x

/-- The new word of an atomic (R214). -/
def atomic (k : Aop) (old c : Word) : Word :=
  match k with
  | .add => old + c
  | .min => if c.toInt < old.toInt then c else old
  | .max => if old.toInt < c.toInt then c else old
  | .nmin => if c.toNat < old.toNat then c else old
  | .nmax => if old.toNat < c.toNat then c else old
  | .and => old &&& c
  | .or => old ||| c
  | .exch => c

/-- The value source of a store, in its registers (R212). -/
def storeSource (s : State) (z : Size) (a : Spec) (l : Nat) : BitVec 128 :=
  match z with
  | .w64 => (spec64 s a l).setWidth 128
  | .w128 => spec64 s (specPlus a 2) l ++ spec64 s a l
  | _ => (spec s a l).setWidth 128

/-- A lane receives `x` in the `regs` registers from `d`, and its last-result file shifts once with the lowest word (R215). -/
structure GetsRegs (m m' : Lane) (d : Spec) (regs : Nat) (x : BitVec 128) (pc : Nat) : Prop where
  v : ∀ n, vreg m' n = match (List.range regs).find? fun k => specPlus d k == .v n with | some k => x.extractLsb' (32 * k) 32 | none => vreg m n
  o : ∀ n, oreg m' n = match (List.range regs).find? fun k => specPlus d k == .o n with | some k => x.extractLsb' (32 * k) 32 | none => oreg m n
  y : Shifted m m' (x.extractLsb' 0 32)
  flags : m'.flags = m.flags
  pc : m'.pc = pc
  rest : SameBeyondValues m m'

/-- No bank is touched in more than `bound` distinct words by accesses of `n` bytes (R208). -/
def ConflictWithin (n bound : Nat) (addrs : List Nat) : Prop :=
  ∀ ws : List Nat, ws.Nodup → (∀ w ∈ ws, ∃ a ∈ addrs, ∃ b, a ≤ b ∧ b < a + n ∧ w = b / 4) → (∀ w ∈ ws, ∀ w' ∈ ws, w % 32 = w' % 32) → ws.length ≤ max 1 bound

/-- The lanes of an access: `ok` acted, each with its result if the access has one; `bad` parked; the guarded-off lanes idle and the other lanes stay. -/
structure Acted (s t : State) (d : Spec) (act ok bad : List Nat) (res : Option (Nat × (Nat → BitVec 128))) : Prop where
  done : ∀ l ∈ ok, match res with | some (regs, x) => GetsRegs (lane s l) (lane t l) d regs (x l) (curNext s) | none => MovesTo (lane s l) (lane t l) (curNext s)
  parked : ∀ l ∈ bad, lane t l = { lane s l with st := .parked }
  idle : ∀ l ∈ subLanes s, l ∉ act → if res.isSome then IdlesShifting (lane s l) (lane t l) d (curNext s) else MovesTo (lane s l) (lane t l) (curNext s)
  others : ∀ l, l ∉ subLanes s → lane t l = lane s l
  group : { curGroup t with lanes := (curGroup s).lanes } = curGroup s

/-- Beside the issuing lanes an access changed nothing but one window of its team. -/
structure WindowOnly (s t : State) : Prop where
  team : OnlyTeam s.cur.core s.cur.tx s t
  groups : ∀ j, j ≠ s.cur.group → groupAt (curTeam t) j = groupAt (curTeam s) j
  rest : { curTeam t with sp := (curTeam s).sp, ob := (curTeam s).ob, groups := (curTeam s).groups } = curTeam s

/-- The write of operand-buffer bytes leaves byte `b` of a window as it was: no row that an unfinished drain of the team has stored over it becomes
undefined (R324). -/
def Kept (s : State) (k tx : Nat) (bytes : List Nat) (ob : Bool) (b : Nat) : Prop :=
  ∀ n, (getTeam s k tx).ctx = some n → ∀ d ∈ (getCtx s (pairOf k) n).drains, ∀ r ∈ lateStores bytes d, r.ob = ob → b < r.at_ ∨ r.at_ + r.bytes.length ≤ b

/-- The lanes of `bad` are recorded in one record, with BOUNDS where some lane has it, else MISALIGN (R381, R383). -/
def BadAccess (s t : State) (bad : List Nat) (cause : Nat → Option TrapCode) : Prop :=
  ∃ i rec, freeTrap (curCore s) = some i ∧ Tbl.get none (curCore t).traps i = some rec ∧ rec.mask = maskOf bad ∧ rec.pc = s.cur.pc ∧
    rec.group = s.cur.group ∧ rec.code = if ∃ l ∈ bad, cause l = some .bounds then TrapCode.bounds else .misalign

/-- A local scratchpad access of `n` bytes (R213). -/
def Access (s : State) (r : Out) (o : Ops) (n : Nat) (cb : Cb) (step : Nat → Nat → Mem → Mem) (res : Option (Nat × (Nat → Nat → Mem → BitVec 128))) : Prop :=
  let act := active s o.g
  let addr := fun l => (src s o.a l + src s o.b l).toNat
  let cause := fun l => accessCause n (curWS s) (addr l)
  let ok := act.filter fun l => (cause l).isNone
  let bad := act.filter fun l => (cause l).isSome
  let bound := match cb with | .c1 => 1 | .c2 => 2 | .c4 => 4 | .c32 => 32
  let mem := fun ls => after (fun l => step l (addr l)) (spByte s) ls
  let got := res.map fun x => (x.1, fun l => x.2 l (addr l) (mem (ok.filter (· < l))))
  (ConflictWithin n bound (ok.map addr) → ∃ t, r = .next t ∧ Acted s t o.d act ok bad got ∧ (∀ b, spByte t b = mem ok b) ∧
    (bad = [] → WindowOnly s t) ∧ (bad ≠ [] → BadAccess s t bad cause)) ∧
  (¬ConflictWithin n bound (ok.map addr) → bad = [] → ∃ t, r = .next t ∧ Parks s t act ⟨.limitConflict, 0, 0, 0⟩ ∧ ∀ b, spByte t b = spByte s b)

end Sys2Proof.Claims

/-! ## Memory words -/

/-- R208, R209, R211, R213, R214: LD, ST, ATOM and ACAS check each address for alignment and then for the window; the lanes that pass act in ascending lane order on
the team's window and no other byte changes; the others park and commit nothing; and a conflict degree above the declared bound traps every lane that passed. No
watchpoint is armed where debugging is off. -/
def Obligations.ScratchpadWords : Prop := ∀ (o : Ops) (z : Size) (k : Aop) (cb : Cb) (s : State), debugging s = false → (freeTrap (curCore s)).isSome →
  let old := fun (m : Mem) a => ((quadAt m a).extractLsb' 0 32 : Word)
  let c := fun l => spec s o.c l
  let wide := fun (x : Word) => (x.setWidth 128 : BitVec 128)
  Access s (exec (.ld o z cb) s) o (sizeBytes z) cb (fun _ _ m => m) (some (sizeRegs z, fun _ a m => loaded z (quadAt m a))) ∧
  Access s (exec (.st o z cb) s) o (sizeBytes z) cb (fun l a m => stored m a (sizeBytes z) (storeSource s z o.c l)) none ∧
  Access s (exec (.atom o k cb) s) o 4 cb (fun l a m => stored m a 4 (wide (atomic k (old m a) (c l)))) (some (1, fun _ a m => wide (old m a))) ∧
  Access s (exec (.acas o cb) s) o 4 cb (fun l a m => if old m a = spec s o.d l then stored m a 4 (wide (c l)) else m) (some (1, fun _ a m => wide (old m a)))

/-- R216 to R219: a remote access sends, for each destination core that its passing lanes address, one part with those lanes, each lane in one part: it enters at issue + 10 + h and is ready at
issue + 20 + 2h, for the hop count h. The lanes go on at once, the last-result file shifting for a result still to come, which the scoreboard then awaits; a lane that fails a check parks, a conflict at
a destination traps every lane and sends nothing, and where no lane fails nothing else of the machine changes. -/
def Obligations.RemoteWordsSendTheirParts : Prop := ∀ (o : Ops) (z : Size) (k : Aop) (s : State) (i : Instr) (op : RemoteOp),
  (i, op) ∈ [(Instr.rld o z, RemoteOp.ld z), (.rst o z, .st z), (.ratom o k, .atom k)] →
  let act := active s o.g
  let n := match op with | .atom _ => 4 | _ => sizeBytes z
  let addr := fun l => src s o.a l + src s o.b l
  let cl := fun l => ((addr l).extractLsb' 21 4).toNat
  let off := fun l => ((addr l).extractLsb' 0 21).toNat
  let stores : Bool := match op with | .st _ => true | _ => false
  let hop := fun (x y : Nat) => ((x % 4 : Nat) - (y % 4 : Nat) : Int).natAbs + ((x / 4 : Nat) - (y / 4 : Nat) : Int).natAbs
  let h := fun l => hop (localIndex s.cur.core) (cl l)
  let target := fun l => coreInCluster s.cur.core (cl l)
  let cause := fun l =>
    if off l % n ≠ 0 then some TrapCode.misalign
    else if (addr l).extractLsb' 25 7 ≠ 0 ∨ 11 < cl l ∨ placeOf s (target l) (curTeam s).grid = none ∨ curWS s < off l + n then some .bounds else none
  let ok := act.filter fun l => (cause l).isNone
  let bad := act.filter fun l => (cause l).isSome
  let clear := ∀ c, ConflictWithin n 1 ((ok.filter fun l => cl l = c).map off)
  (bad = [] ∨ (freeTrap (curCore s)).isSome → clear → ∃ t parts es, exec i s = .next t ∧ (curCore t).remotes = (curCore s).remotes ++ parts ∧
    (parts.map (·.target)).Nodup ∧ (parts.flatMap fun p => p.lanes.map (·.lane)).Nodup ∧ (∀ l ∈ ok, ∃ p ∈ parts, ∃ e ∈ p.lanes, e.lane = l) ∧
    (∀ p ∈ parts, p.op = op ∧ p.dst = o.d ∧ p.group = s.cur.group ∧ p.tx = s.cur.tx ∧ p.grid = (curTeam s).grid ∧ p.entered = false ∧ p.lanes ≠ [] ∧ ∀ e ∈ p.lanes,
      e.lane ∈ ok ∧ e.off = off e.lane ∧ p.target = target e.lane ∧ p.entry = cyc s s.cur.core + 10 + h e.lane ∧
      p.ready = cyc s s.cur.core + 20 + 2 * h e.lane ∧ e.val = match op with | .atom _ => (spec s o.c e.lane).setWidth 128 | _ => if stores then storeSource s z o.c e.lane else e.val) ∧
    (∀ l ∈ subLanes s, l ∉ bad → if stores then MovesTo (lane s l) (lane t l) (curNext s) else IdlesShifting (lane s l) (lane t l) o.d (curNext s)) ∧
    (∀ l ∈ bad, lane t l = { lane s l with st := .parked }) ∧ (∀ l, l ∉ subLanes s → lane t l = lane s l) ∧
    (curGroup t).pend = (curGroup s).pend ++ es ∧ (stores = true ∨ ok = [] → es = []) ∧ (∀ e ∈ es, e.ready = none ∧ e.mask = maskOf ok ∧ ∀ p ∈ parts, e.tag = p.tag) ∧
    { curGroup t with lanes := (curGroup s).lanes, pend := (curGroup s).pend } = curGroup s ∧
    { curTeam t with groups := (curTeam s).groups } = curTeam s ∧ (∀ j, j ≠ s.cur.group → groupAt (curTeam t) j = groupAt (curTeam s) j) ∧
    (∀ j, j ≠ s.cur.tx → teamAt (curCore t) j = teamAt (curCore s) j) ∧ (bad ≠ [] → BadAccess s t bad cause) ∧
    (bad = [] → OnlyCore s.cur.core s t ∧
      { curCore t with teams := (curCore s).teams, remotes := (curCore s).remotes, remoteNo := (curCore s).remoteNo } = curCore s)) ∧
  ((freeTrap (curCore s)).isSome → bad = [] → ¬clear → ∃ t, exec i s = .next t ∧ Parks s t act ⟨.limitConflict, 0, 0, 0⟩)

/-- R225, R226: OLD and OST act on the reservation that each lane's address names: the lanes whose address passes the range, alignment and size checks act in ascending
lane order at byte 16·BASE16 + o of the operand buffer; the others park and commit nothing. The other bytes of the window stay but for those of a drain's committed rows that R324
leaves undefined after the write (log entry 45). -/
def Obligations.OperandBufferWords : Prop := ∀ (o : Ops) (z : Size) (s : State), (freeTrap (curCore s)).isSome →
  let act := active s o.g
  let n := sizeBytes z
  let addr := fun l => src s o.a l + src s o.b l
  let off := fun l => ((addr l).extractLsb' 0 20).toNat
  let rsv := fun l => if (addr l).extractLsb' 24 8 = 0 ∧ ((addr l).extractLsb' 20 4).toNat < curNR s
    then Tbl.get none (curTeam s).rsv ((addr l).extractLsb' 20 4).toNat else none
  let cause := fun l => match rsv l with
    | none => some TrapCode.bounds
    | some e => if off l % n ≠ 0 then some .misalign else if 16 * e.size16 < off l + n then some .bounds else none
  let at_ := fun l => match rsv l with | some e => 16 * e.base16 + off l | none => 0
  let ok := act.filter fun l => (cause l).isNone
  let bad := act.filter fun l => (cause l).isSome
  let ob := fun (u : State) b => (Tbl.get 0 (curTeam u).ob b : Byte)
  let bytes := ok.flatMap fun l => (List.range n).map (at_ l + ·)
  (∃ t, exec (.old o z) s = .next t ∧ Acted s t o.d act ok bad (some (sizeRegs z, fun l => loaded z (quadAt (ob s) (at_ l)))) ∧ (∀ b, ob t b = ob s b) ∧
    (bad = [] → LanesOnly s t) ∧ (bad ≠ [] → BadAccess s t bad cause)) ∧
  (∃ t, exec (.ost o z) s = .next t ∧ Acted s t o.d act ok bad none ∧
    (∀ b, b ∈ bytes ∨ Kept s s.cur.core s.cur.tx bytes true b → ob t b = after (fun l m => stored m (at_ l) n (storeSource s z o.c l)) (ob s) ok b) ∧
    (bad = [] → (curTeam s).ctx = none → WindowOnly s t) ∧ (bad ≠ [] → BadAccess s t bad cause))

namespace Sys2Proof.Claims

/-! ## Barriers and waits -/

/-- The lanes of the issue go on, and no other lane of the group changes. -/
def LanesGoOn (s t : State) : Prop := (∀ l ∈ subLanes s, MovesTo (lane s l) (lane t l) (curNext s)) ∧ ∀ l, l ∉ subLanes s → lane t l = lane s l

/-- The issuing group waits at its word, and nothing else changes (R177). -/
structure Waits (s t : State) (act : List Nat) (k : WaitKind) : Prop where
  frame : OnlyGroup s.cur.core s.cur.tx s.cur.group s t
  wait : (curGroup t).wait = some ⟨k, s.time, s.cur.lanes, maskOf act, s.cur.pc, s.cur.len⟩
  rest : { curGroup t with wait := (curGroup s).wait } = curGroup s

/-- The alignment and window check of an access of `n` bytes aligned to `k` bytes. -/
def rangeCause (k n w a : Nat) : Option TrapCode := if a % k ≠ 0 then some .misalign else if w < a + n then some .bounds else none

/-- A barrier of the issuing team, and the record of the issuing group for it (R196). -/
def bar (s : State) (n : Fin 16) : Barrier := Tbl.get {} (curTeam s).bars n
def barRecord (s : State) (n : Fin 16) : Nat := Tbl.get 0 (curGroup s).w n

/-- The groups that wait on a barrier. -/
def WaitsOn (t : Team) (j n : Nat) : Prop := j < t.ngroups ∧ ∃ w ph, (groupAt t j).wait = some w ∧ w.kind = .barrier n ph

/-- A barrier has opened: arrivals 0 and the next phase; every group that waited on it, and `self` if given, now waits for its wave; and progress counts are reset
(R181, R196, R198). -/
structure Opened (s t : State) (n : Fin 16) (e : Nat) (self : Option Nat) : Prop where
  bar : bar t n = ⟨0, e, ((bar s n).ph + 1) % 2 ^ 32⟩
  waiters : ∀ j, WaitsOn (curTeam s) j n ∨ some j = self → ∃ w, (groupAt (curTeam t) j).wait = some w ∧ w.kind = .wave
  records : ∀ j, WaitsOn (curTeam s) j n ∨ some j = self → Tbl.get 0 (groupAt (curTeam t) j).w n = 0
  others : ∀ j, ¬WaitsOn (curTeam s) j n → some j ≠ self → (groupAt (curTeam t) j).wait = (groupAt (curTeam s) j).wait
  progress : ∀ j, (groupAt (curTeam t) j).progress = 0

/-- Beside one barrier and the groups' waits a word changed nothing of its team's windows, entries, commands or other barriers, and nothing outside the team. -/
structure BarrierOnly (s t : State) (n : Fin 16) : Prop where
  frame : OnlyTeam s.cur.core s.cur.tx s t
  bars : ∀ m : Fin 16, m ≠ n → bar t m = bar s m
  team : { curTeam t with groups := (curTeam s).groups, bars := (curTeam s).bars, waves := (curTeam s).waves, openedAt := (curTeam s).openedAt } = curTeam s

end Sys2Proof.Claims

/-! ## Barriers, waits and fences -/

/-- R181, R196, R197, R198: ARRIVE, WAITBAR and BAR act once for the group. An arrival counts and records the phase, and the arrival that reaches the target opens the
barrier; a count above the group count, or one that differs within a phase, is BOUNDS. A wait ends at once where the phase it waits for has passed. -/
def Obligations.BarrierWords : Prop := ∀ (g : Guard) (n : Fin 16) (c : Spec) (s : State),
  (freeTrap (curCore s)).isSome → s.cur.group < (curTeam s).ngroups → (curGroup s).ended = false → (curGroup s).wait = none →
  let cnt := (usp s c).toNat
  let b := bar s n
  let live := (List.range (curTeam s).ngroups).filter fun j => !(groupAt (curTeam s) j).ended
  let opens := (if cnt = 0 then live.length else cnt) ≤ b.a + 1
  let refused := (curTeam s).ngroups < cnt ∨ (b.a ≠ 0 ∧ b.e ≠ cnt)
  let phase := if barRecord s n = 0 then b.ph else barRecord s n - 1
  GroupOnce s (exec (.arrive g n c) s) g (fun act t =>
    (refused → Parks s t act ⟨.bounds, 0, 0, 0⟩) ∧
    (¬refused → LanesGoOn s t ∧ BarrierOnly s t n ∧ barRecord t n = b.ph + 1 ∧ (curGroup t).wait = none) ∧
    (¬refused → opens → Opened s t n cnt none) ∧
    (¬refused → ¬opens → bar t n = ⟨b.a + 1, cnt, b.ph⟩)) ∧
  GroupOnce s (exec (.bar g n c) s) g (fun act t =>
    (refused → Parks s t act ⟨.bounds, 0, 0, 0⟩) ∧
    (¬refused → LanesGoOn s t ∧ BarrierOnly s t n) ∧
    (¬refused → opens → Opened s t n cnt (some s.cur.group)) ∧
    (¬refused → ¬opens → bar t n = ⟨b.a + 1, cnt, b.ph⟩ ∧ barRecord t n = b.ph + 1 ∧ ∃ w, (curGroup t).wait = some w ∧ w.kind = .barrier n b.ph)) ∧
  GroupOnce s (exec (.waitbar g n) s) g (fun _ t =>
    LanesGoOn s t ∧ OnlyGroup s.cur.core s.cur.tx s.cur.group s t ∧
    (b.ph = phase → barRecord t n = barRecord s n ∧ ∃ w, (curGroup t).wait = some w ∧ w.kind = .barrier n phase) ∧
    (b.ph ≠ phase → barRecord t n = 0 ∧ (curGroup t).wait = none))

/-- R227, R228, R251, R252, R276, R294: WAITC goes on where its counter has reached its target, and else waits with its bound; CNTSET writes the counter, and no other byte, where no command
that names it, and was issued before the CNTSET came to be the selected word, still owes its increment, and else waits for exactly those; a FENCE goes on where its scope's conditions hold, and else waits; OPFENCE places the operand-buffer writes
made so far before the group's later captures. The model's own choices here are those of log entries 30 and 31. -/
def Obligations.CounterAndFenceWords : Prop :=
  (∀ (g : Guard) (c v : Spec) (bound : Word) (s : State), (freeTrap (curCore s)).isSome →
    let a := (usp s c).toNat
    let before := match (curGroup s).cntMark with | some (p, n) => if p = s.cur.pc then n else (curCore s).serialAt | none => (curCore s).serialAt
    let owing := ((curTeam s).issued.filter fun i => i.ctr == some a && !i.incremented && decide (i.serial < before)).map (·.serial)
    GroupOnce s (exec (.waitc g c v bound) s) g (fun act t => match accessCause 4 (curWS s) a with
      | some code => Parks s t act ⟨code, 0, BitVec.ofNat 32 a, 0⟩
      | none => if (usp s v).toNat ≤ (spWord s a).toNat then GoesOn s t else Waits s t act (.waitc a (usp s v) bound.toNat 0 (curCore s).serial)) ∧
    GroupOnce s (exec (.cntset g c v) s) g (fun act t => match accessCause 4 (curWS s) a with
      | some code => Parks s t act ⟨code, 0, BitVec.ofNat 32 a, 0⟩
      | none => (owing ≠ [] → Waits s t act (.cntset a (usp s v) owing)) ∧
          (owing = [] → LanesGoOn s t ∧ WindowOnly s t ∧ spWord t a = usp s v ∧ ∀ b, b < a ∨ a + 4 ≤ b → spByte t b = spByte s b))) ∧
  (∀ (g : Guard) (sc : Scope) (s : State),
    let remote := fun (act : List Nat) => ∃ r ∈ (curCore s).remotes, r.tx = s.cur.tx ∧ r.group = s.cur.group ∧ (∀ z, r.op ≠ .ld z) ∧ ∃ e ∈ r.lanes, e.lane ∈ act
    let covered := fun (act : List Nat) => ((curTeam s).issued.filter fun i => i.wback || (i.group == s.cur.group && i.mask &&& maskOf act != 0)).map (·.serial)
    let met := fun act => ∀ i ∈ (curTeam s).issued, i.serial ∈ covered act → fenceMeets s s.cur.core s.cur.tx sc i = true
    GroupOnce s (exec (.fence g sc) s) g (fun act t => match sc with
      | .thread | .group | .team => GoesOn s t
      | .cluster => (¬remote act → GoesOn s t) ∧ (remote act → Waits s t act (.fence sc (covered act)))
      | _ => (¬remote act ∧ met act → GoesOn s t) ∧ (¬(¬remote act ∧ met act) → Waits s t act (.fence sc (covered act)))) ∧
    GroupOnce s (exec (.opfence g) s) g (fun _ t => LanesGoOn s t ∧ OnlyGroup s.cur.core s.cur.tx s.cur.group s t ∧
      { curGroup t with lanes := (curGroup s).lanes, obFence := (curGroup s).obFence } = curGroup s ∧ (curGroup t).obFence = (curTeam s).obNo))

/-- R222 to R224, R293, R307: RSV writes the entry from its record after the checks in their order and RLS clears it, once no MMA still needs it; DPLD loads a slot of the drain store
from the scratchpad once no drain still needs the old program. The model's own choices here are those of log entry 54. -/
def Obligations.ReservationAndProgramWords : Prop := ∀ (g : Guard) (a b : Spec) (s : State) (d : Descr), (freeTrap (curCore s)).isSome →
  teamDescr s (curTeam s) = some d → s.cur.tx ≠ 2 →
  let rid := (usp s a).toNat
  let rec_ := (usp s b).toNat
  let used := ∃ m ∈ (curCtx s).mmas, (m.ridA = rid ∨ m.ridB = rid) ∧ m.captured = false
  let entry := fun (u : State) n => Tbl.get none (curTeam u).rsv n
  let r := rsvRec ((quadAt (spByte s) rec_).toNat)
  let kept := fun (t : State) => LanesGoOn s t ∧ OnlyTeam s.cur.core s.cur.tx s t ∧ (∀ n, n ≠ rid → entry t n = entry s n) ∧ (∀ x, spByte t x = spByte s x) ∧
    (∀ j, j ≠ s.cur.group → groupAt (curTeam t) j = groupAt (curTeam s) j)
  GroupOnce s (exec (.rsv g a b) s) g (fun act t =>
    (used → Waits s t act (.rsv rid rec_)) ∧
    (¬used → if descrNR d ≤ rid then Parks s t act ⟨.bounds, 0, 0, 0⟩
      else match rangeCause 16 16 (descrWS d) rec_ with
      | some code => Parks s t act ⟨code, 0, BitVec.ofNat 32 rec_, 0⟩
      | none => match r.check (descrWO d) with
        | some code => Parks s t act ⟨code, 0, 0, 0⟩
        | none => kept t ∧ entry t rid = some r ∧ Tbl.get 0 (curTeam t).rsvReady rid = cyc s s.cur.core + 12)) ∧
  GroupOnce s (exec (.rls g a) s) g (fun act t =>
    (used → Waits s t act (.rls rid)) ∧
    (¬used → if descrNR d ≤ rid then Parks s t act ⟨.bounds, 0, 0, 0⟩ else kept t ∧ entry t rid = none)) ∧
  GroupOnce s (exec (.dpld g a b) s) g (fun act t =>
    let slot := Tbl.get 0 (curTeam s).slots rid
    let busy := ∃ e ∈ (curCtx s).drains, e.prog = rid ∧ e.seq ≤ (curCtx s).seq ∧ e.image = none
    if slot = 0 then Parks s t act ⟨.bounds, 0, 0, 0⟩
    else match rangeCause 16 128 (descrWS d) rec_ with
      | some code => Parks s t act ⟨code, 0, BitVec.ofNat 32 rec_, 0⟩
      | none => (busy → Waits s t act (.dpld rid rec_ (curCtx s).seq)) ∧
        (¬busy → LanesGoOn s t ∧ OnlyCore s.cur.core s t ∧ (∀ x, spByte t x = spByte s x) ∧
          (∀ n, n ≠ slot - 1 → Tbl.get [] (curCore t).drainStore n = Tbl.get [] (curCore s).drainStore n) ∧
          (Tbl.get [] (curCore t).drainStore (slot - 1)).length = 32 ∧
          ∀ i < 32, (Tbl.get [] (curCore t).drainStore (slot - 1)).getD i 0 = spWord s (rec_ + 4 * i)))

namespace Sys2Proof.Claims

/-! ## Matrix words -/

/-- Only the issuing team's matrix context changed beside the issuing lanes, which went on (R6). -/
structure ContextGoesOn (s t : State) : Prop where
  lanes : LanesGoOn s t
  group : { curGroup t with lanes := (curGroup s).lanes } = curGroup s
  groups : ∀ j, j ≠ s.cur.group → groupAt (curTeam t) j = groupAt (curTeam s) j
  team : { curTeam t with groups := (curTeam s).groups } = curTeam s
  teams : ∀ j, j ≠ s.cur.tx → teamAt (curCore t) j = teamAt (curCore s) j
  core : { curCore t with teams := (curCore s).teams } = curCore s
  cores : ∀ j, j ≠ s.cur.core → getCore t j = getCore s j
  pairs : ∀ j, j ≠ pairOf s.cur.core → getPair t j = getPair s j
  device : { t with cores := s.cores, pairs := s.pairs } = s

/-- The same of a word whose tile is then pending: the group's scoreboard and the core's count of accesses move on too (R177). -/
structure ContextAndPendsGoOn (s t : State) : Prop where
  lanes : LanesGoOn s t
  group : { curGroup t with lanes := (curGroup s).lanes, pend := (curGroup s).pend } = curGroup s
  groups : ∀ j, j ≠ s.cur.group → groupAt (curTeam t) j = groupAt (curTeam s) j
  team : { curTeam t with groups := (curTeam s).groups } = curTeam s
  teams : ∀ j, j ≠ s.cur.tx → teamAt (curCore t) j = teamAt (curCore s) j
  core : { curCore t with teams := (curCore s).teams, remoteNo := (curCore s).remoteNo } = curCore s
  cores : ∀ j, j ≠ s.cur.core → getCore t j = getCore s j
  pairs : ∀ j, j ≠ pairOf s.cur.core → getPair t j = getPair s j
  device : { t with cores := s.cores, pairs := s.pairs } = s

/-- The tile name of a field: its constant, or a uniform value up to 7 (R298). -/
def nameOf (s : State) (a : Spec) : Option Nat := match a with | .t n => some n.val | _ => if 7 < (usp s a).toNat then none else some (usp s a).toNat

/-- The pair of a name, the lowest free pair, and an element of a pair, in a context (R290, R291). -/
def pairFor (c : Ctx) (n : Nat) : Option Nat := Tbl.get none c.names n
def PairFree (c : Ctx) (p : Nat) : Prop := (∀ n < 8, pairFor c n ≠ some p) ∧ (∀ m ∈ c.mmas, m.pair = p → m.st = .retired) ∧ (∀ x ∈ c.ops, x.pair ≠ p) ∧ ∀ d ∈ c.drains, d.pair ≠ p
def LowestFree (c : Ctx) (p : Nat) : Prop := p < 12 ∧ PairFree c p ∧ ∀ q < p, ¬PairFree c q
def element (c : Ctx) (p i j : Nat) : Word := Tbl.get 0 (Tbl.get [] c.tiles p) (32 * i + j)

/-- A name denotes pair `p` in `t`: the pair it had, or, where the word needs a fresh one, the lowest-numbered free pair, which reads +0.0 throughout; other names keep theirs
(R291). -/
structure Denotes (c c' : Ctx) (n p : Nat) (fresh : Bool) : Prop where
  same : fresh = false → pairFor c n ≠ none → pairFor c n = some p ∧ ∀ q i j, element c' q i j = element c q i j
  fresh : fresh = true ∨ pairFor c n = none → LowestFree c p ∧ (∀ i j, element c' p i j = 0) ∧ ∀ q, q ≠ p → ∀ i j, element c' q i j = element c q i j
  others : ∀ k, k ≠ n → pairFor c' k = pairFor c k

/-- Whether a word must first wait for a free pair. -/
def Needs (c : Ctx) (n : Nat) (fresh : Bool) : Prop := (fresh = true ∨ pairFor c n = none) ∧ ∀ p < 12, ¬PairFree c p

end Sys2Proof.Claims

/-! ## Matrix words -/

/-- R287, R290, R291, R298, R299: TZERO maps its name to the lowest free pair, all zero; TSET queues the row's new values for the pair of its name; TMOV queues a read of the row for its
lanes, whose last-result files shift at once. A tile value above 7, or a TMOV of an unmapped name, is BOUNDS; a word that finds no free pair leaves the state as it is. The model's own choices here are those of log entries 49 and 109. -/
def Obligations.TileWords : Prop := ∀ (g : Guard) (d a b : Spec) (row : BitVec 5) (s : State), (freeTrap (curCore s)).isSome →
  let c := curCtx s
  GroupOnce s (exec (.tzero g a) s) g (fun act t => match nameOf s a with
    | none => Parks s t act ⟨.bounds, 0, 0, 0⟩
    | some n => (Needs c n true → t = s) ∧ (¬Needs c n true → ContextGoesOn s t ∧ ∃ p, pairFor (curCtx t) n = some p ∧ Denotes c (curCtx t) n p true)) ∧
  GroupOnce s (exec (.tset g a b row) s) g (fun act t => match nameOf s a with
    | none => Parks s t act ⟨.bounds, 0, 0, 0⟩
    | some n => (Needs c n false → t = s) ∧ (¬Needs c n false → ContextAndPendsGoOn s t ∧ ∃ p x, pairFor (curCtx t) n = some p ∧ Denotes c (curCtx t) n p false ∧
        (curCtx t).ops = c.ops ++ [x] ∧ x.pair = p ∧ x.row = row.toNat ∧ x.set = some (act.map fun l => (l, spec s b l)) ∧ x.seq = c.seq + 1 ∧
        (curCtx t).seq = c.seq + 1 ∧ ∃ e, (curGroup t).pend = (curGroup s).pend ++ [e] ∧ e.res = .t n ∧ e.ready = none ∧ e.tag = x.tag)) ∧
  (∃ t, exec (.tmov g d a row) s = .next t ∧
    (active s g = [] → LanesOnly s t ∧ ∀ l ∈ subLanes s, IdlesShifting (lane s l) (lane t l) d (curNext s)) ∧
    (active s g ≠ [] → match (nameOf s a).bind (pairFor c) with
      | none => (∀ l ∈ active s g, lane t l = { lane s l with st := .parked }) ∧ Recorded s t (active s g) ⟨.bounds, 0, 0, 0⟩ ∧
          ∀ l ∈ subLanes s, l ∉ active s g → IdlesShifting (lane s l) (lane t l) d (curNext s)
      | some p => (∀ l ∈ subLanes s, IdlesShifting (lane s l) (lane t l) d (curNext s)) ∧ (∀ l, l ∉ subLanes s → lane t l = lane s l) ∧
          ∃ x, (curCtx t).ops = c.ops ++ [x] ∧ x.pair = p ∧ x.row = row.toNat ∧ x.set = none ∧ x.dst = d ∧ x.lanes.map (·.1) = active s g ∧ x.seq = c.seq + 1))

/-- R284, R286, R287, R291, R295, R296, R319: an MMA that finds a latch and its pair, and whose operands pass the checks, queues with both records as they stand, its gather lasting 8 cycles
from two cycles after issue or the end of the one before; with a drain program its name is unmapped and the drain queued behind it. Its checks come in order: A before B, then the
pairing and the charge, then the place of k, then the lines; and where no latch is free it leaves the state as it is. The model's own choices here are those of log entries 49 and 109. -/
def Obligations.MmaWords : Prop :=
  (∀ (g : Guard) (a ra rb : Spec) (v : Fin 1536) (e : MmaExt) (s : State) (n k : Nat) (A B : RsvRec) (gr : Grid),
    let c := curCtx s
    let rid := fun (x : Spec) => (usp s x).toNat
    let rows := ((List.range 32).map fun l => (spec s (.v v) l).toNat) ++ (List.range 32).map fun l => (spec s (specPlus (.v v) 1) l).toNat
    let cols := (List.range 32).map fun j => 32 * e.bcol.toNat + j
    nameOf s a = some n → curGrid s = some gr → rid ra < curNR s → rid rb < curNR s → Tbl.get none (curTeam s).rsv (rid ra) = some A → Tbl.get none (curTeam s).rsv (rid rb) = some B →
    pairingK A B = some k → pairingPj A B ≤ gr.kernel.mmaCharge → e.ak.toNat % k = 0 → e.bk.toNat % k = 0 →
    (∀ q ∈ rows, A.lineOk q e.ak.toNat k) → (∀ q ∈ cols, B.lineOk q e.bk.toNat k) →
    (∀ p, e.dprog = some p → (entryCopies (curCore s) (curTeam s) (curNR s) p none).isSome) →
    ((c.mmas.filter fun m => !m.captured).length < 2) → ¬Needs c n e.new →
    GroupOnce s (exec (.mma g a ra rb v e) s) g fun _ t => ContextGoesOn s t ∧ ∃ p m,
      Denotes c (curCtx t) n p e.new ∧ (curCtx t).gatherEnd = max (cyc s s.cur.core + 2) c.gatherEnd + 8 ∧
      m.st = .gathering (max (cyc s s.cur.core + 2) c.gatherEnd + 8) ∧ m.pair = p ∧ m.recA = A ∧ m.recB = B ∧ m.rows = rows ∧ m.ak = e.ak.toNat ∧ m.bk = e.bk.toNat ∧
      m.bcol = e.bcol.toNat ∧ m.k = k ∧ m.group = s.cur.group ∧ m.fence = (curGroup s).obFence ∧ m.obNo = (curTeam s).obNo ∧ m.seq = c.seq + 1 ∧
      (curCtx t).mmas.getLast? = some m ∧ (curCtx t).mmas.length = c.mmas.length + 1 ∧
      match e.dprog with
      | none => pairFor (curCtx t) n = some p ∧ (curCtx t).drains = c.drains
      | some q => pairFor (curCtx t) n = none ∧ ∃ d, (curCtx t).drains = c.drains ++ [d] ∧ d.pair = p ∧ d.prog = q.val ∧ d.sc = none ∧ d.keep = false ∧
          some d.copies = entryCopies (curCore s) (curTeam s) (curNR s) q none) ∧
  (∀ (g : Guard) (a ra rb : Spec) (v : Fin 1536) (e : MmaExt) (s : State) (n : Nat) (gr : Grid), (freeTrap (curCore s)).isSome →
    nameOf s a = some n → curGrid s = some gr → ¬Needs (curCtx s) n e.new →
    let c := curCtx s
    let full := 2 ≤ (c.mmas.filter fun m => !m.captured).length
    let entry := fun (x : Spec) => if (usp s x).toNat < curNR s then Tbl.get none (curTeam s).rsv (usp s x).toNat else none
    let rows := ((List.range 32).map fun l => (spec s (.v v) l).toNat) ++ (List.range 32).map fun l => (spec s (specPlus (.v v) 1) l).toNat
    let cols := (List.range 32).map fun j => 32 * e.bcol.toNat + j
    GroupOnce s (exec (.mma g a ra rb v e) s) g fun act t =>
      let parks := fun (x : TrapCode) => Parks s t act ⟨x, 0, 0, 0⟩
      (full → t = s) ∧ (¬full →
        match entry ra, entry rb with
        | none, _ => parks .bounds
        | some A, r => if A.kind = 3 then parks .format else match r with
          | none => parks .bounds
          | some B => if B.kind = 3 then parks .format else match pairingK A B with
            | none => parks .format
            | some k =>
              if gr.kernel.mmaCharge < pairingPj A B then parks .format
              else if e.ak.toNat % k ≠ 0 ∨ e.bk.toNat % k ≠ 0 then parks .misalign
              else (¬((∀ q ∈ rows, A.lineOk q e.ak.toNat k) ∧ ∀ q ∈ cols, B.lineOk q e.bk.toNat k) → parks .bounds)))

/-- R68, R291, R297, R318, R320: DRAIN queues its drain of the pair that its name maps to, with the entries it needs copied at issue, and unmaps the name unless KEEP; MMAW goes on where every MMA of
its group has ended capture, and DRAINW where every earlier drain has committed its last row; else they wait. A drain with an unmapped name, an entry it cannot use, a reservation id above 15 or a base beyond its
21 bits is BOUNDS. The model's own choices here are those of log entries 53 and 132. -/
def Obligations.DrainAndMatrixWaitWords : Prop := ∀ (g : Guard) (a sb r : Spec) (e : DrainExt) (s : State), (freeTrap (curCore s)).isSome → debugging s = false → s.cur.tx ≠ 2 →
  let c := curCtx s
  let sc := if r = .zero then none else some (usp s r).toNat
  let copies := entryCopies (curCore s) (curTeam s) (curNR s) e.dprog.val sc
  let inRange := (usp s sb).toNat < 2 ^ 21 ∧ ∀ n ∈ sc, n ≤ 15
  let captured := ∀ m ∈ c.mmas, m.group = s.cur.group → m.captured = true
  GroupOnce s (exec (.drain g a sb r e) s) g (fun act t => match nameOf s a with
    | none => Parks s t act ⟨.bounds, 0, 0, 0⟩
    | some n => if ¬inRange then Parks s t act ⟨.bounds, 0, 0, 0⟩ else match pairFor c n, copies with
      | some p, some cs => ContextGoesOn s t ∧ pairFor (curCtx t) n = (if e.keep then some p else none) ∧ (∀ k, k ≠ n → pairFor (curCtx t) k = pairFor c k) ∧
          ∃ d, (curCtx t).drains = c.drains ++ [d] ∧ d.pair = p ∧ d.prog = e.dprog.val ∧ d.sb = (usp s sb).toNat ∧ d.sc = sc ∧ d.rpitch = e.rpitch.toNat ∧
            d.cpitch = e.cpitch.toNat ∧ d.keep = e.keep ∧ d.copies = cs ∧ d.group = s.cur.group ∧ d.pc = s.cur.pc ∧ d.seq = c.seq + 1
      | _, _ => Parks s t act ⟨.bounds, 0, 0, 0⟩) ∧
  GroupOnce s (exec (.mmaw g) s) g (fun act t => (captured → ContextGoesOn s t ∧ ∀ m ∈ (curCtx t).mmas, m.group = s.cur.group → m.waited = true) ∧
    (¬captured → Waits s t act .mmaw)) ∧
  GroupOnce s (exec (.drainw g) s) g (fun act t => ((∀ d ∈ c.drains, c.seq < d.seq) → GoesOn s t) ∧ (¬(∀ d ∈ c.drains, c.seq < d.seq) → Waits s t act (.drainw c.seq)))

namespace Sys2Proof.Claims

/-! ## Engine words -/

/-- A word gave the core's copy engine one command `c` and went on: the queue grew at its end, its owed tick moved on, and nothing of any window changed (R248, R259). -/
structure Queued (s t : State) (c : Cmd) : Prop where
  lanes : LanesGoOn s t
  queue : (curCore t).copyq = (curCore s).copyq ++ [c]
  serial : c.serial = (curCore s).serial ∧ (curCore t).serial = (curCore s).serial + 1
  owed : (curCore t).owedC = c.owed ∧ c.issued = tick s
  place : c.tx = s.cur.tx ∧ c.group = s.cur.group ∧ c.pc = s.cur.pc
  sp : ∀ b, spByte t b = spByte s b
  groups : ∀ j, j ≠ s.cur.group → groupAt (curTeam t) j = groupAt (curTeam s) j
  teams : ∀ j, j ≠ s.cur.tx → teamAt (curCore t) j = teamAt (curCore s) j
  core : { curCore t with teams := (curCore s).teams, copyq := (curCore s).copyq, serial := (curCore s).serial, owedC := (curCore s).owedC } = curCore s
  cores : ∀ j, j ≠ s.cur.core → getCore t j = getCore s j
  device : { t with cores := s.cores, grids := s.grids } = s

end Sys2Proof.Claims

/-! ## Engine words -/

/-- R243, R248, R253, R259: COPY and FATOM do nothing while the queue is full; a command that passes its checks joins the end of the queue, its owed tick E(c) after the queue's; FETCH makes its
group arrive and wait for the team step. A command that fails a check traps. The model's own choices here are those of log entries 32 and 109. -/
def Obligations.EngineWords : Prop := ∀ (g : Guard) (lo sh b ctr old : Spec) (x y d : Fin 128) (e : CopyExt) (f : FatomExt) (s : State) (gr : Grid),
  (freeTrap (curCore s)).isSome → curGrid s = some gr →
  let die := dieOf s.cur.core
  let full := 32 ≤ (curCore s).copyq.length ∨ ∃ c ∈ (curCore s).copyq, isBlocked c = true
  let opt := fun (a : Spec) => if a = .zero then none else some (usp s a).toNat
  let share := shareOf gr.descr.bwc (refreshFactor s die)
  let owed := fun bytes pages => max (tick s) (curCore s).owedC + engineTicks s gr.vi die bytes share pages
  let shape := shapeRec (readBytes (curTeam s).sp (usp s sh).toNat 128)
  let coords := (List.range shape.dims).map fun k => (usp s (specPlus (.g x) k)).toInt
  let addr := (spec64 s (.g y) 0).toNat
  let n := if f.w64 then 8 else 4
  let val := fun (a : Spec) => if f.w64 then spec64 s a 0 else (usp s a).setWidth 64
  GroupOnce s (exec (.copy g lo sh x ctr e) s) g (fun act t => (full → t = s) ∧ (¬full →
    match copyCheck1 (curWS s) (usp s sh).toNat (opt ctr) with
    | some c => Parks s t act c
    | none =>
      let lc := (usp s lo).toNat
      let ent := if lc < curNR s then Tbl.get none (curTeam s).rsv lc else none
      let off := 16 * e.off16.toNat
      let room := if e.lk then ent.bind (fun r => if 16 * r.size16 < off then none else some (16 * r.size16 - off)) else if curWS s < lc then none else some (curWS s - lc)
      let base := if e.lk then (match ent with | some r => 16 * r.base16 + off | none => 0) else lc
      match copyCheck2 shape e lc coords room with
      | some c => Parks s t act c
      | none => if overCharge gr s.cur.pc shape then Parks s t act ⟨.bounds, 0, 0, 0⟩ else ∃ c, Queued s t c ∧ c.kind = .copy shape coords e.store e.lk base ∧
          c.ctr = opt ctr ∧ c.sys = e.sys ∧ c.mask = maskOf act ∧ c.st = .queued ∧
          c.owed = owed (boxBytes shape) (pagesOf ((((List.range (prod shape.bs)).map (copyElem shape coords base)).filter (·.inb)).map (·.va))))) ∧
  GroupOnce s (exec (.fatom g old y b ctr f) s) g (fun act t => (full → t = s) ∧ (¬full →
    match fatomCheck (curWS s) n addr (opt old) (opt ctr) with
    | some c => Parks s t act c
    | none => ∃ c, Queued s t c ∧ c.kind = .fatom f.op f.w64 addr (val b) (val f.cmp) (opt old) ∧ c.ctr = opt ctr ∧ c.sys = f.sys ∧ c.mask = maskOf act ∧
        c.st = .queued ∧ c.owed = owed n [addr / 65536])) ∧
  GroupOnce s (exec (.fetch g d) s) g (fun act t => LanesGoOn s t ∧ OnlyGroup s.cur.core s.cur.tx s.cur.group s t ∧ (curGroup t).arrived = true ∧
    (∃ w, (curGroup t).wait = some w ∧ w.kind = .fetch d.val ∧ w.mask = maskOf act ∧ w.pc = s.cur.pc) ∧
    { curGroup t with lanes := (curGroup s).lanes, wait := (curGroup s).wait, arrived := (curGroup s).arrived } = curGroup s)

namespace Sys2Proof.Claims

/-! ## System words -/

/-- A vector register. -/
def IsVector (d : Spec) : Prop := (∃ n, d = .v n) ∨ ∃ n, d = .o n

/-- The kernel's special register of a number, in lane `l` of the issuing group (R51). -/
def kernelReg (s : State) (n l : Nat) : Word :=
  match n with
  | 0 => BitVec.ofNat 32 l
  | 1 => BitVec.ofNat 32 s.cur.group
  | 2 => BitVec.ofNat 32 (curGroup s).role
  | 3 => BitVec.ofNat 32 (curTeam s).index
  | 4 => BitVec.ofNat 32 s.cur.core
  | 5 => BitVec.ofNat 32 (clusterOnDie s.cur.core)
  | 6 => BitVec.ofNat 32 (s.cur.core / 108)
  | 7 => (curTeam s).stile
  | 8 => match curGrid s with | some gr => gr.qid.extractLsb' 0 32 | none => 0
  | 9 => match (lane s l).meet with | some m => BitVec.ofNat 32 m | none => 0xFFFFFFFF
  | 10 => (lane s l).flags
  | _ => BitVec.ofNat 32 (curGroup s).budget

/-- The firmware agent's register of a number, on the issuing core. -/
def agentReg (s : State) (n : Nat) : Word := Tbl.get 0 (curCore s).fwRegs n

/-- A word traps for its active lanes with one cause. -/
def Traps (s : State) (r : Out) (g : Guard) (c : Cause) : Prop := GroupOnce s r g fun act t => Parks s t act c

/-- What RETT does to a lane of a record whose word ends at `past` (R390). -/
def returned (r : TrapRec) (k : RettAct) (past : Nat) (m : Lane) : Lane :=
  match k with
  | .replay =>
    if r.code = .bkpt ∧ r.viaReg = false then { m with st := .free, pc := past }
    else if r.code = .watch then { m with st := .free, noWatch := some r.detail } else { m with st := .free }
  | .skip => { m with st := .free, pc := past }
  | .end_ => { m with st := .exited }

end Sys2Proof.Claims

/-! ## System words -/

/-- R51, R52, R70, R85, R389, R390: SREAD gives a kernel the registers of the table, and the agent its own numbers too; SWRITE replaces S_FPFLAGS in each active lane, and gives the agent its own numbers; a
number that the reader or writer may not use is PRIV. An SREAD of a per-lane register into a g register is refused at decode with detail 6, and an unassigned number with detail 7. RETT is
PRIV outside the agent, BOUNDS on a free record, and else frees the record and returns its lanes: REPLAY leaves their PCs, SKIP moves them past the word they parked at, END ends them. The model's own
choices here are those of log entries 9 and 117. -/
def Obligations.SpecialRegisterAndReturnWords : Prop :=
  (∀ (g : Guard) (d a : Spec) (n : BitVec 11) (s : State) (p : Place),
    let number := n.toNat
    let agents := 0x100 ≤ number ∧ number ≤ 0x3FF
    let perLane := number = 0 ∨ number = 9 ∨ number = 10
    let room := (freeTrap (curCore s)).isSome
    -- SREAD
    (number ≤ 11 → IsVector d → Value32 s (exec (.sread g d n) s) g d (kernelReg s number) quiet) ∧
    (number ≤ 11 → ¬perLane → ¬NotG d → Uniform s (exec (.sread g d n) s) g d (kernelReg s number 0)) ∧
    (agents → inAgent s = true → IsVector d → Value32 s (exec (.sread g d n) s) g d (fun _ => agentReg s number) quiet) ∧
    (agents → inAgent s = true → ¬NotG d → Uniform s (exec (.sread g d n) s) g d (agentReg s number)) ∧
    (agents → inAgent s = false → room → ¬NotG d → Traps s (exec (.sread g d n) s) g ⟨.priv, 0, 0, 0⟩) ∧
    (agents → inAgent s = false → room → IsVector d → ∃ t, exec (.sread g d n) s = .next t ∧
      (∀ l ∈ active s g, lane t l = { lane s l with st := .parked }) ∧
      (∀ l ∈ subLanes s, l ∉ active s g → IdlesShifting (lane s l) (lane t l) d (curNext s)) ∧ (∀ l, l ∉ subLanes s → lane t l = lane s l) ∧
      (active s g = [] → LanesOnly s t) ∧ (active s g ≠ [] → Recorded s t (active s g) ⟨.priv, 0, 0, 0⟩)) ∧
    (perLane → ¬NotG d → decodeWord p (encode (.sread g d n)) = .error 6) ∧
    (11 < number → ¬agents → IsVector d ∨ ¬NotG d → decodeWord p (encode (.sread g d n)) = .error 7) ∧
    -- SWRITE
    (number = 10 → Lanes s (exec (.swrite g n a) s) fun l => if l ∈ active s g then { lane s l with flags := spec s a l &&& 0x3F, pc := curNext s } else { lane s l with pc := curNext s }) ∧
    (agents → inAgent s = true → GroupOnce s (exec (.swrite g n a) s) g fun act t => LanesGoOn s t ∧ OnlyCore s.cur.core s t ∧
      (∀ k, agentReg t k = if k = number then spec s a (act.getLastD 0) else agentReg s k) ∧
      { curGroup t with lanes := (curGroup s).lanes } = curGroup s ∧ { curTeam t with groups := (curTeam s).groups } = curTeam s ∧
      (∀ j, j ≠ s.cur.group → groupAt (curTeam t) j = groupAt (curTeam s) j) ∧ (∀ j, j ≠ s.cur.tx → teamAt (curCore t) j = teamAt (curCore s) j) ∧
      { curCore t with teams := (curCore s).teams, fwRegs := (curCore s).fwRegs } = curCore s) ∧
    (room → (agents ∧ inAgent s = false) ∨ (number ≤ 11 ∧ number ≠ 10) → Traps s (exec (.swrite g n a) s) g ⟨.priv, 0, 0, 0⟩) ∧
    (11 < number → ¬agents → (∃ k, a = .v k) ∨ (∃ k, a = .o k) ∨ (∃ k, a = .g k) → decodeWord p (encode (.swrite g n a)) = .error 7)) ∧
  (∀ (g : Guard) (a : Spec) (k : RettAct) (s : State),
    let i := (usp s a).toNat
    let record := fun (u : State) (j : Nat) => Tbl.get none (curCore u).traps j
    let laneIn := fun (u : State) (r : TrapRec) (l : Nat) => laneAt (getGroup u s.cur.core r.teamx r.group) l
    ((freeTrap (curCore s)).isSome → inAgent s = false → Traps s (exec (.rett g a k) s) g ⟨.priv, 0, 0, 0⟩) ∧
    ((freeTrap (curCore s)).isSome → inAgent s = true → 511 < i ∨ record s i = none → Traps s (exec (.rett g a k) s) g ⟨.bounds, 0, 0, 0⟩) ∧
    (∀ r, inAgent s = true → i < 512 → record s i = some r → GroupOnce s (exec (.rett g a k) s) g fun _ t =>
      (r.teamx ≠ 2 → ∀ l ∈ subLanes s, MovesTo (lane s l) (lane t l) (curNext s)) ∧ record t i = none ∧ (∀ j, j ≠ i → record t j = record s j) ∧
      (r.teamx ≠ 2 → ∀ l < 32,
        let m := laneIn s r l
        let text := match getGrid s (getTeam s s.cur.core r.teamx).grid with | some gr => gr.kernel.text | none => []
        laneIn t r l = if r.mask.getLsbD l then returned r k (nextPc text m.pc (wordLen (parcelAt text m.pc))) m else m) ∧
      (r.drain = none → r.teamx ≠ 2 → k ≠ .end_ → OnlyCore s.cur.core s t ∧ ∀ tx j, (tx, j) ≠ (r.teamx, r.group) → (tx, j) ≠ (s.cur.tx, s.cur.group) →
        getGroup t s.cur.core tx j = getGroup s s.cur.core tx j)))

namespace Sys2Proof.Claims

/-! ## The paired word -/

/-- What one slot of a paired word does in a lane of the issue, from what its operation computes on the state before the word (R47, R84). -/
def SlotStep (s : State) (x : PairSlot) (l : Nat) (m m' : Lane) (pc : Nat) : Prop :=
  if l ∈ active s x.o.g then
    match popLane x.op x.o (curGroup s) l with
    | some (.w v, fl) => Gets32 m m' x.o.d v fl pc
    | some (.d v, fl) => Gets64 m m' x.o.d v fl pc
    | some (.b v, fl) => GetsPred m m' x.o.d v fl pc
    | none => False
  else if x.op.toPred then MovesTo m m' pc else IdlesShifting m m' x.o.d pc

/-- Why a slot traps for a lane, if it does: FORMAT, or FP with the enabled flags that it raises (R96, R99). -/
def slotCause (s : State) (x : PairSlot) (l : Nat) : Option (TrapCode × Nat) :=
  if l ∈ active s x.o.g then
    match popLane x.op x.o (curGroup s) l with
    | none => some (.format, 0)
    | some (_, fl) => if fl &&& (curFpen s).setWidth 6 = 0 then none else some (.fp, (fl &&& (curFpen s).setWidth 6).toNat)
  else none

/-- No lane of a slot traps. -/
def SlotCalm (s : State) (x : PairSlot) : Prop := ∀ l, slotCause s x l = none

/-- A lane's own cause in a paired word, with its slot: X's, else Y's (R84). -/
def ownCause (s : State) (x y : PairSlot) (l : Nat) : Option (TrapCode × Nat × Nat) :=
  match slotCause s x l with
  | some c => some (c.1, c.2, 1)
  | none => (slotCause s y l).map fun c => (c.1, c.2, 2)

/-- A slot's narrow descriptor is legal in every active lane, where it has one (R99, R137). -/
def SlotLegal (s : State) (x : PairSlot) : Prop := (∃ fr sat r, x.op = .cvtn fr sat r) → ∀ l ∈ active s x.o.g, legalFmt (src s x.o.b l) = true

end Sys2Proof.Claims

/-- R47, R48, R84: a paired word acts in each lane of its issue as slot X and then slot Y, both from the values before the word; the last-result file shifts once for each
value slot. What a slot does in a lane is what a word of its own does with the same operation, for every pairable operation. A lane for which either slot traps commits nothing; all such lanes park at the
word under one record, with the first code among their own causes and the slot that raised it in the lowest lane that has it, and the other lanes commit both slots. No lane traps in a launch that enables no
flag, as long as a CVTN meets a legal descriptor. -/
def Obligations.PairedWord : Prop := ∀ (x y : PairSlot) (s : State),
  let both := fun (t : State) (l : Nat) => ∃ m, SlotStep s x l (lane s l) m (lane s l).pc ∧ SlotStep s y l m (lane t l) (curNext s)
  let runs := ∃ t, exec (.pairedWord x y) s = .next t ∧ LanesOnly s t ∧ ∀ l ∈ subLanes s, both t l
  let own := ownCause s x y
  let bad := (subLanes s).filter fun l => (own l).isSome
  let code := if ∃ l ∈ bad, ∃ c, own l = some c ∧ c.1 = .format then TrapCode.format else .fp
  (curFpen s = 0 → SlotLegal s x → SlotLegal s y → runs) ∧
  (SlotCalm s x → SlotCalm s y → runs) ∧
  (SlotCalm s x → ∃ t, exec (popInstr x.op x.o) s = .next t ∧ LanesOnly s t ∧ ∀ l ∈ subLanes s, SlotStep s x l (lane s l) (lane t l) (curNext s)) ∧
  (bad ≠ [] → (freeTrap (curCore s)).isSome → ∃ t i rec, exec (.pairedWord x y) s = .next t ∧ (∀ l ∈ bad, lane t l = { lane s l with st := .parked }) ∧
    (∀ l ∈ subLanes s, l ∉ bad → both t l) ∧ (∀ l, l ∉ subLanes s → lane t l = lane s l) ∧
    { curGroup t with lanes := (curGroup s).lanes } = curGroup s ∧
    freeTrap (curCore s) = some i ∧ Tbl.get none (curCore t).traps i = some rec ∧ rec.code = code ∧ rec.mask = maskOf bad ∧ rec.pc = s.cur.pc ∧ rec.group = s.cur.group ∧
    ∃ l ∈ bad, ∃ d, own l = some (code, d, rec.pslot) ∧ (∀ k ∈ bad, k < l → ∀ c, own k = some c → c.1 ≠ code) ∧ (code = .format → rec.detail = d))

namespace Sys2Proof.Claims

/-! ## Events: waits that end -/

/-- A lane of a group of a team. -/
def laneOf (s : State) (k tx g l : Nat) : Lane := laneAt (getGroup s k tx g) l

/-- The offset after a waiting word (R53). -/
def afterWait (s : State) (k tx : Nat) (w : Wait) : Nat :=
  nextPc (match teamGrid s (getTeam s k tx) with | some gr => gr.kernel.text | none => []) w.pc w.len

/-- A group's wait has ended: the lanes of its word go on past it, and no other lane and no other group of the team has changed. -/
structure WaitEnds (s t : State) (k tx g : Nat) (w : Wait) : Prop where
  wait : (getGroup t k tx g).wait = none
  lanes : ∀ l ∈ lanesOf w.sub, laneOf t k tx g l = { laneOf s k tx g l with pc := afterWait s k tx w }
  others : ∀ l, l ∉ lanesOf w.sub → laneOf t k tx g l = laneOf s k tx g l
  group : { getGroup t k tx g with wait := (getGroup s k tx g).wait, lanes := (getGroup s k tx g).lanes } = getGroup s k tx g
  groups : ∀ j, j ≠ g → getGroup t k tx j = getGroup s k tx j

/-- A byte, and the little-endian word at `a`, of a team's scratchpad. -/
def byteAt (s : State) (k tx a : Nat) : Byte := Tbl.get 0 (getTeam s k tx).sp a
def wordAt (s : State) (k tx a : Nat) : Word := byteAt s k tx (a + 3) ++ byteAt s k tx (a + 2) ++ byteAt s k tx (a + 1) ++ byteAt s k tx a

/-- The matrix context of a team. -/
def ctxOf (s : State) (k tx : Nat) : Ctx := getCtx s (pairOf k) (ctxNo (getTeam s k tx))

end Sys2Proof.Claims

/-! ## Events of groups and teams -/

/-- R251, R252: WAITC_SATISFIED ends a WAITC whose counter has reached its target; WAITC_TIMEOUT parks its lanes with LIMIT_WAIT once its bound has run out; CNTSET_WRITE
writes the counter once no awaited command owes its increment. -/
def Obligations.CounterWaitEvents : Prop := ∀ (k tx g : Nat) (s : State) (w : Wait) (a : Nat) (v : Word), (getGroup s k tx g).wait = some w →
  (∀ b n bf, w.kind = .waitc a v b n bf → v.toNat ≤ (wordAt s k tx a).toNat →
    ∃ t, exec (.waitcSatisfied k tx g) s = .next t ∧ OnlyGroup k tx g s t ∧ WaitEnds s t k tx g w) ∧
  (∀ b n bf, w.kind = .waitc a v b n bf → (wordAt s k tx a).toNat < v.toNat → w.since / 2520 + b ≤ tick s + n → trapRoom s k tx g = true →
    ending s (getTeam s k tx).grid = false → w.mask ≠ 0 → ∃ t, exec (.waitcTimeout k tx g) s = .next t ∧ (getGroup t k tx g).wait = none ∧
      (∀ l ∈ lanesOf w.mask, laneOf t k tx g l = { laneOf s k tx g l with st := .parked }) ∧
      (∀ l ∈ lanesOf w.sub, l ∉ lanesOf w.mask → laneOf t k tx g l = { laneOf s k tx g l with pc := afterWait s k tx w }) ∧
      ∃ i rec, freeTrap (getCore s k) = some i ∧ Tbl.get none (getCore t k).traps i = some rec ∧ rec.code = .limitWait ∧ rec.pc = w.pc ∧ rec.mask = w.mask ∧
        rec.detail = 1 ∧ rec.tick = tick s) ∧
  (∀ ns, w.kind = .cntset a v ns → (∀ i ∈ (getTeam s k tx).issued, i.serial ∈ ns → i.incremented = true) →
    ∃ t, exec (.cntsetWrite k tx g) s = .next t ∧ OnlyTeam k tx s t ∧ WaitEnds s t k tx g w ∧ wordAt t k tx a = v ∧
      ∀ b, b < a ∨ a + 4 ≤ b → byteAt t k tx b = byteAt s k tx b)

/-- R228, R275, R293, R297, R307, R320: a fence, a reservation word, an MMAW, a DRAINW and a DPLD that wait end once their condition holds, and have their effect then. The model's own choices here are those of log entries 30 and 31. -/
def Obligations.OtherWaitEvents : Prop := ∀ (k tx g : Nat) (s : State) (w : Wait) (d : Descr), (getGroup s k tx g).wait = some w → teamDescr s (getTeam s k tx) = some d →
  let used := fun (n : Nat) => ∃ m ∈ (ctxOf s k tx).mmas, (m.ridA = n ∨ m.ridB = n) ∧ m.captured = false
  let entry := fun (u : State) n => Tbl.get none (getTeam u k tx).rsv n
  let issues := fun (n : Nat) => ¬used n ∧ Tbl.get 0 (getTeam s k tx).rsvReady n ≤ cyc s k ∧ slotFree s k (getGroup s k tx g).slot = true
  let kept := fun (t : State) (n : Nat) => WaitEnds s t k tx g w ∧ OnlyCore k s t ∧ (∀ j, j ≠ tx → teamAt (getCore t k) j = teamAt (getCore s k) j) ∧
    (∀ b, byteAt t k tx b = byteAt s k tx b) ∧ ∀ m, m ≠ n → entry t m = entry s m
  (∀ sc ns, w.kind = .fence sc ns → fenceDone s k tx g w.mask sc ns = true →
    ∃ t, exec (.fenceComplete k tx g) s = .next t ∧ OnlyGroup k tx g s t ∧ WaitEnds s t k tx g w) ∧
  (∀ n a, w.kind = .rsv n a → issues n → n < descrNR d → a % 16 = 0 → a + 16 ≤ descrWS d → (rsvRec (readBytes (getTeam s k tx).sp a 16)).check (descrWO d) = none →
    ∃ t, exec (.rsvEntryUsable k tx g) s = .next t ∧ kept t n ∧ entry t n = some (rsvRec (readBytes (getTeam s k tx).sp a 16)) ∧
      Tbl.get 0 (getTeam t k tx).rsvReady n = cyc s k + 12) ∧
  (∀ n, w.kind = .rls n → issues n → n < descrNR d → ∃ t, exec (.rsvEntryUsable k tx g) s = .next t ∧ kept t n ∧ entry t n = none) ∧
  (w.kind = .mmaw → (∀ m ∈ (ctxOf s k tx).mmas, m.group = g → m.captured = true) →
    ∃ t, exec (.mmawComplete k tx g) s = .next t ∧ WaitEnds s t k tx g w ∧ ∀ m ∈ (ctxOf t k tx).mmas, m.group = g → m.waited = true) ∧
  (∀ n, w.kind = .drainw n → (∀ e ∈ (ctxOf s k tx).drains, n < e.seq) →
    ∃ t, exec (.drainwComplete k tx g) s = .next t ∧ OnlyGroup k tx g s t ∧ WaitEnds s t k tx g w) ∧
  (∀ p a n, w.kind = .dpld p a n → (∀ e ∈ (ctxOf s k tx).drains, e.prog = p → e.seq ≤ n → e.image ≠ none) →
    ∃ t, exec (.dpldSlotWrite k tx g) s = .next t ∧ OnlyCore k s t ∧ WaitEnds s t k tx g w ∧
      ∀ i < 32, (Tbl.get [] (getCore t k).drainStore (Tbl.get 0 (getTeam s k tx).slots p - 1)).getD i 0 = wordAt s k tx (a + 4 * i))

/-- R181, R200, R209, R217, R219, R232: RESULT_WRITEBACK drops the scoreboard entries that have come due and keeps every other; every wave that is due releases its groups; a deadlocked
team's waiting groups take LIMIT_WAIT on a cycle in which none of its groups has issued or ended, each under a record of detail 2 for its free lanes; a remote part acts at its target in ascending lane order and, once ready, leaves its core with the result of each of its lanes there. The model's own choices here are those of log entries 15 and 21. -/
def Obligations.GroupAndRemoteEvents : Prop := ∀ (k tx g i : Nat) (s : State),
  (∃ t, exec (.resultWriteback k tx g) s = .next t ∧ OnlyGroup k tx g s t ∧
    (∀ p, p ∈ (getGroup t k tx g).pend ↔ p ∈ (getGroup s k tx g).pend ∧ ∀ c, p.ready = some c → cyc s k < c) ∧
    { getGroup t k tx g with pend := (getGroup s k tx g).pend } = getGroup s k tx g) ∧
  (let due := fun (w : Wave) => decide (w.due ≤ s.time)
   let go := ((getTeam s k tx).waves.filter due).flatMap (·.groups)
   (go ≠ [] → ∃ t, exec (.barrierWaveRelease k tx) s = .next t ∧ OnlyTeam k tx s t ∧
     (getTeam t k tx).waves = ((getTeam s k tx).waves.filter fun w => !due w) ∧ (∀ j ∈ go, (getGroup t k tx j).wait = none) ∧
     (∀ j, j ∉ go → getGroup t k tx j = getGroup s k tx j) ∧ ∀ j l, laneOf t k tx j l = laneOf s k tx j l) ∧
   (go = [] → exec (.barrierWaveRelease k tx) s = .next s)) ∧
  (let t0 := getTeam s k tx
   let live := (List.range t0.ngroups).filter fun j => !(groupAt t0 j).ended
   (∃ j ∈ live, atBarrier (groupAt t0 j) = true) → (∀ j ∈ live, atBarrier (groupAt t0 j) = true ∨ atFetch (groupAt t0 j) = true) →
   issuedNow s k tx = false → ending s t0.grid = false → (∀ j ∈ live, trapRoom s k tx j = true) →
   live.length ≤ ((List.range 512).filter fun n => (Tbl.get none (getCore s k).traps n).isNone).length → ∃ t, exec (.barrierDeadlock k tx) s = .next t ∧
   ∀ j ∈ live, ∀ w, (getGroup s k tx j).wait = some w →
     let free := (List.range 32).filter fun l => (laneOf s k tx j l).st == .free
     (getGroup t k tx j).wait = none ∧ (∀ l ∈ free, (laneOf t k tx j l).st = .parked ∧ (l ∈ lanesOf w.sub → (laneOf t k tx j l).pc = w.pc)) ∧
     (free ≠ [] → ∃ n rec, Tbl.get none (getCore t k).traps n = some rec ∧ Tbl.get none (getCore s k).traps n = none ∧ rec.code = .limitWait ∧ rec.detail = 2 ∧
       rec.mask = maskOf free ∧ rec.pc = w.pc ∧ rec.group = j ∧ rec.teamx = tx ∧ rec.core = k ∧ rec.tick = tick s)) ∧
  (∀ r dx, (getCore s k).remotes[i]? = some r → r.entered = false → r.entry ≤ cyc s k → placeOf s r.target r.grid = some dx → ∃ t, exec (.remoteAccessEntry k i) s = .next t ∧
    (let m := memSteps r.op.mem (getTeam s r.target dx).sp (r.lanes.map fun l => (l.lane, l.off, l.val, 0))
     (∀ b, byteAt t r.target dx b = Tbl.get 0 m.1 b) ∧ (getCore t k).remotes[i]? = some { r with entered := true, results := m.2 })) ∧
  (∀ r, (getCore s k).remotes[i]? = some r → r.entered = true → r.ready ≤ cyc s k → ∃ t, exec (.remoteResultReady k i) s = .next t ∧ OnlyCore k s t ∧
    (getCore t k).remotes = (getCore s k).remotes.eraseIdx i ∧ (∀ j, j ≠ r.group → getGroup t k r.tx j = getGroup s k r.tx j) ∧
    (∀ l, (∀ e ∈ r.lanes, e.lane ≠ l) → laneOf t k r.tx r.group l = laneOf s k r.tx r.group l) ∧
    ((r.lanes.map (·.lane)).Nodup → ∀ e ∈ r.lanes, ∀ x, r.results.find? (fun y => y.1 == e.lane) = some (e.lane, x) →
      laneOf t k r.tx r.group e.lane = receiveLane r e x (laneOf s k r.tx r.group e.lane)))

/-- R33, R45, R59, R153, R166, R220, R242, R243: TEAM_START lets the placed groups issue with their slots, roles and start values, its PC past any leading pad blocks, and writes the data image; a team step that
hands out a tile delivers its record to every arrived group and claims the next tile into the other half, and one that finds no tile delivers all ones; TEAM_RETIRE counts the team. The model's
own choices here are those of log entries 29 and 113. -/
def Obligations.TeamEvents : Prop := ∀ (gid n k tx : Nat) (s : State) (gr : Grid), getGrid s gid = some gr → teamNo s gid n = some (k, tx) →
  let tm := getTeam s k tx
  let producer := fun j => if Config.consumersFirst gr.kernel.hash then gr.kernel.cgroups ≤ j else j < gr.kernel.pgroups
  (∀ slots, tm.groups = startGroups gr.kernel slots → slots.length = gr.kernel.pgroups + gr.kernel.cgroups → 0 < slots.length → tm.ngroups = 0 → gr.st = .running →
    ∃ t, exec (.teamStart gid n) s = .next t ∧ OnlyCore k s t ∧
    (getTeam t k tx).ngroups = gr.kernel.pgroups + gr.kernel.cgroups ∧ (∀ b, byteAt t k tx b = gr.kernel.data.getD b 0) ∧
    (∀ j < gr.kernel.pgroups + gr.kernel.cgroups, (getGroup t k tx j).slot = slots.getD j 0 ∧ (getGroup t k tx j).wait = none ∧
      (producer j → (getGroup t k tx j).role = 0 ∧ (getGroup t k tx j).budget = gr.kernel.pbudget) ∧
      (¬producer j → (getGroup t k tx j).role = 1 ∧ (getGroup t k tx j).budget = gr.kernel.cbudget)) ∧
    (∀ j < gr.kernel.pgroups + gr.kernel.cgroups, ∀ l < 32, laneOf t k tx j l = { pc := firstPc gr.kernel.text }) ∧
    ((gr.kernel.text.headD 0) % 4 ≠ 3 → ∀ j l, laneOf t k tx j l = {})) ∧
  (tm.grid = gid → tm.saving = none → tm.retiring = false → (gr.st = .running ∨ gr.st = .saving) → tm.stepping = true → tm.preempt = none →
    tm.claim = none → tm.next = none → ∃ t, exec (.teamStep k tx) s = .next t ∧ (getTeam t k tx).done = true ∧ (getTeam t k tx).stile = 0xFFFFFFFF ∧ (getTeam t k tx).stepping = false ∧
      ∀ j w d, j < tm.ngroups → (groupAt tm j).ended = false → (groupAt tm j).wait = some w → w.kind = .fetch d → d + 3 < 128 →
        (∀ i < 4, Tbl.get 0 (getGroup t k tx j).g (d + i) = 0xFFFFFFFF) ∧ ∃ w', (getGroup t k tx j).wait = some w' ∧ w'.kind = .wave) ∧
  (∀ tile h, tm.grid = gid → tm.saving = none → tm.retiring = false → (gr.st = .running ∨ gr.st = .saving) → tm.stepping = true → tm.preempt = none →
    tm.claim = none → tm.next = some (tile, h) → halfFree s k tx h = true → staged s k tx h = true →
    ∃ t, exec (.teamStep k tx) s = .next t ∧ (getTeam t k tx).current = some (tile, h) ∧ (getTeam t k tx).stile = BitVec.ofNat 32 tile.t ∧
      (getTeam t k tx).next = none ∧ (∃ b, (getTeam t k tx).claim = some (1 - h, b)) ∧
      ∀ j w d, j < tm.ngroups → (groupAt tm j).ended = false → (groupAt tm j).wait = some w → w.kind = .fetch d → d + 3 < 128 →
        Tbl.get 0 (getGroup t k tx j).g d = BitVec.ofNat 32 tile.x ∧ Tbl.get 0 (getGroup t k tx j).g (d + 1) = BitVec.ofNat 32 tile.y ∧
        Tbl.get 0 (getGroup t k tx j).g (d + 2) = BitVec.ofNat 32 tile.z ∧ Tbl.get 0 (getGroup t k tx j).g (d + 3) = BitVec.ofNat 32 h) ∧
  (tm.grid = gid → canRetireTeam s k tx = true → ∃ t gr', exec (.teamRetire k tx) s = .next t ∧ getGrid t gid = some gr' ∧ gr'.retired = gr.retired + 1)

namespace Sys2Proof.Claims

/-! ## Events of the matrix unit -/

/-- The window bytes that element `k` of line `q` of a reservation reads: its data, its bits of the 2-bit plane, and its scale (R102, R103, R105, R285). -/
def lineBytes (r : RsvRec) (q k : Nat) : List Nat :=
  let w := if r.kind = 0 then widthOf r.fmt else 16
  let p := r.pitch16 * (if w = 16 then 8 else if w = 8 then 16 else 32)
  let e := q * p + k
  let data := 16 * (r.base16 + r.doff16)
  let block := 8 * 2 ^ r.lblk
  (if w = 16 then [data + 2 * e, data + 2 * e + 1] else if w = 8 then [data + e]
    else if w = 4 then [data + e / 2] else [data + e / 2, 16 * (r.base16 + r.poff16) + e / 4]) ++
    if r.scl then [16 * (r.base16 + r.soff16) + q * ((p + block - 1) / block) + k / block] else []

/-- An MMA reads byte `b` of the window: elements AK to AK + K − 1 of a row of A, or BK to BK + K − 1 of a column of B (R286). -/
def Reads (m : Mma) (b : Nat) : Prop := ∃ i < m.k,
  (∃ q ∈ m.rows, b ∈ lineBytes m.recA q (m.ak + i)) ∨ ∃ j < 32, b ∈ lineBytes m.recB (32 * m.bcol + j) (m.bk + i)

end Sys2Proof.Claims

/-- R106, R277, R285, R286, R287, R289: the stages of an MMA. A gathered MMA holds in its latch every byte that its operand lines read, as the operand buffer holds it, or an older value of it that its OPFENCE does
not rule out; a capture takes the arrays for 8 cycles and retires from 24 on; a latch is free when its capture has ended;
and retirement adds the product of its lines, chunk by chunk in ascending k, to each element that uses no undefined byte. The model's own choices here are those of log entries 43, 44, 46 and 48. -/
def Obligations.MmaStages : Prop := ∀ (p n : Nat) (s : State) (m : Mma), n < 2 →
  let c := getCtx s p n
  let now := cyc s (2 * p)
  let stage := fun (t : State) (st : MmaSt) => ∃ m' ∈ (getCtx t p n).mmas, m'.seq = m.seq ∧ m'.st = st
  (∀ k tx, gatherEnded now c = some m → c.home = some (k, tx) → (∀ r ∈ [m.recA, m.recB], r.kind = 0 → legalFmt r.fmt = true) →
    ∃ t, exec (.mmaGatherDone p n) s = .next t ∧ (∀ j, j ≠ p → getPair t j = getPair s j) ∧
    ∃ m' ∈ (getCtx t p n).mmas, m'.st = .gathered ∧ { m' with st := m.st, latch := m.latch } = m ∧ ∀ b, Reads m b →
      let now := Tbl.get 0 (getTeam s k tx).ob b
      let held := (Tbl.get 0 m'.latch b : Byte)
      held = now ∨ ∃ e ∈ Tbl.get [] (getTeam s k tx).obOld b, m.fence < e.1 ∧ e.1 ≤ m.obNo ∧ held = e.2) ∧
  (gatherEnded now c = some m → ∃ t, exec (.mmaGatherDone p n) s = .next t ∧ stage t .gathered) ∧
  (canCapture now (getPair s p) n = some m → m ∈ c.mmas → ∃ t, exec (.mmaCaptureStart p n) s = .next t ∧ stage t (.capturing (now + 8) (now + 24)) ∧
    (getPair t p).arraysFree = now + 8 ∧ (getPair t p).lastCapture = n) ∧
  (∀ r, captureEnded now c = some (m, r) → ∃ t, exec (.mmaCaptureEnd p n) s = .next t ∧ stage t (.captured r)) ∧
  (canRetire now c = some m → ∃ t, exec (.mmaRetire p n) s = .next t ∧
    (∀ q, q ≠ m.pair → ∀ i j, element (getCtx t p n) q i j = element c q i j) ∧
    (m.rows.length = 64 → ∀ i < 64, ∀ j < 32, (i, j) ∉ m.undefined m.dirty → (i, j) ∉ m.blurred →
      let ch := chunkLen m.recA m.recB
      let rd := fun (b : Nat) => (Tbl.get 0 m.latch b : Byte)
      element (getCtx t p n) m.pair i j = accumulate (element c m.pair i j) (lineChunks m.recA rd (m.rows.getD i 0) m.ak m.k ch)
        (lineChunks m.recB rd (32 * m.bcol + j) m.bk m.k ch)))

/-- R289, R299, R316, R317, R321, R322, R324: TMOV_READ gives its lanes their elements and TSET_WRITE puts its values into the row, once the interlocks are open; a half of a drain starts on its pipeline for 32
cycles with the image of its program; and a row that is due commits all of its stores, or none and faults; a store that comes from a byte which the row itself writes is undefined. The model's own choices here are those of log entries 45, 47 and 52. -/
def Obligations.TileAndDrainEvents : Prop := ∀ (p n i h : Nat) (s : State), n < 2 →
  let c := getCtx s p n
  let now := cyc s (2 * p)
  (∀ o k tx, c.ops[i]? = some o → c.home = some (k, tx) → o.set = none → opReady now c o = true → ∃ t, exec (.tmovRead p n i) s = .next t ∧
    (getCtx t p n).ops = c.ops.eraseIdx i ∧ (∀ l, (∀ e ∈ o.lanes, e.1 ≠ l) → laneOf t k tx o.group l = laneOf s k tx o.group l) ∧
    ∀ l y, o.lanes = [(l, y)] → laneOf t k tx o.group l = writeYAt (writeSpec (laneOf s k tx o.group l) o.dst (element c o.pair o.row l)) y (element c o.pair o.row l)) ∧
  (∀ o vs, c.ops[i]? = some o → o.set = some vs → (∀ e ∈ vs, e.1 < 32) → opReady now c o = true → ∃ t, exec (.tsetWrite p n i) s = .next t ∧ (getCtx t p n).ops = c.ops.eraseIdx i ∧
    (∀ q, q ≠ o.pair → ∀ a b, element (getCtx t p n) q a b = element c q a b) ∧ (∀ a b, b < 32 → a ≠ o.row → element (getCtx t p n) o.pair a b = element c o.pair a b) ∧
    ∀ l x, vs = [(l, x)] → element (getCtx t p n) o.pair o.row l = x) ∧
  (∀ d, canStart s p n h = some d → (∀ e ∈ c.drains, e.seq = d.seq → e = d) → ∃ t, exec (.drainHalfStart p n h) s = .next t ∧
    (programLegal ((d.image).getD (copyImage s c d)).words (programDefined (homeTeam s c)) = true → pipeOf (getPair t p) (onOdd c h) = ⟨now + 32, n⟩ ∧
      ∀ x ∈ (getCtx t p n).drains, x.seq = d.seq → x.half h = .running (now - d.next h) ∧ x.image = some ((d.image).getD (copyImage s c d)))) ∧
  (∀ d im k tx, c.drains[i]? = some d → c.home = some (k, tx) → commitDue now c d h = some im →
    let row := 32 * h + d.next h
    let xs := (List.range 32).map fun j => Tbl.get 0 im.tile (32 * row + j)
    (∀ out, rowStores (rowEnv s c d im row) xs = .ok out → ∃ t, exec (.drainRowCommit p n h i) s = .next t ∧
      ∀ b, (∀ r ∈ taintedStores (madeEnv { d with image := some im } row) (obBytes out) out, r.ob = false → b < r.at_ ∨ r.at_ + r.bytes.length ≤ b) →
        byteAt t k tx b = byteAt (performStores { s with freeNo := s.freeNo + 512 } k tx out) k tx b) ∧
    (∀ detail, trapRoom s k tx d.group = true → rowStores (rowEnv s c d im row) xs = .error detail → ∃ t, exec (.drainRowCommit p n h i) s = .next t ∧ (∀ b, byteAt t k tx b = byteAt s k tx b) ∧
      ∀ x ∈ (getCtx t p n).drains, x.seq = d.seq → x.fault = some detail))

namespace Sys2Proof.Claims

/-! ## Events of the engines and of global memory -/

/-- A byte of the local side of an engine: of the operand-buffer window or of the scratchpad window. -/
def localByte (s : State) (k tx : Nat) (ob : Bool) (b : Nat) : Byte := Tbl.get 0 (if ob then (getTeam s k tx).ob else (getTeam s k tx).sp) b

/-- From `s` to `t` the local bytes from `la` on hold `bs`, and no other local byte of the team has changed, but for those of a drain's committed rows that a write of
operand-buffer bytes leaves undefined (R324). -/
def LocalHolds (s t : State) (k tx : Nat) (ob : Bool) (la : Nat) (bs : List Byte) : Prop :=
  (∀ b, la ≤ b → b < la + bs.length → localByte t k tx ob b = bs.getD (b - la) 0) ∧
  ∀ side b, (side = ob → b < la ∨ la + bs.length ≤ b) → (ob = true → Kept s k tx ((List.range bs.length).map (la + ·)) side b) →
    localByte t k tx side b = localByte s k tx side b

/-- No local byte of a team has changed. -/
def LocalSame (s t : State) (k tx : Nat) : Prop := ∀ ob b, localByte t k tx ob b = localByte s k tx ob b

/-- The bytes of a die's view from a physical byte on. -/
def viewBytes (s : State) (die key n : Nat) : List Byte := (List.range n).map fun i => viewByte s die (key + i)

/-- A write unit of `origin` is on its way to every other holder (R268). -/
def SentTo (s t : State) (origin : Nat) (cells : List (Nat × Byte)) : Prop :=
  ∀ d ∈ holders, d ≠ origin → ∃ w, (getView t d).flight = (getView s d).flight ++ [w] ∧ w.origin = origin ∧ w.cells = cells

/-- What goes with a write of some parts, each a physical byte, a length and a seal: bytes of the blocks of 16 that a part touches, outside it, and none where every such block stands under
that seal already (R419). -/
def BlockRest (s : State) (ps : List (Nat × Nat × Nat)) (rest : List (Nat × Byte)) : Prop :=
  (∀ x ∈ rest, ∃ p ∈ ps, p.1 / 16 ≤ x.1 / 16 ∧ x.1 / 16 < (p.1 + p.2.1 + 15) / 16 ∧ (x.1 < p.1 ∨ p.1 + p.2.1 ≤ x.1)) ∧
  ((∀ p ∈ ps, ∀ b, p.1 / 16 ≤ b → b < (p.1 + p.2.1 + 15) / 16 → Tbl.get 0 s.seals b = p.2.2) → rest = [])

/-- The cells of a translation entry that takes another TGT and FRAME and keeps its other bits (R237): PIN, LEAF and the bits below FRAME, PS to KEY, and V. -/
def EntryBecomes (s : State) (l : Leaf) (tgt frame : Nat) (w : List (Nat × Byte)) : Prop :=
  let old := viewNat s hub0 l.entry 8
  let new := natOf (w.map (·.2))
  w.map (·.1) = (List.range 8).map (l.entry + ·) ∧ new / 2 ^ 61 % 4 = tgt ∧ new / 2 ^ 16 % 2 ^ 32 = frame ∧ new % 2 ^ 16 = old % 2 ^ 16 ∧
    new / 2 ^ 48 % 2 ^ 13 = old / 2 ^ 48 % 2 ^ 13 ∧ new / 2 ^ 63 = old / 2 ^ 63

/-- The cells of bytes that a hub writes at an interface's address, after the rest of the blocks that another key had written (R419). -/
def VaCells (s : State) (vi va : Nat) (bs : List Byte) (w : List (Nat × Byte)) : Prop :=
  ∃ rest, BlockRest s ((List.range bs.length).filterMap fun i => (vaKey s vi (va + i)).map fun key => (key, 1, vaSeal s vi (va + i))) rest ∧
    w = rest ++ vaCells s vi va bs

/-- A command of the copy queue has come to a state. -/
def CopyAt (t : State) (k serial : Nat) (st : CmdSt) : Prop := ∃ c ∈ (getCore t k).copyq, c.serial = serial ∧ c.st = st

/-- A job of a team's stager has come to a state. -/
def JobAt (t : State) (k tx serial : Nat) (st : CmdSt) : Prop := ∃ c ∈ (getTeam t k tx).jobs, c.serial = serial ∧ c.st = st

end Sys2Proof.Claims

/-- R240, R248, R253, R270: an element of a command moves between its local bytes and the physical bytes that the translation gives, on one page or on the two that it touches: a load brings
the die's view, or zeros outside the tensor, and a store sends the local bytes as one write unit, after the rest of a block that another key had written; a FATOM's request leaves with its die's clock. Said where every page answers, no unit is poisoned, no
read of the same tick comes first (R281) and the run is no prediction. The model's own choices here are those of log entries 22, 23, 24, 40 and 41. -/
def Obligations.EngineElementEvents : Prop := ∀ (k tx : Nat) (s : State) (c : Cmd) (gr : Grid) (n key : Nat) (l : Leaf) (ps : List Part), gr.pred = none → elemNo c = some n →
  let die := dieOf k
  let sound := ∀ p ∈ ps, poisoned s p.key = false ∧ poisoned s (p.key + p.n - 1) = false
  let readable := sound ∧ ∀ p ∈ ps, keyTgt p.key < 2 ∧ ∀ i < p.n, opens s (sealOf s gr.vi p.leaf.pte) (p.key + i) = true
  let writable := sound ∧ ∀ p ∈ ps, readNow s die p.key p.n = false
  let sent := fun (t : State) (unit : List (Nat × Byte)) =>
    ∃ rest, BlockRest s (ps.map fun p => (p.key, p.n, sealOf s gr.vi p.leaf.pte)) rest ∧ SentTo s t die (rest ++ unit)
  let seen := ps.flatMap fun p => viewBytes s die p.key p.n
  let unit := fun (bs : List Byte) => (splitBytes ps bs).flatMap fun p => cellsOf p.1 p.2
  (c.tx = tx → teamGrid s (getTeam s k tx) = some gr → (getCore s k).copyq.any isBlocked = false → (getCore s k).copyq.filter (copySteppable s k) = [c] →
    (∀ r cs ob la, let e := copyElem r cs la n
      c.kind = .copy r cs false ob la → n < prod r.bs → e.inb = true → reach s die gr .read (partsOf e.va r.elem) = .inr ps → readable →
      ∃ t, exec (.copyElement k) s = .next t ∧ LocalHolds s t k tx ob e.la seen ∧ CopyAt t k c.serial (afterElem n (prod r.bs))) ∧
    (∀ r cs ob la, let e := copyElem r cs la n
      c.kind = .copy r cs false ob la → n < prod r.bs → e.inb = false →
      ∃ t, exec (.copyElement k) s = .next t ∧ LocalHolds s t k tx ob e.la (List.replicate r.elem 0) ∧ CopyAt t k c.serial (afterElem n (prod r.bs))) ∧
    (∀ r cs ob la, let e := copyElem r cs la n
      c.kind = .copy r cs true ob la → n < prod r.bs → e.inb = true → reach s die gr .write (partsOf e.va r.elem) = .inr ps → writable →
      ∃ t, exec (.copyElement k) s = .next t ∧ LocalSame s t k tx ∧ CopyAt t k c.serial (afterElem n (prod r.bs)) ∧
        sent t (unit ((List.range r.elem).map fun i => localByte s k tx ob (e.la + i)))) ∧
    (∀ r cs ob la, let e := copyElem r cs la n
      c.kind = .copy r cs true ob la → n < prod r.bs → e.inb = false →
      ∃ t, exec (.copyElement k) s = .next t ∧ LocalSame s t k tx ∧ CopyAt t k c.serial (afterElem n (prod r.bs)) ∧ ∀ d, getView t d = getView s d) ∧
    (∀ op w a b cmp old, c.kind = .fatom op w a b cmp old → meets s die gr a .atomic = .at_ key l → poisoned s key = false →
      ∃ t, exec (.copyElement k) s = .next t ∧ LocalSame s t k tx ∧ (∀ d, getView t d = getView s d) ∧
        ∃ x ∈ (getCore t k).copyq, x.serial = c.serial ∧ x.st = .home ∧ x.clock = (getView s die).vc)) ∧
  (∀ r i half tile base, c.tx = tx → teamGrid s (getTeam s k tx) = some gr → stagerBlocked s k = false → gr.kernel.regions[i]? = some r → n < r.count →
    let e := regionElem gr r tile n
    (c.kind = .stage i half tile base → nextJob s k tx false = some c → reach s die gr .read (partsOf e.1 (2 ^ r.elog)) = .inr ps → readable →
      ∃ t, exec (.stagingElement k tx) s = .next t ∧ LocalHolds s t k tx r.dk (base + e.2) seen ∧ JobAt t k tx c.serial (afterElem n r.count)) ∧
    (c.kind = .wback i half tile base → nextJob s k tx true = some c → reach s die gr .write (partsOf e.1 (2 ^ r.elog)) = .inr ps → writable →
      ∃ t, exec (.writebackElement k tx) s = .next t ∧ LocalSame s t k tx ∧ JobAt t k tx c.serial (afterElem n r.count) ∧
        sent t (unit ((List.range (2 ^ r.elog)).map fun j => localByte s k tx r.dk (base + e.2 + j)))))

namespace Sys2Proof.Claims

/-- A command has left the copy queue, and no other has. -/
def CopyLeaves (s t : State) (k serial : Nat) : Prop := (getCore t k).copyq = (getCore s k).copyq.filter fun c => c.serial != serial

/-- A job has left a team's stager, and no other has. -/
def JobLeaves (s t : State) (k tx serial : Nat) : Prop := (getTeam t k tx).jobs = (getTeam s k tx).jobs.filter fun c => c.serial != serial

/-- The counter of a command has risen by 1, and no other byte of the scratchpad window has changed; without a counter none has. -/
def CounterUp (s t : State) (k tx : Nat) (ctr : Option Nat) : Prop :=
  match ctr with
  | none => ∀ b, byteAt t k tx b = byteAt s k tx b
  | some a => wordAt t k tx a = wordAt s k tx a + 1 ∧ ∀ b, b < a ∨ a + 4 ≤ b → byteAt t k tx b = byteAt s k tx b

end Sys2Proof.Claims

/-- R243, R248, R250, R253, R254, R270: a command whose condition holds leaves its engine, and its counter rises by 1 once; a FATOM is read and written in one step at the home of its address, and its
old value is written to its scratchpad address before it completes. The model's own choices here are those of log entry 25. -/
def Obligations.EngineCompletionEvents : Prop := ∀ (k tx : Nat) (s : State) (c : Cmd),
  let first := fun p => (inOrder (getCore s k).copyq).find? p = some c
  let goesOn := ending s (getTeam s k c.tx).grid = false
  (first (completable s) → ∃ t, exec (.copyComplete k) s = .next t ∧ CopyLeaves s t k c.serial ∧ CounterUp s t k c.tx c.ctr ∧ (goesOn → OnlyCore k s t)) ∧
  ((getTeam s k tx).jobs.find? stageDone = some c → ∃ t, exec (.stagingComplete k tx) s = .next t ∧ JobLeaves s t k tx c.serial ∧ OnlyTeam k tx s t) ∧
  ((getTeam s k tx).jobs.find? (wbackDone s) = some c → ∃ t, exec (.writebackComplete k tx) s = .next t ∧ JobLeaves s t k tx c.serial ∧ OnlyCore k s t ∧
    LocalSame s t k tx) ∧
  (∀ h key l op w a b cmp old, ((getCore s k).copyq.findSome? fun c => (homeReady s k c).map fun h => (c, h)) = some (c, .perform h key l) → c.kind = .fatom op w a b cmp old →
    keyTgt key < 2 → ∀ gr, teamGrid s (getTeam s k c.tx) = some gr →
    let n := if w then 8 else 4
    let v := viewNat s h key n
    (∀ i < n, opens s (sealOf s gr.vi l.pte) (key + i) = true) →
    ∃ t rest, exec (.fatomHomePerform k) s = .next t ∧ BlockRest s [(key, n, sealOf s gr.vi l.pte)] rest ∧
      SentTo s t h (rest ++ cellsOf key (bytesOf (fatomNew op w v b cmp) n)) ∧ LocalSame s t k c.tx ∧
      CopyAt t k c.serial (.back (BitVec.ofNat 64 v) (getView t h).vc)) ∧
  (∀ op w a b cmp old v clock, first (backReady s k) → c.kind = .fatom op w a b cmp old → c.st = .back v clock → ∃ t, exec (.fatomOldValueReturn k) s = .next t ∧
    CopyLeaves s t k c.serial ∧ (goesOn → OnlyCore k s t) ∧ (old = none → CounterUp s t k c.tx c.ctr) ∧
    ∀ x, old = some x → c.ctr = none → LocalHolds s t k c.tx false x (bytesOf v.toNat (if w then 8 else 4)))

/-- R256, R267, R268, R269: a write unit arrives where it waits in arrival order, and is applied once its predecessors are: the holder's clock takes its entry, and each byte it wins has its value. The model's own choices here are those of log entry 37. -/
def Obligations.WriteEvents : Prop := ∀ (h i : Nat) (s : State) (w : GWrite),
  ((getView s h).flight[i]? = some w → ∃ t, exec (.writeArrive h i) s = .next t ∧ (∀ d, d ≠ h → getView t d = getView s d) ∧
    getView t h = { getView s h with flight := (getView s h).flight.eraseIdx i, held := (getView s h).held ++ [w] }) ∧
  ((getView s h).held[i]? = some w → canApply (getView s h).vc w = true → ∃ t, exec (.writeApply h i) s = .next t ∧ (∀ d, d ≠ h → getView t d = getView s d) ∧
    (getView t h).held = (getView s h).held.eraseIdx i ∧ (getView t h).flight = (getView s h).flight ∧
    (getView t h).vc = (getView s h).vc.set w.origin (w.stamp.getD w.origin 0) ∧
    (∀ key, (∀ c ∈ w.cells, c.1 ≠ key) → viewByte t h key = viewByte s h key) ∧
    ∀ key b, w.cells = [(key, b)] → viewByte t h key = if wins (Tbl.get none (getView s h).stamps key) w.origin w.stamp then b else viewByte s h key) ∧
  ((getView s h).held[i]? = some w → canApply (getView s h).vc w = false → exec (.writeApply h i) s = .next s)

/-- R255, R256, R257, R459: a walk that ends, with those served together with it, enters its translation in the die's TLB; a parked command is replayed from its first element at the check that finds its page ready, and is looked at again
10,000 ticks later where it is not; a command refused by a full log enters it once there is room; and a migration moves a page's bytes and gives its entry the TGT and the FRAME of the new place. The model's own choices here are those of log entries 34, 35, 36 and 39. -/
def Obligations.TranslationEvents : Prop := ∀ (d i k : Nat) (s : State),
  (∀ w, (getDie s d).walks[i]? = some w → w.started.isSome = true →
    let served := (getDie s d).walks.filter fun x => x.started == w.started && walkKey x == walkKey w
    ∃ t, exec (.pageWalkComplete d i) s = .next t ∧ (getDie t d).walks.length + served.length = (getDie s d).walks.length ∧
      (served.length ≤ 16384 → ∀ x ∈ served, ∀ l, walkTree s x.vi (x.page * 65536) = some l → (⟨x.vi, x.page, l.pte, l.level⟩ : TlbEntry) ∈ (getDie t d).tlb) ∧
      (∀ j, getView t j = getView s j) ∧ ∀ j, getCore t j = getCore s j) ∧
  (∀ e g, (getDie s d).log[i]? = some e → getGrid s (getTeam s e.core e.cmd.tx).grid = some g →
    (recoverable e.fault = true → e.check ≤ tick s → pageReady s g.vi e.fault = none → ∃ t, exec (.commandLogCheck d i) s = .next t ∧
      (getDie t d).log = (getDie s d).log.set i { e with check := e.check + 10000 } ∧ ∀ j, getCore t j = getCore s j) ∧
    (∀ l, recoverable e.fault = true → e.check ≤ tick s → pageReady s g.vi e.fault = some l → ∃ t, exec (.commandLogCheck d i) s = .next t ∧
      (getDie t d).log.length + 1 = (getDie s d).log.length ∧
      ∃ c ∈ if onCopyEngine e.cmd then (getCore t e.core).copyq else (getTeam t e.core e.cmd.tx).jobs, c.serial = e.cmd.serial ∧ c.kind = e.cmd.kind ∧ c.st = e.cmd.st ∧ c.replayed = true) ∧
    (recoverable e.fault = false → g.st = .running → ∃ t g', exec (.commandLogCheck d i) s = .next t ∧ getGrid t (getTeam s e.core e.cmd.tx).grid = some g' ∧
      g'.st = .terminating (tick s + 2000) 1 ∧ ∃ r ∈ g'.traps, r.code = .copyfault ∧ r.detail = e.fault.detail)) ∧
  (∀ c f since retry, blockedCmds s k = [c] → c.st = .blocked f since retry → retry ≤ tick s → (getDie s (dieOf k)).log.length < 256 →
    ∃ t, exec (.commandLogEntryRetry k) s = .next t ∧ (getDie t (dieOf k)).log = (getDie s (dieOf k)).log ++ [⟨k, restartCmd c, f, since, tick s + 10000⟩]) ∧
  (∀ vi va x l, walkTree s vi va = some l → migrating s vi va l = false →
    let moves := fun (t : State) (m : Migration) => t = { s with migrations := s.migrations ++ [m] }
    let size := pageSize l.level
    (l.pte.tgt = 0 → l.pte.pin = false → declaredByAny s vi l va = false → shadowPinned s vi l va = false → x.toNat + size / 65536 ≤ 2 ^ 26 →
      ∃ t, exec (.migrationToTier vi va x) s = .next t ∧
        moves t { vi := vi, va := pageBase l va, size := size, toTier := true, target := x.toNat, hub := x.toNat / 2 ^ 25, start := tick s }) ∧
    (l.pte.tgt = 1 → wanted s vi va l = true → x.toNat + size / 65536 ≤ 2 ^ 24 → ∃ t, exec (.migrationBack vi va x) s = .next t ∧
      moves t { vi := vi, va := pageBase l va, size := size, toTier := false, target := x.toNat, hub := l.pte.frame / 2 ^ 25, start := tick s })) ∧
  (∀ m l, s.migrations[i]? = some m → walkTree s m.vi m.va = some l → ∃ t, exec (.migrationComplete i) s = .next t ∧ t.migrations = s.migrations.eraseIdx i ∧
    let tgt := if m.toTier then 1 else 0
    let src := leafKey l (pageBase l m.va)
    let dst := physKey tgt (m.target * 65536)
    (∀ h ∈ holders, h ≠ hub0 → Tbl.wf 0 (getView s h).bytes = true → ∀ j < pageSize l.level, viewByte t h (dst + j) = viewByte s h (src + j)) ∧
    ∃ w : List (Nat × Byte), w.map (·.1) = (List.range 8).map (l.entry + ·) ∧
      (m.target < 2 ^ 32 → Tbl.wf 0 (getView s hub0).bytes = true →
        (∀ j < 8, ∀ from_ ∈ [src, dst], l.entry + j < from_ ∨ from_ + pageSize l.level ≤ l.entry + j) → EntryBecomes s l tgt m.target w) ∧
      ∀ h ∈ holders, h ≠ hub0 → ∃ u, (getView t h).flight = (getView s h).flight.map (movedWrite src dst (pageSize l.level)) ++ [u] ∧ u.origin = hub0 ∧ u.cells = w)

namespace Sys2Proof.Claims

/-! ## Events of queues and launches -/

/-- A record has been written to a queue's event ring, of descriptor `d`, and no other of the queue waits (R349, R350). -/
def RingGets (s t : State) (k : Nat) (x : Queue) (d : QDescr) (e : EvRec) : Prop :=
  (∃ y, getQueue t k = some y ∧ y.evIdx = x.evIdx + 1 ∧ y.pending = []) ∧
  let at_ := d.ebase + 64 * (x.evIdx % 2 ^ d.elog)
  let bs := bytesOf (eventRec e) 64
  vaCells s (queueVi k) at_ bs ≠ [] → ∀ h ∈ holders, h ≠ queueHub x → ∃ w ws, (getView t h).flight = (getView s h).flight ++ w :: ws ∧ VaCells s (queueVi k) at_ bs w.cells

/-- The event record of a command that is no grid's. -/
def plainRec (s : State) (status tag : Nat) (qid : DWord) : EvRec := { status := status, tag := tag, qid := qid, grid := none, end_ := tick s }

/-- A queue's next command is the packet `p`, and its event ring has room for a record that nothing goes before. -/
structure NextCommand (s : State) (k : Nat) (x : Queue) (p : Packet) : Prop where
  queue : getQueue s k = some x
  packet : ∃ u, nextPacket s k = some (p, u)
  empty : x.pending = []
  room : x.evIdx - x.taken < 2 ^ x.descr.elog

/-- The state in which a queue's command has been taken: its consumer index has moved on, and its packet has been read. -/
def taken (s : State) (k : Nat) : State :=
  modQueue { s with freeNo := s.freeNo + 64 } k fun q => { q with cons := (q.cons + 1) % 2 ^ 64 }

end Sys2Proof.Claims

/-- R331, R332, R360: a signal store to a mapped queue sets its producer index; one to an unmapped queue maps it on the lowest free slot, at once or when one falls free; a slot is given up after the
idle time; and a changed VI_QTABLE entry clears the queue's history. The model's own choices here are those of log entries 67 and 68. -/
def Obligations.QueueMappingEvents : Prop := ∀ (vi q h n : Nat) (val : DWord) (s : State) (x : Queue),
  let k := queueKey vi q
  let addr := (Tbl.get 0 (getVi s vi).qtable q).toNat
  let d := qdescrOf (natOf (hubRead s (slotHub n) vi addr 64).1)
  (getQueue s k = some x → x.slot.isSome = true → ∃ t, exec (.doorbellSignalStore vi q val) s = .next t ∧
    getQueue t k = some { x with prod := val.toNat, lastSignal := tick s } ∧ ∀ j, j ≠ k → getQueue t j = getQueue s j) ∧
  (getQueue s k = none → freeQueueSlot s = some n → (vaKey s vi addr).isSome = true → d.ok = true →
    (∃ t y, exec (.doorbellSignalStore vi q val) s = .next t ∧ getQueue t k = some y ∧ y.slot = some n ∧ y.prod = val.toNat ∧ y.cons = 0 ∧ y.descr = d ∧
      y.history = []) ∧
    ∀ ws, (getHub s h).waiting = (vi, q, val) :: ws → ∃ t y, exec (.queueSlotMapDeferred h) s = .next t ∧
      (getHub t h).waiting = (if h = 0 then ws.filter fun w => !(w.1 == vi && w.2.1 == q) else ws) ∧ getQueue t k = some y ∧
      y.slot = some n ∧ y.prod = val.toNat) ∧
  (slotQueue s n = some k → getQueue s k = some x → x.processing = none → x.lastSignal + idleTicks s n ≤ tick s → ∃ t, exec (.queueIdleTimeout n) s = .next t ∧
    getQueue t k = some { x with slot := none }) ∧
  (∃ t, exec (.viQtableWrite vi q val) s = .next t ∧ Tbl.get 0 (getVi t vi).qtable q = val ∧
    (getQueue s k = some x → Tbl.get 0 (getVi s vi).qtable q ≠ val → getQueue t k = some { x with history := [] }) ∧
    (Tbl.get 0 (getVi s vi).qtable q = val → ∀ j, getQueue t j = getQueue s j))

/-- R334, R335, R336, R346, R350: a bad packet is skipped with a BADCMD record; MARK's record follows every earlier one; DECLINE drops the queue's own open quotation; QUOTE adds a quotation with the
next identifier and writes its record; and an interrupt signals every unsignalled record at the count or at the timer. The model's own choices here are those of log entries 64, 65 and 66. -/
def Obligations.CommandEvents : Prop := ∀ (k : Nat) (s : State) (x : Queue) (p : Packet),
  (NextCommand s k x p → badPacket p = true → ∃ t, exec (.badcmd k) s = .next t ∧ RingGets s t k x x.descr (plainRec s 0x24 p.tag 0)) ∧
  (NextCommand s k x p → isCommand 5 p = true → ∃ t, exec (.mark k) s = .next t ∧
    getQueue t k = some { x with cons := (x.cons + 1) % 2 ^ 64, processing := some p, posted := false }) ∧
  (getQueue s k = some x → x.pending = [] → x.evIdx - x.taken < 2 ^ x.descr.elog → x.processing = some p → p.opc = 5 → x.posted = false → ∃ t, exec (.markPost k) s = .next t ∧
    RingGets s t k x x.descr (plainRec s 0x10 p.tag (BitVec.ofNat 64 (fieldAt p.arg.toNat 0 32))) ∧ ∃ y, getQueue t k = some y ∧ y.processing = none) ∧
  (∀ z, NextCommand s k x p → isCommand 3 p = true → s.quotes.find? (·.qid == p.arg) = some z → queueKey z.vi z.q = k → z.status = 0 → z.taken = false →
    ∃ t, exec (.decline k) s = .next t ∧ t.quotes = s.quotes.map fun y => if y.qid = p.arg then { y with dead := true } else y) ∧
  (NextCommand s k x p → isCommand 3 p = true → (∀ z ∈ s.quotes, z.qid ≠ p.arg) → ∃ t, exec (.decline k) s = .next t ∧ RingGets s t k x x.descr (plainRec s 0x22 p.tag p.arg)) ∧
  (NextCommand s k x p → isCommand 1 p = true →
    let m := makeQuote (taken s k) k { x with cons := (x.cons + 1) % 2 ^ 64 } p
    ∃ t y, exec (.quote k) s = .next t ∧ t.quotes = s.quotes ++ [m.1] ∧ m.1.qid = s.nextQid ∧ m.1.qtick = tick s ∧ t.nextQid = s.nextQid + 1 ∧
      getQueue t k = some y ∧ y.evIdx = x.evIdx + 1 ∧
      (vaCells s (queueVi k) p.qrec (bytesOf (quoteRec m.1) 128) ≠ [] → ∀ h ∈ holders, h ≠ queueHub x →
        ∃ w ws, (getView t h).flight = (getView s h).flight ++ w :: ws ∧ VaCells s (queueVi k) p.qrec (bytesOf (quoteRec m.1) 128) w.cells)) ∧
  (getQueue s k = some x → 0 < x.unsig → x.descr.ccount ≤ x.unsig → ∃ t, exec (.eventInterruptCount k) s = .next t ∧
    (getVi t (queueVi k)).vectors = (getVi s (queueVi k)).vectors ++ [x.descr.vec] ∧ getQueue t k = some { x with unsig := 0 }) ∧
  (getQueue s k = some x → 0 < x.unsig → x.descr.cticks ≠ 0 → x.oldest + x.descr.cticks ≤ tick s → ∃ t, exec (.eventInterruptTimer k) s = .next t ∧
    (getVi t (queueVi k)).vectors = (getVi s (queueVi k)).vectors ++ [x.descr.vec] ∧ getQueue t k = some { x with unsig := 0 }) ∧
  (∀ e es, getQueue s k = some x → x.pending = e :: es → e.ready = true → ringRoom s x e = false → ∃ t y, exec (.eventRecordDeferred k) s = .next t ∧ getQueue t k = some y ∧
    x.taken < y.taken ∧ y.taken ≤ x.evIdx ∧ (x.evIdx - x.taken = 2 ^ (ringOf s x e).elog → x.evIdx < y.evIdx))

/-- R273, R334, R336, R346, R347, R349, R353, R370: ACCEPT and LAUNCH bind a quotation to a grid that waits, or answer why not; a BOUND grid starts once the earlier grids of its queue have completed and its
pairs are free, with its reservation running from that tick, or from the tick in which only the comparison of a prediction held it back; and a grid that has ended and whose writes are applied everywhere leaves its places and writes its record. The model's own choices here are those of log entries 61 and 69. -/
def Obligations.LaunchEvents : Prop := ∀ (k gid : Nat) (s : State) (x : Queue) (p : Packet) (g : Grid),
  (∀ y kern, NextCommand s k x p → isCommand 2 p = true → getPred s s.nextGrid = none → openQuote s k p.arg = some (y, kern) →
    (tick s ≤ y.accby → (y.descr.loose = true ∨ staleQuote s k y = false) → ∃ t b, exec (.accept k) s = .next t ∧ getGrid t s.nextGrid = some b ∧ b.qid = p.arg ∧
      b.tag = p.tag ∧ b.st = .waiting ∧ b.accepted = tick s ∧ t.nextGrid = s.nextGrid + 1) ∧
    (y.accby < tick s → ∃ t, exec (.accept k) s = .next t ∧ RingGets s t k x x.descr (plainRec s 0x21 p.tag p.arg)) ∧
    (tick s ≤ y.accby → y.descr.loose = false → staleQuote s k y = true → ∃ t, exec (.accept k) s = .next t ∧ RingGets s t k x x.descr (plainRec s 0x20 p.tag p.arg))) ∧
  (NextCommand s k x p → isCommand 2 p = true → openQuote s k p.arg = none → ∃ t, exec (.accept k) s = .next t ∧ RingGets s t k x x.descr (plainRec s 0x22 p.tag p.arg)) ∧
  (NextCommand s k x p → isCommand 4 p = true → getPred s s.nextGrid = none → (∀ z ∈ s.quotes, z.qid ≠ s.nextQid) →
    let m := makeQuote (taken s k) k { x with cons := (x.cons + 1) % 2 ^ 64 } p
    (inLimits m.1 = true → m.1.kernel ≠ none → (m.1.descr.loose = true ∨ staleQuote m.2 k m.1 = false) → ∃ t b, exec (.launch k) s = .next t ∧ getGrid t s.nextGrid = some b ∧
      b.qid = s.nextQid ∧ b.tag = p.tag ∧ b.st = .waiting) ∧
    (inLimits m.1 = false → ∃ t y, exec (.launch k) s = .next t ∧ getQueue t k = some y ∧ y.evIdx = x.evIdx + 1 ∧ ∀ n, getGrid t n = getGrid s n)) ∧
  (∀ r, getGrid s gid = some g → g.st = .waiting → queueFree s gid g = true → awaitsPred s gid = false → g.loose = false → g.cores.Nodup →
    s.reservations.find? (·.qid == g.qid) = some r → pairsFree s r.pairs = true → heldBefore s r = false → ∃ t b, exec (.gridStart gid) s = .next t ∧ getGrid t gid = some b ∧ b.st = .running ∧
      b.started = g.readyAt.getD (tick s) ∧ b.cores = g.cores ∧ (∀ y ∈ t.reservations, y.qid = g.qid → y.endTick = b.started + g.terms.wct) ∧
      ∀ c ∈ g.cores, ∀ tx, freePlace (getCore s c) = some tx → (slotsFor (getCore s c) g.kernel).isSome = true → ∃ m, teamAt (getCore t c) tx = some m ∧ m.grid = gid ∧ g.cores[m.index]? = some c ∧ m.ngroups = 0) ∧
  (∀ e, getGrid s gid = some g → running s gid = false → g.st ≠ .finished → gridEnded s gid g = true → writesSettled s g = true → queueKey g.vi g.q = k →
    getQueue s k = some x → x.pending = [e] → e.grid = some gid → e.ready = false → ringRoom s x e = true → ∃ t, exec (.completionRecord gid) s = .next t ∧
      getGrid t gid = none ∧ (∀ c ∈ teamsOf s gid, teamAt (getCore t c.1) c.2 = none) ∧ RingGets s t k x (g.qdescr.getD x.descr) (completionOf s g))

namespace Sys2Proof.Claims

/-! ## Events of contexts, agents and predictions -/

/-- A grid has come to a state. -/
def GridAt (t : State) (gid : Nat) (st : GridSt) : Prop := ∃ g, getGrid t gid = some g ∧ g.st = st

/-- A team has left its place. -/
def Left (t : State) (k tx : Nat) : Prop := teamAt (getCore t k) tx = none

end Sys2Proof.Claims

/-- R353, R392, R393, R394, R395, R398, R399, R401, R402: a request marks every team of its context; a late team stops issuing, and a ready one is saved with its windows and leaves its place; a stalled save ends
by reset; a saved context runs again on free places with the windows that it had; and a migrated team goes to its new core. The model's own choices here are those of log entries 63, 77 and 78. -/
def Obligations.ContextEvents : Prop := ∀ (gid k tx n : Nat) (s : State) (g : Grid), getGrid s gid = some g →
  let tm := getTeam s k tx
  (∀ e, g.sliceEnd = some e → e ≤ tick s → g.st = .running → gridOver g = false → ∃ t, exec (.timeSliceEnd gid) s = .next t ∧ GridAt t gid .saving ∧
    (∀ c ∈ teamsOf s gid, (getTeam t c.1 c.2).preempt = some (tick s)) ∧
    (g.loose = true → levelList t g.descr.prio = (levelList s g.descr.prio).filter (· != gid) ++ [gid])) ∧
  (g.st = .saving → ∃ t, exec (.forcedSaveStart gid) s = .next t ∧ (∀ c ∈ lateTeams s gid g, (getTeam t c.1 c.2).saving = some (tick s) ∧ (getTeam t c.1 c.2).stopped = true) ∧
    ∀ a b, (a, b) ∉ lateTeams s gid g → { getTeam t a b with issued := (getTeam s a b).issued } = getTeam s a b) ∧
  (g.st = .saving → forcedReady s gid = [(k, tx)] → tm.grid = gid → ∃ t b, exec (.forcedSaveComplete gid) s = .next t ∧ Left t k tx ∧ getGrid t gid = some b ∧
    ∃ sv, b.saved = g.saved ++ [sv] ∧ sv.core = k ∧ sv.tx = tx ∧ sv.forced = true ∧ sv.team.sp = tm.sp ∧ sv.team.ob = tm.ob ∧ sv.traps = teamTraps (getCore s k) tx) ∧
  (∀ e, g.st = .saving → trapped g = false → stalledTeam s gid = some e → ∃ t, exec (.forcedSaveTimeout gid) s = .next t ∧
    GridAt t gid (.terminating (tick s + 2000) (2 + 256 * resetDetail s g (getTeam s e.1 e.2)))) ∧
  (∀ sv slots, mayRestore s gid g = true → g.saved = [sv] → restoreCores s gid g = some [k] → freePlace (getCore s k) = some tx →
    slotsFor (getCore s k) g.kernel = some slots → ∃ t m, exec (.contextRestore gid) s = .next t ∧ GridAt t gid .running ∧ teamAt (getCore t k) tx = some m ∧ m.grid = gid ∧
      m.index = sv.team.index ∧ m.sp = sv.team.sp ∧ m.ob = sv.team.ob ∧ m.rsv = sv.team.rsv ∧ m.bars = sv.team.bars) ∧
  (tm.grid = gid → k ≠ n → canMigrate s k tx = true → (usableDies s g.descr.dies).contains (dieOf n) = true → pairReserved s (pairOf n) = false → fitsCore s n gid g = true →
    ∃ t m, exec (.teamMigrate k tx n) s = .next t ∧ Left t k tx ∧ (∃ ty, freePlace (getCore s n) = some ty ∧ teamAt (getCore t n) ty = some m) ∧ m.grid = gid ∧ m.sp = tm.sp ∧
      m.ob = tm.ob ∧ m.index = tm.index)

/-- R387, R396, R450, R452: the host stops, resumes and ends a context of its interface; a core's agent claims the first trap record, which ends the grid unless it is held for a debugger; and an agent draws
the next ticket of a hub, which names the entry of its number modulo 4,096, and whose work is posted again 50,000 ticks later. The model's own choices here are those of log entries 70 and 80. -/
def Obligations.HostContextAndAgentEvents : Prop := ∀ (vi gid k h i : Nat) (s : State) (g : Grid),
  (getGrid s gid = some g → (getVi s vi).ctxstate ≠ 1 → ctxGrid s vi = some (gid, g) → gridOver g = false →
    (g.st = .running → ∃ t b, exec (.viCtxctlStop vi) s = .next t ∧ (getVi t vi).ctxstate = 1 ∧ getGrid t gid = some b ∧ b.st = .saving ∧ b.hostReq = true ∧
      ∀ c ∈ teamsOf s gid, (getTeam t c.1 c.2).preempt = some (tick s)) ∧
    (g.st = .stopped → ∃ t, exec (.viCtxctlResume vi) s = .next t ∧ (getVi t vi).ctxstate = 0 ∧ GridAt t gid (if g.saved.isEmpty then .waiting else .saved)) ∧
    (g.st = .running → trapped g = false → ∃ t, exec (.viCtxctlReset vi) s = .next t ∧ (getVi t vi).ctxstate = 0 ∧ GridAt t gid (.terminating (tick s + 2000) 3))) ∧
  (∀ r, nextRecord (getCore s k) = some (i, r) → r.teamx ≠ 2 → getGrid s (getTeam s k r.teamx).grid = some g → running s (getTeam s k r.teamx).grid = false →
    (ends g r.code = true → g.st = .running → ∃ t, exec (.trapRecordClaim k) s = .next t ∧ GridAt t (getTeam s k r.teamx).grid (.terminating (tick s + 2000) 1)) ∧
    (ends g r.code = false → ∃ t, exec (.trapRecordClaim k) s = .next t ∧ OnlyCore k s t ∧
      (∀ j, Tbl.get none (getCore t k).traps j = if j = i then some { r with claimed := true } else Tbl.get none (getCore s k).traps j) ∧
      { getCore t k with traps := (getCore s k).traps } = getCore s k)) ∧
  (∀ e, (getHub s h).ring[i]? = some e → e.core.isSome = true → e.drawn + 50000 ≤ tick s →
    let x := getHub s h
    let rest := x.ring.eraseIdx i
    (∀ y ∈ rest, y.work ≠ e.work ∧ y.ticket % 4096 ≠ x.posted % 4096) → ∃ t by_ at_, exec (.workEntryTimeout h i) s = .next t ∧
      getHub t h = { x with posted := (x.posted + 1) % 2 ^ 64, ring := rest ++ [⟨x.posted, by_, at_, e.work⟩] } ∧
      ((∀ y ∈ s.cores, y.2.ticket ≠ some (h, x.posted)) → by_ = none) ∧ (∀ j, j ≠ h → getHub t j = getHub s j) ∧ { t with hubs := s.hubs } = s) ∧
  (let x := getHub s h
   let mine := fun (y : WorkEntry) => y.ticket % 4096 = x.tickets % 4096 ∧ y.core = none
   (drawnAbove s h k = true → exec (.agentTicketDraw k h) s = .next s) ∧
   (drawnAbove s h k = false → (getCore s k).ticket = none → (getDie s (dieOf k)).tripped = none → ∃ t, exec (.agentTicketDraw k h) s = .next t ∧
     (getCore t k).ticket = some (h, x.tickets) ∧ (getHub t h).tickets = (x.tickets + 1) % 2 ^ 64 ∧ (getHub t h).ring.length = x.ring.length ∧
     ∀ (j : Nat) (y : WorkEntry), x.ring[j]? = some y → (mine y → (getHub t h).ring[j]? = some { y with core := some k, drawn := tick s }) ∧ (¬mine y → (getHub t h).ring[j]? = some y)))

/-- R364, R365, R366, R370, R371, R374, R375, R376, R377: a prediction starts as a LOOSE grid of its own on idle pairs; it is discarded where a generation has changed or its hold has run out; one that has
passed the comparison is claimed, which gives the launch its end, remaps its pages and counts it; and FLY_CTL takes effect at once, or when no prediction is in flight. The model's own choices here are those of log entries 72, 73, 74, 75, 76 and 126. -/
def Obligations.PredictionEvents : Prop := ∀ (k i gid bound : Nat) (s : State) (v : DWord),
  let count := fun (u : State) (n : Nat) => Tbl.get 0 u.prdCounts n
  (∀ e args o, mayPredict s k = some (e, args, o) →
    (∀ j ∈ s.queues, ∀ x y, j.2 = some x → getQueue s k = some y → slotOf x < slotOf y → mayPredict s j.1 = none) →
    ∃ t g p, exec (.predictionStart k) s = .next t ∧ getGrid t s.nextGrid = some g ∧ g.st = .running ∧ g.loose = true ∧ g.cores = o.2.1 ∧ g.argBlock = args ∧
      getPred t s.nextGrid = some p ∧ p.readSet = [] ∧ p.shadows = [] ∧ p.adopted = false ∧ count t 0 = (count s 0 + 1) % 2 ^ 64) ∧
  (∀ p g, predOf s k = some (i, p) → getPred s i = some p → getGrid s i = some g →
    (∀ f, p.finished = some f → p.launch = none → p.adopted = false → f + 1000 * max 1 s.prdHold ≤ tick s → ∃ t, exec (.predictionHoldExpiry k) s = .next t ∧
      getPred t i = none ∧ getGrid t i = none ∧ count t 9 = (count s 9 + 1) % 2 ^ 64) ∧
    (∀ r, p.launch = some (gid, bound) → getGrid s gid = some r → r.st = .waiting → p.adopted = false → i ≠ gid →
      (g.traps ≠ [] → ∃ t, exec (.predictionRevalidate k) s = .next t ∧ getPred t i = none ∧ getGrid t gid = some r ∧ count t 6 = (count s 6 + 1) % 2 ^ 64) ∧
      (g.traps = [] → p.checked = false → viewsReady s p r.clock = true →
        (gensAgree s p = false → ∃ t, exec (.predictionRevalidate k) s = .next t ∧ getPred t i = none ∧ getGrid t gid = some r ∧ count t 4 = (count s 4 + 1) % 2 ^ 64) ∧
        (∀ f, gensAgree s p = true → p.finished = some f → f ≤ bound → claimTicks p.shadows.length ≤ r.terms.wct → ∃ t, exec (.predictionRevalidate k) s = .next t ∧
          getPred t i = some { p with checked := true } ∧ ∀ n, getGrid t n = getGrid s n)) ∧
      (p.checked = true → ∃ t b, exec (.predictionClaim k) s = .next t ∧ getPred t i = none ∧ getGrid t i = none ∧ getGrid t gid = some b ∧ b.st = .running ∧
        b.claimed = true ∧ b.started = bound ∧ b.retired = b.cores.length ∧ b.remapped = some p.shadows.length ∧ count t 1 = (count s 1 + 1) % 2 ^ 64 ∧
        ∀ x l, p.shadows = [x] → walkTree s x.vi x.va = some l →
          (let old := leafKey l (pageBase l x.va)
           (keyTgt old = 0 → Tbl.get 0 t.flyFrames old = x.size) ∧ (x.size = 65536 → genOf t x.frame = (genOf s old + 1) % 2 ^ 48)) ∧
          (x.frame < 2 ^ 48 → ∃ w, SentTo s t hub0 w ∧ EntryBecomes s l 0 (x.frame / 65536) w)))) ∧
  (∃ t, exec (.flyCtlWrite v) s = .next t ∧ (s.preds = [] → t.flySize = flySizeOf v ∧ t.flyWrite = none) ∧ (s.preds ≠ [] → t.flySize = s.flySize ∧ t.flyWrite = some v)) ∧
  (s.flyWrite = some v → s.preds = [] → ∃ t, exec .flyCtlApply s = .next t ∧ t.flySize = flySizeOf v ∧ t.flyWrite = none)

namespace Sys2Proof.Claims

/-! ## Events of the fabric, of power and heat -/

/-- From `s` to `t` nothing has changed but one port. -/
def OnlyPort (n : Nat) (s t : State) : Prop := (∀ m, m ≠ n → getPort t m = getPort s m) ∧ { t with ports := s.ports } = s

/-- From `s` to `t` nothing has changed but one cluster. -/
def OnlyCluster (n : Nat) (s t : State) : Prop := (∀ m, m ≠ n → getCluster t m = getCluster s m) ∧ { t with clusters := s.clusters } = s

/-- A cluster has been ordered to a point (R424): the voltage rises first, at 0.5 mV a tick, and the switch comes after it; else the switch of 70 ticks comes at once; at the
point already, the voltage falls to that of the point. -/
def HeadsFor (c c' : Cluster) (p now : Nat) : Prop :=
  let v := voltsAt c now
  c'.cur = c.cur ∧ c'.change = (if v < pointVolts p then .slewUp p (now + (pointVolts p - v)) else if p ≠ c.cur then .switch p (now + 70)
    else if pointVolts p < v then .slewDown p (now + (v - pointVolts p)) else .none)

/-- From `s` to `t` nothing has changed but one die. -/
def OnlyDie (n : Nat) (s t : State) : Prop := (∀ m, m ≠ n → getDie t m = getDie s m) ∧ { t with dies := s.dies } = s

end Sys2Proof.Claims

/-- R407 to R409: a port that carries flits sends, at a flit boundary and with no lane to be repaired, control flits first, then what is to be sent again, in order, then the next transaction, which it
numbers and keeps; a flit takes 32/7 ticks over the lanes in use; the port accepts each data flit once and in order, acknowledges it, rejects one out of order or with a bad CRC, frees what an ACK names and sends the rest again at a replay request. The model's own choices here are those of log entries 82, 83 and 123. -/
def Obligations.FlitEvents : Prop := ∀ (n : Nat) (s : State) (f : Flit) (ack : BitVec 12), portCarries (getPort s n) = true →
  let p := getPort s n
  let sends := fun (f : Flit) (q : Port) => ∃ t, exec (.flitSend n) s = .next t ∧ OnlyPort n s t ∧ getPort t n = { q with sent := some f, busyTo := s.time + 11520 / max 1 p.used.cpop.toNat }
  (p.busyTo ≤ s.time → (∀ l < 4, repairDue s n l = false) →
    (∀ dev d ds, p.ctl = [] → p.resend = 0 → p.txq = (dev, d) :: ds → p.replay.length < 512 →
      let f := sealFlit 1 (ackOf p) (seqOf p.seq) (payloadOf d)
      ∃ q, sends f q ∧ q.seq = (p.seq + 1) % 4096 ∧ q.replay = p.replay ++ [(dev, f)] ∧ q.txq = ds ∧ q.expect = p.expect ∧ q.received = p.received) ∧
    (∀ a x b, p.ctl = [] → p.replay = a ++ x :: b → p.resend = b.length + 1 → sends x.2 { p with resend := b.length }) ∧
    (∀ c cs, p.ctl = c :: cs → sends c { p with ctl := cs })) ∧
  (flitGood f = true → f.type = 1 → f.seq = seqOf p.expect → ∃ t, exec (.flitDataReceive n f) s = .next t ∧ (getPort t n).expect = (p.expect + 1) % 4096 ∧
    (getPort t n).received = p.received ++ [f.payload] ∧ (getPort t n).asked = false ∧ ∃ a, (getPort t n).ctl = p.ctl ++ [a] ∧ a.type = 2 ∧ a.ack = seqOf ((p.expect + 1) % 4096 + 4095)) ∧
  (flitGood f = true → f.type = 1 → f.seq ≠ seqOf p.expect → p.asked = false → ∃ t, exec (.flitDataReceive n f) s = .next t ∧ OnlyPort n s t ∧
    (getPort t n).received = p.received ∧ (getPort t n).asked = true ∧ ∃ a, (getPort t n).ctl = p.ctl ++ [a] ∧ a.type = 3 ∧ a.ack = ackOf p) ∧
  (flitGood f = false → ∃ t, exec (.flitDataReceive n f) s = .next t ∧ (getPort t n).crcErr = min (p.crcErr + 1) 65535 ∧ (getPort t n).received = p.received ∧
    (getPort t n).expect = p.expect) ∧
  (∀ a b x, p.replay = a ++ x :: b → (∀ y ∈ a, y.2.seq ≠ ack) → x.2.seq = ack →
    (∃ t, exec (.flitAckReceive n ack) s = .next t ∧ OnlyPort n s t ∧ (getPort t n).replay = b) ∧
    ∃ t, exec (.flitReplayRequestReceive n ack) s = .next t ∧ OnlyPort n s t ∧ (getPort t n).replay = b ∧ (getPort t n).resend = b.length ∧
      (getPort t n).replays = min (p.replays + 1) 65535)

/-- R405, R410, R411, R412: a lane whose errors pass ETHR, or which the far end has dropped, leaves the port's good lanes at a flit boundary, and with fewer than two the port retrains for 5,000 ticks; a retrained port comes
up and sends its buffer again; a quiet port sheds to its lowest good lane, and a shed one whose queue has passed 8 flits regains them all; a peer out of reach for 5,000 ticks stops the commands that need it; and host time beyond 1,000
ticks is excused. The model's own choices here are those of log entries 83, 84, 85 and 122. -/
def Obligations.LaneAndPeerEvents : Prop := ∀ (n l : Nat) (s : State), l < 4 →
  let p := getPort s n
  let less := p.good &&& ~~~BitVec.twoPow 4 l
  (portCarries p = true → p.good.getLsbD l = true →
    (p.busyTo ≤ s.time → p.ethr < (laneErrors p l (tick s)).length ∨ l ∈ p.told → ∃ t, exec (.laneRepair n l) s = .next t ∧ (getPort t n).good = less ∧
      (2 ≤ less.cpop.toNat → portCarries (getPort t n) = true ∧ (getPort t n).repairing = p.repairing ++ [(l, tick s + 200)]) ∧
      (less.cpop.toNat < 2 → (getPort t n).st = .retraining (tick s + 5000) ∧ (getPort t n).repairing = [])) ∧
    (s.time < p.busyTo → exec (.laneRepair n l) s = .next s) ∧
    (l ∉ p.told → ∃ t, exec (.laneControlFlitReceive n l) s = .next t ∧ OnlyPort n s t ∧ getPort t n = { p with told := p.told ++ [l] })) ∧
  (∀ x rest, p.repairing = x :: rest → ∃ t, exec (.laneRepairDone n) s = .next t ∧ getPort t n = { p with repairing := rest } ∧ (tick s ≤ x.2 → OnlyPort n s t)) ∧
  (∀ due, p.st = .retraining due → ∃ t, exec (.portRetrainDone n) s = .next t ∧ (getPort t n).st = .up ∧ (getPort t n).resend = p.replay.length ∧
    (p.good ≠ 0 → (getPort t n).used = p.good) ∧ (getPort t n).replay = p.replay) ∧
  (canShed s n = true → ∃ t, exec (.laneShed n) s = .next t ∧ OnlyPort n s t ∧
    getPort t n = { p with st := .shed, used := BitVec.twoPow 4 ((((List.range 4).filter fun i => p.good.getLsbD i)).headD 0) }) ∧
  (p.st = .shed → p.highSince ≠ 0 → ∃ t, exec (.laneRegain n) s = .next t ∧ OnlyPort n s t ∧ getPort t n = { p with st := .up, used := p.good, highSince := 0 }) ∧
  (∀ k tx c g, peerLost s n = true → s.cores.map (·.1) = [k] → trapRoom s k tx c.group = true → tx = 0 → teamGrid s (getTeam s k tx) = some g →
    (getCore s k).copyq = [c] → c.tx = tx → needsPeer s g n c = true → (getTeam s k tx).jobs = [] → ∃ t, exec (.peerUnreachableTimeout n) s = .next t ∧ (getCore t k).copyq = [] ∧
      ∃ r ∈ ((getCore t k).traps).filterMap (·.2), r.code = .soft ∧ r.detail = 3) ∧
  (∀ k i g, (getCore s k).hostReads = [i] → getGrid s i = some g → ∃ t b, exec (.hostCompletion k false n) s = .next t ∧ getGrid t i = some b ∧ b.excused = g.excused + (n - 1000) ∧
    (getCore t k).hostReads = [])

/-- R341, R423, R424, R425, R434: CL_DVFS takes each field that is not denied, and a denial is counted; CL_SLOPE and DRP_THRESH clamp; a change of point raises the voltage before the switch and lowers it after,
at 0.5 mV a tick with 70 ticks for the switch; and the governor steps a cluster one point slower from an idle ratio of 160 in 1/256 on and one faster up to 48, no faster than CEIL, the cap of the die's hottest sensor
and the power controller's limit. The model's own choices here are those of log entries 95, 96 and 98. -/
def Obligations.PointEvents : Prop := ∀ (n : Nat) (s : State) (v : DWord),
  let c := getCluster s n
  let now := tick s
  let field := fun lo len => v.toNat / 2 ^ lo % 2 ^ len
  (∃ t, exec (.clDvfsWrite n v) s = .next t ∧ (getCluster t n).mode = v.getLsbD 3 ∧ (getCluster t n).req = (if (denial c (field 0 3)).isSome then c.req else field 0 3) ∧
    (getCluster t n).ceil = (if (denial c (field 4 3)).isSome then c.ceil else field 4 3) ∧
    (denial c (field 0 3) = none → denial c (field 4 3) = none → t.denyCount = s.denyCount ∧ OnlyCluster n s t) ∧
    (c.throttle ≠ .run ∨ c.held ≠ 7 ∨ v.getLsbD 3 = false → (getCluster t n).cur = c.cur ∧ (getCluster t n).change = c.change) ∧
    (c.throttle = .run → c.held = 7 → v.getLsbD 3 = true → HeadsFor c (getCluster t n) (getCluster t n).req now)) ∧
  (∃ t, exec (.clSlopeWrite n v) s = .next t ∧ OnlyCluster n s t ∧ getCluster t n = { c with slope := max 600 (min 12000 (field 0 16)) }) ∧
  (∃ t, exec (.drpThreshWrite n v) s = .next t ∧ OnlyCluster n s t ∧ getCluster t n = { c with droopMv := max 10 (min 100 (field 0 7)) }) ∧
  (∀ p due, c.change = .slewUp p due → due ≤ now → c.cur ≠ p → ∃ t, exec (.voltageSlewDone n) s = .next t ∧ OnlyCluster n s t ∧
    getCluster t n = { c with mv2 := pointVolts p, change := .switch p (now + 70) }) ∧
  (∀ p due, c.change = .slewDown p due → due ≤ now → ∃ t, exec (.voltageSlewDone n) s = .next t ∧ OnlyCluster n s t ∧ ∃ b, (c.throttled = false → b = false) ∧
    getCluster t n = { c with mv2 := pointVolts p, change := .none, throttled := b }) ∧
  (∀ p due, c.change = .switch p due → due ≤ now → ∃ t, exec (.frequencySwitchDone n) s = .next t ∧ OnlyCluster n s t ∧ (getCluster t n).cur = p ∧
    (getCluster t n).change = (if pointVolts p < c.mv2 then .slewDown p (now + (c.mv2 - pointVolts p)) else .none)) ∧
  (c.sampleDue ≤ now → governed c = true → ∃ t, exec (.governorSample n) s = .next t ∧ OnlyCluster n s t ∧ (getCluster t n).sampleDue = now + 10000 ∧
    let ratio := if cyclesAt c s.time ≤ c.sampleCyc then 0 else min 255 (c.stallIdle * 256 / (cyclesAt c s.time - c.sampleCyc))
    let fastest := max c.ceil (max (dieCap (getDie s (n / 9))) c.limit)
    let goal := if 160 ≤ ratio then max fastest (min 5 (c.cur + 1)) else if ratio ≤ 48 then max fastest (c.cur - 1) else c.cur
    (getCluster t n).ratio = ratio ∧ (goal ≠ c.cur → HeadsFor c (getCluster t n) goal now) ∧
    (goal = c.cur → (getCluster t n).cur = c.cur ∧ (getCluster t n).change = c.change)) ∧
  (c.sampleDue ≤ now → governed c = false → ∃ t, exec (.governorSample n) s = .next t ∧ OnlyCluster n s t ∧ (getCluster t n).sampleDue = now + 10000 ∧
    (getCluster t n).cur = c.cur ∧ (getCluster t n).change = c.change)

/-- R341, R426, R428, R429, R430, R431, R432, R433: a droop alarm stretches the next 6 cycles and bars issue in the 64 after them; a sensor at the trip point trips its die, whose clusters go off 1,000 ticks
later; a cluster that a sensor at the throttle point stops is at P5, restarts there, holds it for 200 ticks and goes to the slower of its point and its sensor's cap; a stack's refresh mode follows its
temperature; each measurement above a current limit is counted, and one at or below it starts the count again; and towards a target above the measured power a prediction starts, else ballast is placed,
else burn rises, while one below it lowers burn first and then saves the running ballast. The model's own choices here are those of log entries 96, 97, 98, 99 and 133. -/
def Obligations.HeatAndPowerEvents : Prop := ∀ (n d : Nat) (s : State),
  let c := getCluster s n
  let now := tick s
  (∃ t, exec (.droopAlarm n) s = .next t ∧
    let m := if clockStopped c then cyclesAt c s.time else cyclesAt c s.time + 1
    (getCluster t n).stretchFrom = m ∧ (getCluster t n).stretchTo = m + 6 ∧ (getCluster t n).barredTo = m + 70 ∧ (getCluster t n).droopCount = (c.droopCount + 1) % 2 ^ 64) ∧
  (c.barredTo ≠ 0 → c.barredTo ≤ cyclesAt c s.time → ∃ t, exec (.droopWindowEnd n) s = .next t ∧ OnlyCluster n s t ∧
    (getCluster t n).stretchFrom = 0 ∧ (getCluster t n).stretchTo = 0 ∧ (getCluster t n).barredTo = 0) ∧
  (∀ temps, temps.length = 16 → (getDie s d).tripped = none → ∃ t, exec (.sensorSample d temps) s = .next t ∧
    (∀ i < 16, Tbl.get 0 (getDie t d).temps i = temps.getD i 0) ∧
    ((∃ i < 16, 2000 ≤ (temps.getD i 0).toInt) → (getDie t d).tripped = some (now + 1000)) ∧
    ((∀ i < 16, (temps.getD i 0).toInt < 1760) → (getDie t d).tripped = none ∧ ∀ m, getCluster t m = getCluster s m) ∧
    ((∀ i < 16, (temps.getD i 0).toInt < 2000) → ∀ i < 16, 1760 ≤ (temps.getD i 0).toInt → ∀ j < 9, (6 ≤ i ∧ i ≤ 14 → j = i - 6) →
      (getCluster s (9 * d + j)).throttle = .run → (getCluster t (9 * d + j)).throttle = .stopped (now + 1000) ∧ (getCluster t (9 * d + j)).cur = 5) ∧
    (getDie t d).sensorDue = now + 10 ∧
    ((∃ i < 16, 1600 ≤ (temps.getD i 0).toInt) → t.pfInts = s.pfInts + 1)) ∧
  (∀ due, c.throttle = .stopped due → due ≤ now → (getDie s (n / 9)).tripped = none → ∃ t, exec (.throttleStopEnd n) s = .next t ∧ OnlyCluster n s t ∧
    (getCluster t n).throttle = (if 1760 ≤ sensorOf (getDie s (n / 9)) c.sensor then .stopped (due + 1000) else .hold (due + 200)) ∧
    (getCluster t n).cur = c.cur ∧ (getCluster t n).change = c.change) ∧
  (∀ due, c.throttle = .hold due → due ≤ now → ∃ t, exec (.throttleHoldEnd n) s = .next t ∧ OnlyCluster n s t ∧ (getCluster t n).throttle = .run ∧
    let temp := sensorOf (getDie s (n / 9)) c.sensor
    let cap := if temp < 1600 then 0 else if temp < 1680 then 2 else if temp < 1760 then 4 else 5
    HeadsFor c (getCluster t n) (max (if c.held ≠ 7 then c.held else if c.mode then c.req else c.before) cap) now) ∧
  (∀ due, (getDie s d).tripped = some due → due ≤ now → (getCluster s (9 * d)).throttle ≠ .off → ∃ t, exec (.diePowerOff d) s = .next t ∧
    (∀ i < 9, (getCluster t (9 * d + i)).throttle = .off) ∧ ∀ k < 864, dieOf k = d → Left t k 0 ∧ Left t k 1) ∧
  (∀ x, ∃ t, exec (.hbmTempSample d n x) s = .next t ∧ OnlyDie d s t ∧
    let st := Tbl.get ({} : Stack) (getDie t d).hbmStacks n
    st.temp = x ∧ (105 ≤ x.toNat → st.held = true ∧ st.rfsh = 3) ∧ (x.toNat ≤ 103 → st.held = false ∧ st.rfsh = if x.toNat ≤ 85 then 0 else if x.toNat ≤ 95 then 1 else 2)) ∧
  (∀ amps, amps.length = 8 → ∃ t, exec (.currentSample amps) s = .next t ∧ (∀ i < 8, (getDie t i).overNow = if 2500 < amps.getD i 0 then (getDie s i).overNow + 1 else 0) ∧
    t.overPkg = (if 20000 < amps.sum then s.overPkg + 1 else 0) ∧ t.currentDue = now + 1000) ∧
  (∀ w,
    let target := min s.ballastSet.toNat 10000
    let u := (List.range 72).foldl (fun s m => modCluster s m fun x => { x with limit := 0 }) { s with pwrPkg := w, powerDue := now + 10000 }
    (∃ t, exec (.powerControlSample w) s = .next t ∧ t.pwrPkg = w ∧ t.powerDue = now + 10000 ∧ (s.ballastSet = 0 → t.ballastOn = false ∧ t.burn = 0)) ∧
    (w.toNat < target → overCurrent s = false →
      (∀ k e args o, firstPred u = some (k, e, args, o) → exec (.powerControlSample w) s = .next (startPred u k e args o)) ∧
      (firstPred u = none → exec (.powerControlSample w) s = .next (if s.ballastOn = false ∨ ballastWaits u = true then { u with ballastOn := true } else
        { u with burn := min 16 (s.burn + 1) }))) ∧
    (s.ballastSet ≠ 0 → target < w.toNat → s.burn ≠ 0 → exec (.powerControlSample w) s = .next { s with pwrPkg := w, powerDue := now + 10000, burn := s.burn - 1 }) ∧
    (target < w.toNat → s.ballastSet = 0 ∨ s.burn = 0 → ∃ t, exec (.powerControlSample w) s = .next t ∧ t.burn = 0 ∧ t.ballastOn = false ∧
      ∀ i ∈ ballastRunning s, GridAt t i .saving))

namespace Sys2Proof.Claims

/-! ## Events of the host, of debug and of bring-up -/

/-- From `s` to `t` nothing has changed but one interface. -/
def OnlyVi (n : Nat) (s t : State) : Prop := (∀ m, m ≠ n → getVi t m = getVi s m) ∧ { t with vis := s.vis } = s

/-- From `s` to `t` nothing has changed but bring-up's state and the count of free values. -/
def OnlyBoot (s t : State) : Prop := { t with boot := s.boot, freeNo := s.freeNo } = s

/-- The violation that an interface records: the first one since it was cleared (R417). -/
def violationAfter (v : Violation) (cause addr : Nat) : Violation := if v.valid then v else { valid := true, cause := cause, addr := addr % 2 ^ 57 }

/-- The BAR0 register that the host reads at an offset (R331, R396, R416 to R418); none where the spec gives no read. -/
def hostReg (x : Vi) (off : Nat) : Option DWord :=
  if off < 8 then some x.root
  else if 0x1000 ≤ off ∧ off < 0x3000 then some (Tbl.get 0 x.qtable ((off - 0x1000) / 8))
  else if 0x3000 ≤ off ∧ off < 0x3008 then some x.ctxqid
  else if 0x3008 ≤ off ∧ off < 0x3010 then some (BitVec.ofNat 64 (4 * (x.ctxstate % 4)))
  else if 0x3010 ≤ off ∧ off < 0x3018 then
    some (BitVec.ofNat 64 (x.viol.addr % 2 ^ 57 + x.viol.cause % 8 * 2 ^ 60 + if x.viol.valid = true then 2 ^ 63 else 0))
  else if 0x4000 ≤ off ∧ off < 0x4008 then some x.keysel
  else none

/-- A page of an interface that the host may write, as plain HBM that no table of any interface lies in and no peer holds. -/
structure HostPage (s : State) (vi va key : Nat) : Prop where
  leaf : ∃ l, walkTree s vi va = some l ∧ l.pte.wr = true ∧ leafKey l va = key
  hbm : keyTgt key = 0
  data : entriesAt s (key / 8 * 8) = []

end Sys2Proof.Claims

/-- R266, R273, R416, R417, R418, R419, R420, R421, R422, R446: the host's read answers from hub 0's view where the bytes open under their page's key, and its write of one unit is stamped by hub 0 and sealed by
that key; BAR0, SEC_IDPUB and the certificates read as the registers and the flash hold; a read of an offset that R416 does not assign is recorded and returns nothing; an access that a page does not allow is recorded as the first violation,
and so are a change of VI_ROOT under a pinned page and a key load to a slot that is not the interface's own; a 64th byte loads a key, a function-level reset erases the interface's keys, and an attestation
request waits its turn. The model's own choices here are those of log entries 40, 87, 88, 89, 90, 92 and 134. -/
def Obligations.HostEvents : Prop := ∀ (vi va n : Nat) (s : State) (v : DWord) (bs : List Byte),
  let x := getVi s vi
  let reads := fun (sp : Space) (f : Nat → Option Byte) => ∃ t l, exec (.hostRead vi ⟨sp, va⟩ n) s = .next t ∧ OnlyVi vi { s with freeNo := s.freeNo + n } t ∧
    (getVi t vi).reply = some l ∧ l.length = n ∧ ∀ i < n, ∀ b, f i = some b → l.getD i 0 = b
  (badRead s vi va n = none → ∃ t, exec (.hostRead vi ⟨.bar4, va⟩ n) s = .next t ∧ ∃ l, (getVi t vi).reply = some l ∧ l.length = n ∧
    ∀ i < n, ∀ key, vaKey s vi (va + i) = some key → keyTgt key < 2 → opens s (vaSeal s vi (va + i)) key = true → l.getD i 0 = viewByte s hub0 key) ∧
  (∀ a, badRead s vi va n = some a → ∃ t, exec (.hostRead vi ⟨.bar4, va⟩ n) s = .next t ∧ OnlyVi vi s t ∧ (getVi t vi).reply = none ∧ (getVi t vi).viol = violationAfter x.viol 1 a) ∧
  ((∀ i < n, bar0Assigned (va + i) = true) → reads .bar0 fun i => (hostReg x (va + i)).map fun w => BitVec.ofNat 8 (w.toNat / 256 ^ ((va + i) % 8))) ∧
  ((∃ i < n, bar0Assigned (va + i) = false) → ∃ t, exec (.hostRead vi ⟨.bar0, va⟩ n) s = .next t ∧ OnlyVi vi s t ∧ (getVi t vi).reply = none ∧
    (getVi t vi).viol = violationAfter x.viol 0 va) ∧
  reads .idPub (fun i => some ((Ecdsa.idPub[va + i]?).getD 0)) ∧ reads .chain (fun i => some ((Config.certificates[va + i]?).getD 0)) ∧
  reads .config (fun _ => none) ∧ reads .bar2 (fun _ => none) ∧
  (∀ key, 0 < bs.length → va % 8 + bs.length ≤ 8 → HostPage s vi va key → ∃ t rest, exec (.hostWrite vi va bs) s = .next t ∧
    BlockRest s [(key, bs.length, vaSeal s vi va)] rest ∧ SentTo s t hub0 (rest ++ cellsOf key bs) ∧ (∀ j, getCore t j = getCore s j) ∧
    (vaSeal s vi va ≠ lostSeal → ∀ i < bs.length, opens t (vaSeal s vi va) (key + i) = true) ∧ ∀ b, b < key / 16 ∨ (key + bs.length + 15) / 16 ≤ b → Tbl.get 0 t.seals b = Tbl.get 0 s.seals b) ∧
  (0 < bs.length → va % 8 + bs.length ≤ 8 → (∀ l, walkTree s vi va = some l → l.pte.wr = false) → ∃ t, exec (.hostWrite vi va bs) s = .next t ∧ OnlyVi vi s t ∧
    (getVi t vi).viol = violationAfter x.viol 1 va) ∧
  (pinnedPages s vi = [] → ∃ t, exec (.viRootWrite vi v) s = .next t ∧ OnlyVi vi s t ∧ getVi t vi = { x with root := v &&& 0x0000FFFFFFFF0000 }) ∧
  (pinnedPages s vi ≠ [] → ∃ t, exec (.viRootWrite vi v) s = .next t ∧ OnlyVi vi s t ∧ (getVi t vi).root = x.root ∧ (getVi t vi).viol = violationAfter x.viol 2 0) ∧
  (∃ t, exec (.viViolClear vi) s = .next t ∧ OnlyVi vi s t ∧ (getVi t vi).viol.valid = false) ∧
  (x.keybytes.length + bs.length < 64 → ∃ t, exec (.secKeydataWrite vi bs) s = .next t ∧ OnlyVi vi s t ∧ getVi t vi = { x with keybytes := x.keybytes ++ bs }) ∧
  (64 ≤ x.keybytes.length + bs.length → let slot := x.keysel.toNat
    (slot ≠ 0 → slot < 256 → (getKey s slot).owner = some vi → pinnedKey s vi slot = false → ∃ t, exec (.secKeydataWrite vi bs) s = .next t ∧
      (getKey t slot).keys = some ((x.keybytes ++ bs).take 64) ∧ (getKey t slot).owner = some vi ∧ (∀ m, m ≠ slot → getKey t m = getKey s m) ∧ (getVi t vi).keybytes = []) ∧
    (255 < slot ∨ (getKey s slot).owner ≠ some vi → ∃ t, exec (.secKeydataWrite vi bs) s = .next t ∧ (∀ m, getKey t m = getKey s m) ∧ (getVi t vi).viol = violationAfter x.viol 2 0x4040)) ∧
  (∃ t, exec (.viFlr vi) s = .next t ∧ ∀ m, (getKey t m).owner = (getKey s m).owner ∧ (getKey t m).keys = if (getKey s m).owner = some vi then none else (getKey s m).keys) ∧
  (∃ t, exec (.attestRequest vi v) s = .next t ∧ OnlyBoot s t ∧ t.boot.attest = s.boot.attest ++ [(vi, v.toNat)]) ∧
  (∀ a rest, s.boot.attest = (vi, a) :: rest → ∃ t, exec .attestReport s = .next t ∧ t.boot.attest = rest ∧
    ∃ r : List Byte, r.length = 256 ∧ (vi < 64 → vaCells s vi a r ≠ [] → ∃ w, VaCells s vi a r w ∧ SentTo s t hub0 w) ∧
      (64 ≤ vi → (getVi t vi).reply = some r))

/-- R333, R375, R396, R412, R413, R416, R417, R418, R434, R436 to R441, R447: a write of a plain register sets its writable fields and nothing else; one at an offset that R416 assigns acts as the write of the register there, and one
at any other offset only records the violation; arming notes the tick and the classes; a unit opens and closes in the ticks in which its conditions hold, each with a mark record; and DBG_STOP_TICK, written
only while debug is unlocked, gates every clock at the end of its tick. The model's own choices here are those of log entries 91, 100, 101 and 135. -/
def Obligations.RegisterAndDebugEvents : Prop :=
  (∀ (n m : Nat) (s : State) (v : DWord),
    let run := fun (r : Reg) (t : State) => exec (.registerWrite r v) s = .next t
    run (.cpIdleTimeout n) (modHub s n fun h => { h with idleTimeout := v }) ∧
    run .prdCtl { s with prdHold := v.toNat / 2 ^ 32, prdEn := v.getLsbD 0 } ∧
    run .pwrBallastSet { s with ballastSet := v.setWidth 16 } ∧
    run (.fabCtl n) (modHub s n fun h => { h with shed := v.getLsbD 0 }) ∧
    run (.fabPortstat n) (modPort s n fun p => { p with ethr := v.toNat / 2 ^ 16 % 2 ^ 16 }) ∧
    (∃ t, run (.fabPeer n) t ∧ ∀ d, Tbl.get 0 t.peers d = if d = n then v.setWidth 48 else Tbl.get 0 s.peers d) ∧
    run (.secKeysel n) (modVi s n fun x => { x with keysel := v, keybytes := [] }) ∧
    run (.viCtxqid n) (modVi s n fun x => { x with ctxqid := v }) ∧
    run (.keyOwner 0) s ∧
    (n ≠ 0 → run (.keyOwner n) (modKey s n fun k => { k with owner := if v.toNat < 64 then some v.toNat else none })) ∧
    run .secRcvaddr { s with boot := { s.boot with rcvAddr := v / 4096 * 4096 } } ∧
    run .secRcvctlLen { s with boot := { s.boot with rcvLen := v.toNat / 2 ^ 32 } } ∧
    (∃ t, run (.dbgTstart n m) t ∧ OnlyDie n s t ∧ (getTrig (getDie t n) m).tstart = v) ∧
    (∃ t, run (.dbgTstop n m) t ∧ OnlyDie n s t ∧ (getTrig (getDie t n) m).tstop = v) ∧
    (∃ t, run (.dbgBp n m) t ∧ OnlyCore n s t ∧ Tbl.get {} (getCore t n).bp m = { val := v &&& 0xFFFFFFFF00FFFFFF, count := 0 }) ∧
    (∃ t, run (.dbgWp n m) t ∧ OnlyCore n s t ∧ Tbl.get 0 (getCore t n).wp m = v &&& 0xE3FFFFFFFFF00000) ∧
    (let at_ := exec (.registerWrite (.bar0 n m) v) s
     let mode := v.toNat % 4
     (m < 8 → at_ = exec (.viRootWrite n v) s) ∧ (0x1000 ≤ m → m < 0x3000 → at_ = exec (.viQtableWrite n ((m - 0x1000) / 8) v) s) ∧
     (0x3000 ≤ m → m < 0x3008 → at_ = exec (.registerWrite (.viCtxqid n) v) s) ∧
     (0x3008 ≤ m → m < 0x3010 → at_ = if mode = 1 then exec (.viCtxctlStop n) s else if mode = 2 then exec (.viCtxctlResume n) s else
       if mode = 3 then exec (.viCtxctlReset n) s else .next s) ∧
     (0x3010 ≤ m → m < 0x3018 → at_ = if v.getLsbD 63 then exec (.viViolClear n) s else .next s) ∧
     (0x4000 ≤ m → m < 0x4008 → at_ = exec (.registerWrite (.secKeysel n) v) s) ∧
     (0x4040 ≤ m → m < 0x4080 → at_ = exec (.secKeydataWrite n (bytesOf v.toNat 8)) s) ∧
     (0x4100 ≤ m → m < 0x4108 → at_ = exec (.attestRequest n v) s)) ∧
    (bar0Assigned m = false → run (.bar0 n m) (modVi s n fun x => { x with viol := violationAfter x.viol 0 m }))) ∧
  (∀ (d n : Nat) (s : State) (v : DWord),
    let u := getTrig (getDie s d) n
    let marked := fun (t : State) (b : Bool) => ∃ r, (getDie t d).trace.getLast? = some r ∧ r.data = .mark n b ∧ r.tick = tick s
    (∃ t, exec (.triggerArm d n v) s = .next t ∧ OnlyDie d s t ∧ getTrig (getDie t d) n =
      { u with cls := v.extractLsb' 1 5, armed := if v.getLsbD 0 then some (tick s) else none, open_ := false }) ∧
    (∀ a, u.armed = some a → u.open_ = false → condHolds s (getDie s d) a u.tstart = true → ∃ t, exec (.triggerOpen d n) s = .next t ∧ OnlyDie d s t ∧
      getTrig (getDie t d) n = { u with open_ := true } ∧ marked t true) ∧
    (closing s = [(d, n)] → ∃ t, exec (.triggerClose d n) s = .next t ∧ OnlyDie d s t ∧
      getTrig (getDie t d) n = { u with open_ := false, armed := none } ∧ marked t false) ∧
    (∃ t, exec (.dbgStopTickWrite v) s = .next t ∧ t = { s with stopTick := if s.boot.debugUnlocked then (if v.toNat ≤ tick s then 0 else v) else s.stopTick }) ∧
    (s.stopTick ≠ 0 → s.stopTick.toNat = tick s → tickEnds s = true → s.stopped = false → ∃ t, exec .deviceClockStop s = .next t ∧ t.stopped = true ∧ t.stoppedAt = s.time ∧
      { t with stopped := false, dies := s.dies, stoppedAt := s.stoppedAt } = s))

/-- R421, R441, R445, R446, R447, R448, R449, R451: VERIFY, RUN, COMMIT and RAISE go through the states of SEC_RCVSTAT, and FUSE_SVN never falls; a debug check spends its challenge and answers accepted or
refused; a device reset keeps flash, fuses and what hub 0 sees of memory, and leaves no grid; a power loss loses memory too; and an uncorrectable error poisons its 64-byte unit. The model's own choices here are those of log entries 102, 103, 104, 105, 106 and 107. -/
def Obligations.BringupEvents : Prop := ∀ (d n : Nat) (s : State) (v : DWord) (counts : List Nat),
  let b := s.boot
  (b.rcvStatus ≠ 1 → ∃ t l, exec .recoveryVerify s = .next t ∧ OnlyBoot s t ∧ t.boot = { b with rcvStatus := 1, rcvCommit := false, mailbox := l } ∧ l.length = b.rcvLen) ∧
  (b.rcvStatus = 1 → b.rcvCommit = false → ∃ t, exec .recoveryVerifyDone s = .next t ∧ OnlyBoot s t ∧ t.boot = { b with rcvStatus := imageStatus b.fuseSvn b.mailbox }) ∧
  (b.rcvStatus = 2 → (∃ t, exec .recoveryRun s = .next t ∧ OnlyBoot s t ∧ t.boot = { b with recImage := true, image := some (wholeOf b.mailbox) }) ∧
    ∃ t, exec .recoveryCommit s = .next t ∧ OnlyBoot s t ∧ t.boot = { b with rcvStatus := 1, rcvCommit := true }) ∧
  (b.rcvStatus = 1 → b.rcvCommit = true → ∃ t, exec .recoveryCommitDone s = .next t ∧ OnlyBoot s t ∧ t.boot.rcvCommit = false ∧
    (t.boot.flash = some b.mailbox ∨ t.boot.flash = some []) ∧ (t.boot.rcvStatus = 6 ↔ imageStatus b.fuseSvn (t.boot.flash.getD []) = 2) ∧ (t.boot.rcvStatus = 6 ∨ t.boot.rcvStatus = 5)) ∧
  (∀ f, b.rcvStatus = 6 → b.flash = some f → raiseOf f = true → ∃ t, exec .recoveryRaise s = .next t ∧ OnlyBoot s t ∧
    t.boot = { b with fuseSvn := max b.fuseSvn (svnOf f), rcvStatus := 7 }) ∧
  (∃ t, exec .dbgchalRead s = .next t ∧ OnlyBoot s t ∧ t.boot.chal = some s.freeNo ∧ t.freeNo = s.freeNo + 1) ∧
  (∃ t, exec (.debugUnlockRequest v) s = .next t ∧ OnlyBoot s t ∧ t.boot = { b with unlockAddr := v / 64 * 64, unlockStatus := 3 }) ∧
  (b.unlockStatus = 3 → ∃ t, exec .debugUnlockDone s = .next t ∧ t.boot.chal = none ∧ ((t.boot.unlockStatus = 1 ∧ t.boot.debugUnlocked = true ∧
    ∀ k, k ≠ 0 → (getKey t k).keys = none) ∨ (t.boot.unlockStatus = 2 ∧ t.boot.debugUnlocked = b.debugUnlocked ∧ OnlyBoot s t))) ∧
  (∃ t, exec .deviceReset s = .next t ∧ t.grids = [] ∧ t.cores = [] ∧ t.queues = [] ∧ t.time = 0 ∧ t.boot.flash = b.flash ∧ t.boot.fuseSvn = b.fuseSvn ∧
    t.boot.debugUnlocked = false ∧ (t.boot.recovery = true ↔ imageStatus b.fuseSvn (b.flash.getD Config.flashImage) ≠ 2)) ∧
  (∃ t, exec .powerLoss s = .next t ∧ t.grids = [] ∧ t.cores = [] ∧ t.views = [] ∧ t.time = 0 ∧ t.boot.fuseSvn = b.fuseSvn ∧ (b.rcvCommit = false → t.boot.flash = b.flash)) ∧
  (∃ t, exec (.scrubErrorFound d n true) s = .next t ∧ OnlyDie d s t ∧ getDie t d = { getDie s d with fixed := (getDie t d).fixed } ∧
    ∀ i, Tbl.get 0 (getDie t d).fixed i = Tbl.get 0 (getDie s d).fixed i + if i = 1 then 1 else 0) ∧
  (∃ t, exec (.scrubErrorFound d n false) s = .next t ∧ OnlyDie d s t ∧ ∀ i, Tbl.get false (getDie t d).poison i = (i == n / 64 || Tbl.get false (getDie s d).poison i)) ∧
  (∀ ue, ∃ t, exec (.hbmEcntGather d n counts ue) s = .next t ∧ OnlyDie d s t ∧ let x := Tbl.get ({} : Stack) (getDie s d).hbmStacks n
    let y := Tbl.get ({} : Stack) (getDie t d).hbmStacks n
    y.ce = min (x.ce + counts.sum) (2 ^ 24 - 1) ∧ y.ue = min (x.ue + ue) (2 ^ 16 - 1) ∧ y.temp = x.temp ∧ y.held = x.held ∧ y.ecntDue = tick s + 32000)

namespace Sys2Proof.Claims

/-! ## The machine as a whole -/

/-- An instruction that only a guard of p0 and two registers make: a word of the integer family in its B64 form. -/
def plainOps (d a b : Spec) : Ops := { g := Guard.always, d := d, a := .sp a, b := .sp b, c := .zero }

end Sys2Proof.Claims

/-- R4, R45, R196, R266, R333, R375, R376, R377, R396, R413, R434, R447: what device reset leaves. The values that the spec does not state are those of log entry 3. -/
def Obligations.ResetState : Prop :=
  let s := State.reset
  tick s = 0 ∧ s.cores = [] ∧ s.grids = [] ∧ s.queues = [] ∧ s.preds = [] ∧ s.reservations = [] ∧ s.overruns = 0 ∧ s.boot.debugUnlocked = false ∧ s.stopTick = 0 ∧
  (∀ k tx g l, let m := laneOf s k tx g l
    preg m 0 = true ∧ (∀ n, n ≠ 0 → preg m n = false) ∧ (∀ n, vreg m n = 0) ∧ (∀ n, oreg m n = 0) ∧ m.flags = 0 ∧ m.rs = []) ∧
  (∀ k tx g n, Tbl.get 0 (getGroup s k tx g).g n = 0) ∧
  (∀ d key, viewByte s d key = 0 ∧ (getView s d).vc = List.replicate 10 0) ∧ (∀ d, Tbl.wf (0 : Byte) (getView s d).bytes = true) ∧
  (∀ c, let x := getCluster s c
    x.cur = 5 ∧ x.held = 7 ∧ x.ceil = 0 ∧ x.mode = false ∧ x.req = 0 ∧ x.slope = 2400 ∧ x.droopMv = 30 ∧ x.droopCount = 0) ∧
  (∀ h, (getHub s h).idleTimeout = 1000000 ∧ (getHub s h).shed = true ∧ (getHub s h).tickets = 0 ∧ (getHub s h).serve = 0) ∧
  (∀ p, let x := getPort s p
    x.good = 0xF ∧ x.used = 0xF ∧ x.st = .up ∧ x.ethr = 64 ∧ x.replays = 0 ∧ x.crcErr = 0 ∧ x.seq = 0 ∧ x.expect = 0) ∧
  (∀ v, (getVi s v).root = 0 ∧ (getVi s v).ctxqid = 0 ∧ (getVi s v).ctxstate = 0 ∧ (getVi s v).viol.valid = false) ∧
  s.prdEn = true ∧ s.prdHold = 10000 ∧ s.flySize = 16 ∧ s.boot.rcvStatus = 0 ∧ s.boot.rcvAddr = 0 ∧ s.boot.unlockStatus = 0

/-- R58, R62, R63, R65, R84: words written out from the encoding tables decode to the instructions that they stand for: the spec's three worked encodings, and one word of each length and kind of field. -/
def Obligations.WrittenWordsDecode : Prop :=
  decodeTableWord 64 0x07FFF18024040100 = some (.iadd { g := Guard.always, d := .v 8, a := .sp (.v 9), b := .sp (.imm 12), c := .zero }) ∧
  decodeTableWord 96 0x0000000807FFFFFFFF840015 = some (.loop Guard.always 0 8) ∧
  (∃ x y, decodeTableWord 128 0x07FFD0802C0603C1FFC050090100E7C2 = some (.pairedWord x y) ∧ x.op = .fadd .rn false ∧ y.op = .fmul .rn false) ∧
  decodeTableWord 64 0x07FFFFFFFFFF8000 = some (.nop Guard.always) ∧
  decodeTableWord 64 0x07FFFFFFFFFF8020 = some (.exit Guard.always) ∧
  decodeTableWord 96 0x0000004007FFFFFFFFFF8005 = some (.bra Guard.always 64) ∧
  decodeTableWord 64 0x07FFFFFFFFFF8003 = none

/-- R58 to R66, R71 to R83, R85: a well-formed instruction is what its own word decodes to, where the word stands at a place that its target and its table allow: the decoder drops no bit of the encoding. -/
def Obligations.EncodedWordsDecode : Prop := ∀ (p : Place) (i : Instr), i.wf = true → placeOk p i = true → decodeWord p (encode i) = .ok i

/-- R46, R53, R85, R86, R176, R439: where the machine's next move is an issue, and the parcels at the group's offset decode to an instruction within its budget that no breakpoint register stops, the step runs
that instruction: its issue is noted, it acts, and its trace follows. -/
def Obligations.StepRunsTheDecodedInstruction : Prop := ∀ (s u : State) (r : Ready) (i : Instr) (n : Nat), nextMove s = (.issue r, u) →
  let code := teamCode u (getTeam u r.core r.tx)
  let b := breakpoint (noteWord (issuing u r))
  fetchAt code.1 code.2 r.pc = .ok (i, n) → b.2 = false → i.overBudget (curGroup b.1).budget = false →
  step s = onNext (exec i (noted b.1 r.claims i)) (afterIssue b.1 i) ∧ ∃ t, step s = .next t

/-- R447, R448: no step of the machine lowers FUSE_SVN, whatever instruction, event, input or reset it is: what has been at least `n` stays so. -/
def Obligations.FuseSvnNeverFalls : Prop := ∀ (n : Nat) (s t : State), n ≤ s.boot.fuseSvn → step s = .next t → n ≤ t.boot.fuseSvn
end

