-- ==== Sys2Proof/Laws/Encode.lean ====
section
/-! SUPPORT. What the encoder's pieces do: the codes of specifiers and guards and their reading back, the bounds of a word's fields, and the fields of a packed
word. -/
namespace Sys2Proof

theorem specOf_specCode (x : Spec) : specOf (specCode x) = some x := by
  cases x with
  | v n =>
    have h := n.isLt
    simp [specOf, specCode, h]
  | imm i =>
    have h : ∀ k : Fin (2 ^ 6), specOf (specCode (.imm ⟨k⟩)) = some (.imm ⟨k⟩) := by decide
    exact h i.toFin
  | zero => rfl
  | o n | y n | g n | p n | c n | t n => revert n; decide

theorem specCode_lt (x : Spec) : specCode x < 2048 := by
  cases x <;> simp only [specCode] <;> omega

theorem guardOf_guardCode (g : Guard) : guardOf (guardCode g) = g := by
  obtain ⟨n, p⟩ := g
  revert n p
  decide

theorem guardCode_lt (g : Guard) : guardCode g < 16 := by
  obtain ⟨n, p⟩ := g
  have h := p.isLt
  cases n <;> simp only [guardCode, bitNat] <;> simp <;> omega

theorem bitNat_le (b : Bool) : bitNat b ≤ 1 := by cases b <;> decide

theorem rndOf_rndCode (r : Rnd) : rndOf (rndCode r) = r := by cases r <;> rfl
theorem cmpOf_cmpCode (k : Cmp) : cmpOf (cmpCode k) = some k := by cases k <;> rfl
theorem fcmpOf_fcmpCode (k : FCmp) : fcmpOf (fcmpCode k) = k := by cases k <;> rfl
theorem eszOf_eszCode (k : Esz) : eszOf (eszCode k) = some k := by cases k <;> rfl
theorem tyOf_tyCode (k : Ty) : tyOf (tyCode k) = some k := by cases k <;> rfl
theorem ropOf_ropCode (k : Rop) : ropOf (ropCode k) = some k := by cases k <;> rfl
theorem shflOf_shflCode (k : ShflMode) : shflOf (shflCode k) = k := by cases k <;> rfl
theorem voteOf_voteCode (k : VoteMode) : voteOf (voteCode k) = k := by cases k <;> rfl
theorem matchOf_matchCode (k : MatchMode) : matchOf (matchCode k) = k := by cases k <;> rfl
theorem sizeOf_sizeCode (k : Size) : Sys2Proof.sizeOf (sizeCode k) = some k := by cases k <;> rfl
theorem aopOf_aopCode (k : Aop) : aopOf (aopCode k) = k := by cases k <;> rfl
theorem cbOf_cbCode (k : Cb) : cbOf (cbCode k) = k := by cases k <;> rfl
theorem scopeOf_scopeCode (k : Scope) : scopeOf (scopeCode k) = some k := by cases k <;> rfl
theorem gopOf_gopCode (k : Gop) : gopOf (gopCode k) = some k := by cases k <;> rfl
theorem sysOf_sysCode (b : Bool) : sysOf (sysCode b) = some b := by cases b <;> rfl
theorem rettOf_rettCode (k : RettAct) : rettOf (rettCode k) = some k := by cases k <;> rfl

theorem rndCode_lt (r : Rnd) : rndCode r < 4 := by cases r <;> decide
theorem cmpCode_lt (k : Cmp) : cmpCode k < 6 := by cases k <;> decide
theorem fcmpCode_lt (k : FCmp) : fcmpCode k < 8 := by cases k <;> decide
theorem eszCode_lt (k : Esz) : eszCode k < 3 := by cases k <;> decide
theorem tyCode_lt (k : Ty) : tyCode k < 10 := by cases k <;> decide
theorem ropCode_lt (k : Rop) : ropCode k < 11 := by cases k <;> decide
theorem shflCode_lt (k : ShflMode) : shflCode k < 4 := by cases k <;> decide
theorem voteCode_lt (k : VoteMode) : voteCode k < 8 := by cases k <;> decide
theorem matchCode_lt (k : MatchMode) : matchCode k < 4 := by cases k <;> decide
theorem sizeCode_lt (k : Size) : sizeCode k < 7 := by cases k <;> decide
theorem aopCode_lt (k : Aop) : aopCode k < 8 := by cases k <;> decide
theorem cbCode_lt (k : Cb) : cbCode k < 4 := by cases k <;> decide
theorem scopeCode_lt (k : Scope) : scopeCode k < 7 := by cases k <;> decide
theorem gopCode_lt (k : Gop) : gopCode k < 11 := by cases k <;> decide
theorem sysCode_lt (b : Bool) : sysCode b < 8 := by cases b <;> decide
theorem rettCode_lt (k : RettAct) : rettCode k < 2048 := by cases k <;> decide

/-! ## Fields within their widths -/

/-- Every field of a word lies within its width, and the word has one of the three lengths of an instruction (R58, R62). -/
structure Raw.Fits (r : Raw) : Prop where
  len : r.len < 3
  op : r.op < 512
  pred : r.pred < 16
  d : r.d < 2048
  a : r.a < 2048
  b : r.b < 2048
  c : r.c < 2048
  m : r.m < 32
  imm : r.imm < 2 ^ 32
  ext : r.ext < 2 ^ 64

theorem bareRaw_fits (len op : Nat) (g : Guard) (d a b c m imm ext : Nat) (hl : len < 3) (ho : op < 512) (hd : d < 2048) (ha : a < 2048)
    (hb : b < 2048) (hc : c < 2048) (hm : m < 32) (hi : imm < 2 ^ 32) (he : ext < 2 ^ 64) :
    (bareRaw len op g d a b c m imm ext).Fits :=
  ⟨hl, ho, guardCode_lt g, hd, ha, hb, hc, hm, hi, he⟩

theorem opsRaw_fits (op m : Nat) (o : Ops) (ho : op < 512) (hm : m < 32) : (opsRaw op m o).Fits where
  len := by simp only [opsRaw]; split <;> decide
  op := ho
  pred := guardCode_lt _
  d := specCode_lt _
  a := specCode_lt _
  b := specCode_lt _
  c := specCode_lt _
  m := hm
  imm := by simp only [opsRaw]; split; · exact BitVec.isLt _
            · decide
  ext := by simp [opsRaw]

theorem popOpcode_lt (n : Nat) (h : n < 49) : popOpcode n < 512 := by
  simp only [popOpcode]; repeat' split
  all_goals omega

/-- The index, the modifier bits and the type codes of a pairable operation lie within their widths. -/
theorem popCode_fits (p : POp) : (popCode p).1 < 49 ∧ (popCode p).2.1 < 16 ∧ ∀ sc, (popCode p).2.2 = some sc → sc < 256 := by
  have nat := bitNat_le
  have rnd := rndCode_lt
  cases p <;> simp only [popCode] <;> refine ⟨by omega, ?_, ?_⟩
  all_goals first
    | omega
    | (intro sc h; simp at h; done)
    | (rename_i n; have := nat n; omega)
    | (rename_i m n; have := nat n; have := nat m; omega)
    | (rename_i r z; have := rnd r; have := nat z; omega)
    | (rename_i k z; have := cmpCode_lt k; have := nat z; omega)
    | (rename_i k z; have := fcmpCode_lt k; have := nat z; omega)
    | (rename_i k z; have := eszCode_lt k; have := nat z; omega)
    | (rename_i k; have := eszCode_lt k; omega)
    | (rename_i b r z; have := rnd r; have := nat z; have := nat b; omega)
    | (rename_i b p z; have := nat p; have := nat z; have := nat b; omega)
    | (rename_i f t r; have := nat f; have := nat t; have := rnd r; omega)
    | (rename_i d s f t r; have := nat f; have := nat t; have := rnd r; omega)
    | (rename_i d s f t r; intro sc h; cases h; have := tyCode_lt d; have := tyCode_lt s; omega)

theorem popRaw_fits (p : POp) (o : Ops) : (popRaw p o).Fits := by
  obtain ⟨h1, h2, h3⟩ := popCode_fits p
  have h := opsRaw_fits (popOpcode (popCode p).1) (popCode p).2.1 o (popOpcode_lt _ h1) (by omega)
  simp only [popRaw]
  split
  · rename_i sc e
    have := h3 sc e
    exact ⟨h.len, h.op, h.pred, h.d, h.a, h.b, by simp only []; omega, h.m, h.imm, h.ext⟩
  · exact h

/-- The length bits of a packed word are its length, and the word fits the bytes that they give (R58). -/
theorem packWord_fits (r : Raw) (h : r.Fits) : packWord r < 2 ^ (8 * wordBytes (packWord r)) := by
  obtain ⟨hl, ho, hp, hd, ha, hb, hc, hm, hi, he⟩ := h
  have hmod : packWord r % 4 = r.len := by
    simp only [packWord]; omega
  have hlen : r.len = 0 ∨ r.len = 1 ∨ r.len = 2 := by omega
  simp only [wordBytes, hmod]
  obtain h | h | h := hlen <;> simp only [h, packWord] <;> simp <;> omega

/-- The length bits of a packed word (R58). -/
theorem packWord_len (r : Raw) (h : r.Fits) : bitsAt (packWord r) 0 2 = r.len := by
  obtain ⟨hl, ho, hp, hd, ha, hb, hc, hm, hx, hy⟩ := h
  simp only [packWord, bitsAt, Nat.pow_zero, Nat.div_one]
  split
  · omega
  · split <;> omega

/-- The fields of a packed word are the fields that it was packed from (R58, R62 to R64). -/
theorem unpackWord_packWord (r : Raw) (h : r.Fits) (hi : r.len ≠ 1 → r.imm = 0) (he : r.len ≠ 2 → r.ext = 0) :
    unpackWord (packWord r) = r := by
  have hlen := packWord_len r h
  obtain ⟨hl, ho, hp, hd, ha, hb, hc, hm, hx, hy⟩ := h
  obtain ⟨len, op, pred, d, a, b, c, m, imm, ext⟩ := r
  simp only at hl ho hp hd ha hb hc hm hx hy hi he hlen
  have h3 : len = 0 ∨ len = 1 ∨ len = 2 := by omega
  simp only [unpackWord, hlen, Raw.mk.injEq]
  obtain h | h | h := h3 <;> subst h <;> simp at hi he <;> simp only [packWord, bitsAt] <;>
    refine ⟨?_, ?_, ?_, ?_, ?_, ?_, ?_, ?_, ?_, ?_⟩ <;> simp <;> omega

/-- The opcode of an index is the opcode that has that index (R82). -/
theorem popIndex_popOpcode : ∀ n < 49, popIndex (popOpcode n) = some n := by decide

end Sys2Proof
end

