-- ==== Sys2Proof/Laws/Table.lean ====
section
/-! SUPPORT. What reading and writing a sparse table do: a read after a write, and the canonical form, which every memory operation keeps. -/
namespace Sys2Proof.Tbl

variable {α : Type}

@[simp] theorem get_nil (d : α) (k : Nat) : get d [] k = d := rfl

theorem get_cons (d : α) (k' : Nat) (v : α) (t : Tbl α) (k : Nat) :
    get d ((k', v) :: t) k = if k' = k then v else get d t k := rfl

theorem get_erase (d : α) (t : Tbl α) (k j : Nat) : get d (erase t k) j = if k = j then d else get d t j := by
  induction t with
  | nil => simp [erase]
  | cons e t ih =>
    obtain ⟨k', v⟩ := e
    by_cases h : k' = k
    · subst h; simp only [erase, ↓reduceIte, ih, get_cons]; split <;> simp_all
    · simp only [erase, h, ↓reduceIte, get_cons, ih]; split <;> split <;> simp_all

theorem get_insert (d : α) (t : Tbl α) (k : Nat) (v : α) (j : Nat) :
    k ≠ j → get d (insert t k v) j = get d t j := by
  intro hj
  induction t with
  | nil => simp [insert, get_cons, hj]
  | cons e t ih =>
    obtain ⟨k', x⟩ := e
    simp only [insert]
    split
    · simp [get_cons, hj]
    · simp only [get_cons, ih]

theorem get_insert_erase (d : α) (t : Tbl α) (k : Nat) (v : α) : get d (insert (erase t k) k v) k = v := by
  induction t with
  | nil => simp [erase, insert, get_cons]
  | cons e t ih =>
    obtain ⟨k', x⟩ := e
    by_cases h : k' = k
    · simpa [erase, h] using ih
    · simp only [erase, h, ↓reduceIte, insert]
      split
      · simp [get_cons]
      · simpa [get_cons, h] using ih

/-- A read after a write that lists its entry. -/
theorem get_set (d : α) (t : Tbl α) (k : Nat) (v : α) (j : Nat) : get d (set t k v) j = if k = j then v else get d t j := by
  unfold set
  split
  · next h => subst h; exact get_insert_erase d t k v
  · next h => rw [get_insert d _ _ _ _ h, get_erase]; simp [h]

/-- A read after a write that keeps the canonical form. -/
theorem get_put [DecidableEq α] (d : α) (t : Tbl α) (k : Nat) (v : α) (j : Nat) :
    get d (put d t k v) j = if k = j then v else get d t j := by
  unfold put
  split
  · next h => rw [get_erase]; split <;> simp_all
  · exact get_set d t k v j

@[simp] theorem get_set_same (d : α) (t : Tbl α) (k : Nat) (v : α) : get d (set t k v) k = v := by simp [get_set]

@[simp] theorem get_put_same [DecidableEq α] (d : α) (t : Tbl α) (k : Nat) (v : α) : get d (put d t k v) k = v := by
  simp [get_put]

theorem get_mod (d : α) (t : Tbl α) (k : Nat) (f : α → α) (j : Nat) :
    get d (mod d t k f) j = if k = j then f (get d t k) else get d t j := by simp [mod, get_set]

@[simp] theorem get_mod_same (d : α) (t : Tbl α) (k : Nat) (f : α → α) : get d (mod d t k f) k = f (get d t k) := by
  simp [get_mod]

/-- A read after a change at each key of a list. -/
theorem get_modAll (d : α) (t : Tbl α) (ks : List Nat) (f : Nat → α → α) (j : Nat) (hn : ks.Nodup) :
    get d (modAll d t ks f) j = if j ∈ ks then f j (get d t j) else get d t j := by
  induction ks generalizing t with
  | nil => simp [modAll]
  | cons k ks ih =>
    obtain ⟨hk, hn⟩ := List.nodup_cons.mp hn
    have h := ih (mod d t k (f k)) hn
    simp only [modAll, List.foldl_cons] at h ⊢
    rw [h, get_mod]
    by_cases e : k = j
    · subst e; simp [hk]
    · simp [e, Ne.symm e]

/-! ## The canonical form -/

theorem above_of_le {a b : Nat} (h : a ≤ b) : ∀ {t : Tbl α}, above b t = true → above a t = true
  | [], _ => rfl
  | (k, v) :: t, hb => by
    simp only [above, Bool.and_eq_true, decide_eq_true_eq] at hb ⊢
    exact ⟨by omega, hb.2⟩

theorem above_erase (b k : Nat) : ∀ (t : Tbl α), above b t = true → above b (erase t k) = true
  | [], _ => rfl
  | (k', v) :: t, h => by
    simp only [above, Bool.and_eq_true, decide_eq_true_eq] at h
    simp only [erase]
    split
    · exact above_of_le (by omega) (above_erase k' k t h.2)
    · simp only [above, Bool.and_eq_true, decide_eq_true_eq]; exact ⟨h.1, above_erase k' k t h.2⟩

theorem above_insert (b k : Nat) (v : α) (hb : b < k) : ∀ (t : Tbl α), above b t = true → (∀ e ∈ t, e.1 ≠ k) →
    above b (insert t k v) = true
  | [], _, _ => by simp [insert, above, hb]
  | (k', x) :: t, h, hne => by
    simp only [above, Bool.and_eq_true, decide_eq_true_eq] at h
    have hk : k' ≠ k := hne (k', x) (by simp)
    simp only [insert]
    split
    · next hlt => simp [above, hb, hlt, h.2]
    · next hge =>
      simp only [above, Bool.and_eq_true, decide_eq_true_eq]
      exact ⟨h.1, above_insert k' k v (by omega) t h.2 (fun e he => hne e (by simp [he]))⟩

theorem erase_ne (t : Tbl α) (k : Nat) : ∀ e ∈ erase t k, e.1 ≠ k := by
  induction t with
  | nil => simp [erase]
  | cons e t ih =>
    obtain ⟨k', v⟩ := e
    simp only [erase]
    split
    · exact ih
    · next h =>
      intro e he
      rcases List.mem_cons.mp he with rfl | he
      · exact h
      · exact ih e he

theorem mem_erase (t : Tbl α) (k : Nat) (e : Nat × α) (h : e ∈ erase t k) : e ∈ t := by
  induction t with
  | nil => simp [erase] at h
  | cons x t ih =>
    obtain ⟨k', v⟩ := x
    simp only [erase] at h
    split at h
    · exact List.mem_cons_of_mem _ (ih h)
    · rcases List.mem_cons.mp h with rfl | h
      · simp
      · exact List.mem_cons_of_mem _ (ih h)

theorem mem_insert (t : Tbl α) (k : Nat) (v : α) (e : Nat × α) (h : e ∈ insert t k v) : e = (k, v) ∨ e ∈ t := by
  induction t with
  | nil => simpa [insert] using h
  | cons x t ih =>
    obtain ⟨k', y⟩ := x
    simp only [insert] at h
    split at h
    · simpa using h
    · rcases List.mem_cons.mp h with rfl | h
      · exact .inr (by simp)
      · rcases ih h with h | h
        · exact .inl h
        · exact .inr (List.mem_cons_of_mem _ h)

variable [DecidableEq α]

theorem wf_cons (d : α) (k : Nat) (v : α) (t : Tbl α) :
    wf d ((k, v) :: t) = true ↔ above k t = true ∧ v ≠ d ∧ wf d t = true := by
  induction t generalizing k v with
  | nil => simp [wf, above]
  | cons e t ih =>
    obtain ⟨k', x⟩ := e
    simp only [wf, above, Bool.and_eq_true, decide_eq_true_eq, List.all_cons, List.all_eq_true]
    constructor
    · rintro ⟨⟨⟨h1, h2⟩, h3⟩, h4, h5⟩; exact ⟨⟨h1, h2⟩, h3, ⟨h2, h4⟩, h5⟩
    · rintro ⟨⟨h1, h2⟩, h3, ⟨_, h4⟩, h5⟩; exact ⟨⟨⟨h1, h2⟩, h3⟩, h4, h5⟩

theorem wf_erase (d : α) (k : Nat) : ∀ (t : Tbl α), wf d t = true → wf d (erase t k) = true
  | [], _ => rfl
  | (k', v) :: t, h => by
    rw [wf_cons] at h
    simp only [erase]
    split
    · exact wf_erase d k t h.2.2
    · rw [wf_cons]; exact ⟨above_erase k' k t h.1, h.2.1, wf_erase d k t h.2.2⟩

theorem wf_insert (d : α) (k : Nat) (v : α) (hv : v ≠ d) : ∀ (t : Tbl α), wf d t = true → (∀ e ∈ t, e.1 ≠ k) →
    wf d (insert t k v) = true
  | [], _, _ => by simp [insert, wf, above, hv]
  | (k', x) :: t, h, hne => by
    have hk : k' ≠ k := hne (k', x) (by simp)
    have h' := h
    rw [wf_cons] at h
    simp only [insert]
    split
    · next hlt =>
      rw [wf_cons]
      exact ⟨by simp only [above, Bool.and_eq_true, decide_eq_true_eq]; exact ⟨hlt, h.1⟩, hv, h'⟩
    · next hge =>
      rw [wf_cons]
      have ht : ∀ e ∈ t, e.1 ≠ k := fun e he => hne e (by simp [he])
      exact ⟨above_insert k' k v (by omega) t h.1 ht, h.2.1, wf_insert d k v hv t h.2.2 ht⟩

/-- Every write keeps the canonical form. -/
theorem wf_put (d : α) (t : Tbl α) (k : Nat) (v : α) (h : wf d t = true) : wf d (put d t k v) = true := by
  unfold put
  split
  · exact wf_erase d k t h
  · next hv => exact wf_insert d k v hv _ (wf_erase d k t h) (erase_ne t k)

theorem wf_nil (d : α) : wf d ([] : Tbl α) = true := rfl

end Sys2Proof.Tbl

namespace Sys2Proof.Machine

/-- A byte after a write of `n` bytes. -/
theorem get_writeBytes (m : Tbl Byte) (a v n j : Nat) :
    Tbl.get 0 (writeBytes m a v n) j =
      if a ≤ j ∧ j < a + n then BitVec.ofNat 8 (v / 256 ^ (j - a)) else Tbl.get 0 m j := by
  induction n generalizing m a v with
  | zero => simp only [writeBytes]; rw [if_neg (by omega)]
  | succ n ih =>
    simp only [writeBytes]
    rw [ih, Tbl.get_put]
    by_cases h1 : a = j
    · subst h1
      rw [if_neg (by omega), if_pos rfl, if_pos (by omega)]
      simp
    · by_cases h2 : a + 1 ≤ j ∧ j < a + 1 + n
      · rw [if_pos h2, if_pos (by omega)]
        congr 1
        have : j - a = (j - (a + 1)) + 1 := by omega
        rw [this, Nat.pow_succ, Nat.mul_comm, Nat.div_div_eq_div_mul]
      · rw [if_neg h2, if_neg h1, if_neg (by omega)]

/-- A byte after a write of a list of bytes. -/
theorem get_writeList (m : Tbl Byte) (a : Nat) (bs : List Byte) (j : Nat) :
    Tbl.get 0 (writeList m a bs) j = if a ≤ j ∧ j < a + bs.length then bs.getD (j - a) 0 else Tbl.get 0 m j := by
  induction bs generalizing m a with
  | nil => simp only [writeList, List.length_nil]; rw [if_neg (by omega)]
  | cons b bs ih =>
    simp only [writeList, List.length_cons]
    rw [ih, Tbl.get_put]
    by_cases h1 : a = j
    · subst h1
      rw [if_neg (by omega), if_pos rfl, if_pos (by omega)]
      simp
    · by_cases h2 : a + 1 ≤ j ∧ j < a + 1 + bs.length
      · rw [if_pos h2, if_pos (by omega)]
        have : j - a = (j - (a + 1)) + 1 := by omega
        rw [this, List.getD_cons_succ]
      · rw [if_neg h2, if_neg h1, if_neg (by omega)]

theorem wf_writeBytes (m : Tbl Byte) (a v n : Nat) (h : Tbl.wf 0 m = true) : Tbl.wf 0 (writeBytes m a v n) = true := by
  induction n generalizing m a v with
  | zero => exact h
  | succ n ih => exact ih _ _ _ (Tbl.wf_put 0 m a _ h)

theorem wf_writeList (m : Tbl Byte) (a : Nat) (bs : List Byte) (h : Tbl.wf 0 m = true) : Tbl.wf 0 (writeList m a bs) = true := by
  induction bs generalizing m a with
  | nil => exact h
  | cons b bs ih => exact ih _ _ (Tbl.wf_put 0 m a b h)

end Sys2Proof.Machine
end

