-- ==== Sys2Proof/Laws/Memory.lean ====
section
/-! SUPPORT. Every memory operation keeps the canonical form, and the memories right after reset have it. -/
namespace Sys2Proof.Machine

theorem Memory.wf_writeBytes (m : Memory) (a v n : Nat) (h : Memory.wf m = true) : Memory.wf (Machine.writeBytes m a v n) = true :=
  Machine.wf_writeBytes m a v n h

theorem Memory.wf_writeList (m : Memory) (a : Nat) (bs : List Byte) (h : Memory.wf m = true) : Memory.wf (Machine.writeList m a bs) = true :=
  Machine.wf_writeList m a bs h

/-- One lane's access (R213, R214). -/
theorem Memory.wf_memStep (op : MemOp) (m : Memory) (a : Nat) (c : BitVec 128) (d : Word) (h : Memory.wf m = true) :
    Memory.wf (memStep op m a c d).1 = true := by
  cases op with
  | ld z => exact h
  | st z => exact Memory.wf_writeBytes _ _ _ _ h
  | atom k => exact Memory.wf_writeBytes _ _ _ _ h
  | acas =>
    simp only [memStep]; split
    · exact Memory.wf_writeBytes _ _ _ _ h
    · exact h

/-- The steps of an access in ascending lane order (R209). -/
theorem Memory.wf_memSteps (op : MemOp) (m : Memory) (ls : List (Nat × Nat × BitVec 128 × Word)) (h : Memory.wf m = true) :
    Memory.wf (memSteps op m ls).1 = true := by
  induction ls generalizing m with
  | nil => exact h
  | cons e ls ih => obtain ⟨l, a, c, d⟩ := e; exact ih _ (Memory.wf_memStep op m a c d h)

theorem Tbl_wf_foldl_put {β : Type} (f : β → Nat) (g : β → Byte) (ls : List β) (m : Memory) (h : Memory.wf m = true) :
    Memory.wf (ls.foldl (fun t e => Tbl.put 0 t (f e) (g e)) m) = true := by
  induction ls generalizing m with
  | nil => exact h
  | cons e ls ih => exact ih _ (Tbl.wf_put 0 m _ _ h)

theorem Tbl_above_filter {α : Type} (p : Nat × α → Bool) (k : Nat) : ∀ t : Tbl α, Tbl.above k t = true → Tbl.above k (t.filter p) = true
  | [], _ => rfl
  | e :: t, h => by
    simp only [Tbl.above, Bool.and_eq_true, decide_eq_true_eq] at h
    rw [List.filter_cons]
    split
    · simp only [Tbl.above, Bool.and_eq_true, decide_eq_true_eq]; exact ⟨h.1, Tbl_above_filter p e.1 t h.2⟩
    · exact Tbl.above_of_le (by omega) (Tbl_above_filter p e.1 t h.2)

theorem Memory.wf_filter (p : Nat × Byte → Bool) : ∀ m : Memory, Memory.wf m = true → Memory.wf (m.filter p) = true
  | [], _ => rfl
  | e :: m, h => by
    have h' := (Tbl.wf_cons 0 e.1 e.2 m).mp h
    rw [List.filter_cons]
    split
    · exact (Tbl.wf_cons 0 e.1 e.2 _).mpr ⟨Tbl_above_filter p _ _ h'.1, h'.2.1, Memory.wf_filter p m h'.2.2⟩
    · exact Memory.wf_filter p m h'.2.2

/-- A page moved to another place (R257). -/
theorem Memory.wf_moveKeys (m : Memory) (a b n : Nat) (h : Memory.wf m = true) : Memory.wf (moveKeys 0 m a b n) = true :=
  Tbl_wf_foldl_put (fun e : Nat × Byte => e.1 - a + b) (·.2) _ _ (Memory.wf_filter _ m h)

/-- A byte, and all bytes, of an applied write (R268, R269). -/
theorem applyCell_wf (v : View) (o : Nat) (st : List Nat) (c : Nat × Byte) (h : Memory.wf v.bytes = true) :
    Memory.wf (applyCell v o st c).bytes = true := by
  simp only [applyCell]; split
  · exact Tbl.wf_put 0 v.bytes _ _ h
  · exact h

theorem applyTo_wf (v : View) (w : GWrite) (h : Memory.wf v.bytes = true) : Memory.wf (applyTo v w).bytes = true := by
  have go : ∀ (cs : List (Nat × Byte)) (v : View), Memory.wf v.bytes = true →
      Memory.wf (cs.foldl (fun v c => applyCell v w.origin w.stamp c) v).bytes = true := by
    intro cs
    induction cs with
    | nil => exact fun _ h => h
    | cons c cs ih => exact fun v h => ih _ (applyCell_wf v _ _ c h)
  exact go w.cells v h

/-- Right after reset every view and every window has the canonical form. -/
theorem reset_memory_wf (d k tx : Nat) : Memory.wf (getView State.reset d).bytes = true ∧ Memory.wf (getTeam State.reset k tx).sp = true ∧
    Memory.wf (getTeam State.reset k tx).ob = true := ⟨rfl, rfl, rfl⟩

/-- Blocks that take a seal in turn all have it. -/
theorem sealFold_get (sl k : Nat) : ∀ (bs : List Nat) (t : Tbl Nat),
    Tbl.get 0 (bs.foldl (fun t b => Tbl.put 0 t b sl) t) k = if k ∈ bs then sl else Tbl.get 0 t k
  | [], t => by simp
  | b :: bs, t => by
    rw [List.foldl_cons, sealFold_get sl k bs, Tbl.get_put]
    by_cases hb : b = k <;> by_cases hk : k ∈ bs <;> simp [hb, hk, Ne.symm]
    all_goals simp_all [eq_comm]

/-- The blocks that a write touches take its seal, and no other (R419). -/
theorem get_sealBytes (s : State) (sl key n k : Nat) (hk : keyTgt key < 2) :
    Tbl.get 0 (sealBytes s sl key n).seals k = if key / 16 ≤ k ∧ k < (key + n + 15) / 16 then sl else Tbl.get 0 s.seals k := by
  rw [sealBytes, if_neg (by omega)]
  have hm : k ∈ sealedBlocks key n ↔ key / 16 ≤ k ∧ k < (key + n + 15) / 16 := by
    simp only [sealedBlocks, List.mem_map, List.mem_range]
    exact ⟨fun ⟨i, hi, he⟩ => by omega, fun ⟨h1, h2⟩ => ⟨k - key / 16, by omega, by omega⟩⟩
  simp only [sealFold_get, hm]

/-- A write can be read back under the keys it was made with (R419). -/
theorem opens_sealBytes (s : State) (sl key n i : Nat) (hk : keyTgt key < 2) (hs : sl ≠ lostSeal) (hi : i < n) :
    opens (sealBytes s sl key n) sl (key + i) = true := by
  simp [opens, hs, get_sealBytes s sl key n _ hk, show key / 16 ≤ (key + i) / 16 ∧ (key + i) / 16 < (key + n + 15) / 16 by omega]

end Sys2Proof.Machine
end

