-- ==== Sys2Proof/Laws/State.lean ====
section
/-! SUPPORT. What each shared update of the state leaves of each field of it. -/
namespace Sys2Proof.Machine

variable (s : State) (k tx g : Nat)

@[simp] theorem modCore_time (f : Core → Core) : (modCore s k f).time = s.time := rfl
@[simp] theorem modCore_freeNo (f : Core → Core) : (modCore s k f).freeNo = s.freeNo := rfl
@[simp] theorem modCore_stage (f : Core → Core) : (modCore s k f).stage = s.stage := rfl
@[simp] theorem modCore_cur (f : Core → Core) : (modCore s k f).cur = s.cur := rfl
@[simp] theorem modCore_inbox (f : Core → Core) : (modCore s k f).inbox = s.inbox := rfl
@[simp] theorem modCore_pairs (f : Core → Core) : (modCore s k f).pairs = s.pairs := rfl
@[simp] theorem modCore_clusters (f : Core → Core) : (modCore s k f).clusters = s.clusters := rfl
@[simp] theorem modCore_dies (f : Core → Core) : (modCore s k f).dies = s.dies := rfl
@[simp] theorem modCore_hubs (f : Core → Core) : (modCore s k f).hubs = s.hubs := rfl
@[simp] theorem modCore_views (f : Core → Core) : (modCore s k f).views = s.views := rfl
@[simp] theorem modCore_seals (f : Core → Core) : (modCore s k f).seals = s.seals := rfl
@[simp] theorem modCore_ports (f : Core → Core) : (modCore s k f).ports = s.ports := rfl
@[simp] theorem modCore_peers (f : Core → Core) : (modCore s k f).peers = s.peers := rfl
@[simp] theorem modCore_peerDown (f : Core → Core) : (modCore s k f).peerDown = s.peerDown := rfl
@[simp] theorem modCore_vis (f : Core → Core) : (modCore s k f).vis = s.vis := rfl
@[simp] theorem modCore_keys (f : Core → Core) : (modCore s k f).keys = s.keys := rfl
@[simp] theorem modCore_queues (f : Core → Core) : (modCore s k f).queues = s.queues := rfl
@[simp] theorem modCore_quotes (f : Core → Core) : (modCore s k f).quotes = s.quotes := rfl
@[simp] theorem modCore_reservations (f : Core → Core) : (modCore s k f).reservations = s.reservations := rfl
@[simp] theorem modCore_grids (f : Core → Core) : (modCore s k f).grids = s.grids := rfl
@[simp] theorem modCore_preds (f : Core → Core) : (modCore s k f).preds = s.preds := rfl
@[simp] theorem modCore_prio (f : Core → Core) : (modCore s k f).prio = s.prio := rfl
@[simp] theorem modCore_nextQid (f : Core → Core) : (modCore s k f).nextQid = s.nextQid := rfl
@[simp] theorem modCore_nextGrid (f : Core → Core) : (modCore s k f).nextGrid = s.nextGrid := rfl
@[simp] theorem modCore_overruns (f : Core → Core) : (modCore s k f).overruns = s.overruns := rfl
@[simp] theorem modCore_prdHold (f : Core → Core) : (modCore s k f).prdHold = s.prdHold := rfl
@[simp] theorem modCore_prdEn (f : Core → Core) : (modCore s k f).prdEn = s.prdEn := rfl
@[simp] theorem modCore_prdCounts (f : Core → Core) : (modCore s k f).prdCounts = s.prdCounts := rfl
@[simp] theorem modCore_prdEnergy (f : Core → Core) : (modCore s k f).prdEnergy = s.prdEnergy := rfl
@[simp] theorem modCore_flySize (f : Core → Core) : (modCore s k f).flySize = s.flySize := rfl
@[simp] theorem modCore_flyWrite (f : Core → Core) : (modCore s k f).flyWrite = s.flyWrite := rfl
@[simp] theorem modCore_flyFrames (f : Core → Core) : (modCore s k f).flyFrames = s.flyFrames := rfl
@[simp] theorem modCore_migrations (f : Core → Core) : (modCore s k f).migrations = s.migrations := rfl
@[simp] theorem modCore_ballastSet (f : Core → Core) : (modCore s k f).ballastSet = s.ballastSet := rfl
@[simp] theorem modCore_pwrPkg (f : Core → Core) : (modCore s k f).pwrPkg = s.pwrPkg := rfl
@[simp] theorem modCore_ballastOn (f : Core → Core) : (modCore s k f).ballastOn = s.ballastOn := rfl
@[simp] theorem modCore_denyCount (f : Core → Core) : (modCore s k f).denyCount = s.denyCount := rfl
@[simp] theorem modCore_denyCause (f : Core → Core) : (modCore s k f).denyCause = s.denyCause := rfl
@[simp] theorem modCore_denyCluster (f : Core → Core) : (modCore s k f).denyCluster = s.denyCluster := rfl
@[simp] theorem modCore_overPkg (f : Core → Core) : (modCore s k f).overPkg = s.overPkg := rfl
@[simp] theorem modCore_burn (f : Core → Core) : (modCore s k f).burn = s.burn := rfl
@[simp] theorem modCore_currentDue (f : Core → Core) : (modCore s k f).currentDue = s.currentDue := rfl
@[simp] theorem modCore_powerDue (f : Core → Core) : (modCore s k f).powerDue = s.powerDue := rfl
@[simp] theorem modCore_dips (f : Core → Core) : (modCore s k f).dips = s.dips := rfl
@[simp] theorem modCore_pfInts (f : Core → Core) : (modCore s k f).pfInts = s.pfInts := rfl
@[simp] theorem modCore_stopTick (f : Core → Core) : (modCore s k f).stopTick = s.stopTick := rfl
@[simp] theorem modCore_stopped (f : Core → Core) : (modCore s k f).stopped = s.stopped := rfl
@[simp] theorem modCore_stoppedAt (f : Core → Core) : (modCore s k f).stoppedAt = s.stoppedAt := rfl
@[simp] theorem modCore_boot (f : Core → Core) : (modCore s k f).boot = s.boot := rfl

@[simp] theorem modTeam_time (f : Team → Team) : (modTeam s k tx f).time = s.time := rfl
@[simp] theorem modTeam_freeNo (f : Team → Team) : (modTeam s k tx f).freeNo = s.freeNo := rfl
@[simp] theorem modTeam_stage (f : Team → Team) : (modTeam s k tx f).stage = s.stage := rfl
@[simp] theorem modTeam_cur (f : Team → Team) : (modTeam s k tx f).cur = s.cur := rfl
@[simp] theorem modTeam_inbox (f : Team → Team) : (modTeam s k tx f).inbox = s.inbox := rfl
@[simp] theorem modTeam_pairs (f : Team → Team) : (modTeam s k tx f).pairs = s.pairs := rfl
@[simp] theorem modTeam_clusters (f : Team → Team) : (modTeam s k tx f).clusters = s.clusters := rfl
@[simp] theorem modTeam_dies (f : Team → Team) : (modTeam s k tx f).dies = s.dies := rfl
@[simp] theorem modTeam_hubs (f : Team → Team) : (modTeam s k tx f).hubs = s.hubs := rfl
@[simp] theorem modTeam_views (f : Team → Team) : (modTeam s k tx f).views = s.views := rfl
@[simp] theorem modTeam_seals (f : Team → Team) : (modTeam s k tx f).seals = s.seals := rfl
@[simp] theorem modTeam_ports (f : Team → Team) : (modTeam s k tx f).ports = s.ports := rfl
@[simp] theorem modTeam_peers (f : Team → Team) : (modTeam s k tx f).peers = s.peers := rfl
@[simp] theorem modTeam_peerDown (f : Team → Team) : (modTeam s k tx f).peerDown = s.peerDown := rfl
@[simp] theorem modTeam_vis (f : Team → Team) : (modTeam s k tx f).vis = s.vis := rfl
@[simp] theorem modTeam_keys (f : Team → Team) : (modTeam s k tx f).keys = s.keys := rfl
@[simp] theorem modTeam_queues (f : Team → Team) : (modTeam s k tx f).queues = s.queues := rfl
@[simp] theorem modTeam_quotes (f : Team → Team) : (modTeam s k tx f).quotes = s.quotes := rfl
@[simp] theorem modTeam_reservations (f : Team → Team) : (modTeam s k tx f).reservations = s.reservations := rfl
@[simp] theorem modTeam_grids (f : Team → Team) : (modTeam s k tx f).grids = s.grids := rfl
@[simp] theorem modTeam_preds (f : Team → Team) : (modTeam s k tx f).preds = s.preds := rfl
@[simp] theorem modTeam_prio (f : Team → Team) : (modTeam s k tx f).prio = s.prio := rfl
@[simp] theorem modTeam_nextQid (f : Team → Team) : (modTeam s k tx f).nextQid = s.nextQid := rfl
@[simp] theorem modTeam_nextGrid (f : Team → Team) : (modTeam s k tx f).nextGrid = s.nextGrid := rfl
@[simp] theorem modTeam_overruns (f : Team → Team) : (modTeam s k tx f).overruns = s.overruns := rfl
@[simp] theorem modTeam_prdHold (f : Team → Team) : (modTeam s k tx f).prdHold = s.prdHold := rfl
@[simp] theorem modTeam_prdEn (f : Team → Team) : (modTeam s k tx f).prdEn = s.prdEn := rfl
@[simp] theorem modTeam_prdCounts (f : Team → Team) : (modTeam s k tx f).prdCounts = s.prdCounts := rfl
@[simp] theorem modTeam_prdEnergy (f : Team → Team) : (modTeam s k tx f).prdEnergy = s.prdEnergy := rfl
@[simp] theorem modTeam_flySize (f : Team → Team) : (modTeam s k tx f).flySize = s.flySize := rfl
@[simp] theorem modTeam_flyWrite (f : Team → Team) : (modTeam s k tx f).flyWrite = s.flyWrite := rfl
@[simp] theorem modTeam_flyFrames (f : Team → Team) : (modTeam s k tx f).flyFrames = s.flyFrames := rfl
@[simp] theorem modTeam_migrations (f : Team → Team) : (modTeam s k tx f).migrations = s.migrations := rfl
@[simp] theorem modTeam_ballastSet (f : Team → Team) : (modTeam s k tx f).ballastSet = s.ballastSet := rfl
@[simp] theorem modTeam_pwrPkg (f : Team → Team) : (modTeam s k tx f).pwrPkg = s.pwrPkg := rfl
@[simp] theorem modTeam_ballastOn (f : Team → Team) : (modTeam s k tx f).ballastOn = s.ballastOn := rfl
@[simp] theorem modTeam_denyCount (f : Team → Team) : (modTeam s k tx f).denyCount = s.denyCount := rfl
@[simp] theorem modTeam_denyCause (f : Team → Team) : (modTeam s k tx f).denyCause = s.denyCause := rfl
@[simp] theorem modTeam_denyCluster (f : Team → Team) : (modTeam s k tx f).denyCluster = s.denyCluster := rfl
@[simp] theorem modTeam_overPkg (f : Team → Team) : (modTeam s k tx f).overPkg = s.overPkg := rfl
@[simp] theorem modTeam_burn (f : Team → Team) : (modTeam s k tx f).burn = s.burn := rfl
@[simp] theorem modTeam_currentDue (f : Team → Team) : (modTeam s k tx f).currentDue = s.currentDue := rfl
@[simp] theorem modTeam_powerDue (f : Team → Team) : (modTeam s k tx f).powerDue = s.powerDue := rfl
@[simp] theorem modTeam_dips (f : Team → Team) : (modTeam s k tx f).dips = s.dips := rfl
@[simp] theorem modTeam_pfInts (f : Team → Team) : (modTeam s k tx f).pfInts = s.pfInts := rfl
@[simp] theorem modTeam_stopTick (f : Team → Team) : (modTeam s k tx f).stopTick = s.stopTick := rfl
@[simp] theorem modTeam_stopped (f : Team → Team) : (modTeam s k tx f).stopped = s.stopped := rfl
@[simp] theorem modTeam_stoppedAt (f : Team → Team) : (modTeam s k tx f).stoppedAt = s.stoppedAt := rfl
@[simp] theorem modTeam_boot (f : Team → Team) : (modTeam s k tx f).boot = s.boot := rfl

@[simp] theorem modGroup_time (f : Group → Group) : (modGroup s k tx g f).time = s.time := rfl
@[simp] theorem modGroup_freeNo (f : Group → Group) : (modGroup s k tx g f).freeNo = s.freeNo := rfl
@[simp] theorem modGroup_stage (f : Group → Group) : (modGroup s k tx g f).stage = s.stage := rfl
@[simp] theorem modGroup_cur (f : Group → Group) : (modGroup s k tx g f).cur = s.cur := rfl
@[simp] theorem modGroup_inbox (f : Group → Group) : (modGroup s k tx g f).inbox = s.inbox := rfl
@[simp] theorem modGroup_pairs (f : Group → Group) : (modGroup s k tx g f).pairs = s.pairs := rfl
@[simp] theorem modGroup_clusters (f : Group → Group) : (modGroup s k tx g f).clusters = s.clusters := rfl
@[simp] theorem modGroup_dies (f : Group → Group) : (modGroup s k tx g f).dies = s.dies := rfl
@[simp] theorem modGroup_hubs (f : Group → Group) : (modGroup s k tx g f).hubs = s.hubs := rfl
@[simp] theorem modGroup_views (f : Group → Group) : (modGroup s k tx g f).views = s.views := rfl
@[simp] theorem modGroup_seals (f : Group → Group) : (modGroup s k tx g f).seals = s.seals := rfl
@[simp] theorem modGroup_ports (f : Group → Group) : (modGroup s k tx g f).ports = s.ports := rfl
@[simp] theorem modGroup_peers (f : Group → Group) : (modGroup s k tx g f).peers = s.peers := rfl
@[simp] theorem modGroup_peerDown (f : Group → Group) : (modGroup s k tx g f).peerDown = s.peerDown := rfl
@[simp] theorem modGroup_vis (f : Group → Group) : (modGroup s k tx g f).vis = s.vis := rfl
@[simp] theorem modGroup_keys (f : Group → Group) : (modGroup s k tx g f).keys = s.keys := rfl
@[simp] theorem modGroup_queues (f : Group → Group) : (modGroup s k tx g f).queues = s.queues := rfl
@[simp] theorem modGroup_quotes (f : Group → Group) : (modGroup s k tx g f).quotes = s.quotes := rfl
@[simp] theorem modGroup_reservations (f : Group → Group) : (modGroup s k tx g f).reservations = s.reservations := rfl
@[simp] theorem modGroup_grids (f : Group → Group) : (modGroup s k tx g f).grids = s.grids := rfl
@[simp] theorem modGroup_preds (f : Group → Group) : (modGroup s k tx g f).preds = s.preds := rfl
@[simp] theorem modGroup_prio (f : Group → Group) : (modGroup s k tx g f).prio = s.prio := rfl
@[simp] theorem modGroup_nextQid (f : Group → Group) : (modGroup s k tx g f).nextQid = s.nextQid := rfl
@[simp] theorem modGroup_nextGrid (f : Group → Group) : (modGroup s k tx g f).nextGrid = s.nextGrid := rfl
@[simp] theorem modGroup_overruns (f : Group → Group) : (modGroup s k tx g f).overruns = s.overruns := rfl
@[simp] theorem modGroup_prdHold (f : Group → Group) : (modGroup s k tx g f).prdHold = s.prdHold := rfl
@[simp] theorem modGroup_prdEn (f : Group → Group) : (modGroup s k tx g f).prdEn = s.prdEn := rfl
@[simp] theorem modGroup_prdCounts (f : Group → Group) : (modGroup s k tx g f).prdCounts = s.prdCounts := rfl
@[simp] theorem modGroup_prdEnergy (f : Group → Group) : (modGroup s k tx g f).prdEnergy = s.prdEnergy := rfl
@[simp] theorem modGroup_flySize (f : Group → Group) : (modGroup s k tx g f).flySize = s.flySize := rfl
@[simp] theorem modGroup_flyWrite (f : Group → Group) : (modGroup s k tx g f).flyWrite = s.flyWrite := rfl
@[simp] theorem modGroup_flyFrames (f : Group → Group) : (modGroup s k tx g f).flyFrames = s.flyFrames := rfl
@[simp] theorem modGroup_migrations (f : Group → Group) : (modGroup s k tx g f).migrations = s.migrations := rfl
@[simp] theorem modGroup_ballastSet (f : Group → Group) : (modGroup s k tx g f).ballastSet = s.ballastSet := rfl
@[simp] theorem modGroup_pwrPkg (f : Group → Group) : (modGroup s k tx g f).pwrPkg = s.pwrPkg := rfl
@[simp] theorem modGroup_ballastOn (f : Group → Group) : (modGroup s k tx g f).ballastOn = s.ballastOn := rfl
@[simp] theorem modGroup_denyCount (f : Group → Group) : (modGroup s k tx g f).denyCount = s.denyCount := rfl
@[simp] theorem modGroup_denyCause (f : Group → Group) : (modGroup s k tx g f).denyCause = s.denyCause := rfl
@[simp] theorem modGroup_denyCluster (f : Group → Group) : (modGroup s k tx g f).denyCluster = s.denyCluster := rfl
@[simp] theorem modGroup_overPkg (f : Group → Group) : (modGroup s k tx g f).overPkg = s.overPkg := rfl
@[simp] theorem modGroup_burn (f : Group → Group) : (modGroup s k tx g f).burn = s.burn := rfl
@[simp] theorem modGroup_currentDue (f : Group → Group) : (modGroup s k tx g f).currentDue = s.currentDue := rfl
@[simp] theorem modGroup_powerDue (f : Group → Group) : (modGroup s k tx g f).powerDue = s.powerDue := rfl
@[simp] theorem modGroup_dips (f : Group → Group) : (modGroup s k tx g f).dips = s.dips := rfl
@[simp] theorem modGroup_pfInts (f : Group → Group) : (modGroup s k tx g f).pfInts = s.pfInts := rfl
@[simp] theorem modGroup_stopTick (f : Group → Group) : (modGroup s k tx g f).stopTick = s.stopTick := rfl
@[simp] theorem modGroup_stopped (f : Group → Group) : (modGroup s k tx g f).stopped = s.stopped := rfl
@[simp] theorem modGroup_stoppedAt (f : Group → Group) : (modGroup s k tx g f).stoppedAt = s.stoppedAt := rfl
@[simp] theorem modGroup_boot (f : Group → Group) : (modGroup s k tx g f).boot = s.boot := rfl

@[simp] theorem modCluster_time (f : Cluster → Cluster) : (modCluster s k f).time = s.time := rfl
@[simp] theorem modCluster_freeNo (f : Cluster → Cluster) : (modCluster s k f).freeNo = s.freeNo := rfl
@[simp] theorem modCluster_stage (f : Cluster → Cluster) : (modCluster s k f).stage = s.stage := rfl
@[simp] theorem modCluster_cur (f : Cluster → Cluster) : (modCluster s k f).cur = s.cur := rfl
@[simp] theorem modCluster_inbox (f : Cluster → Cluster) : (modCluster s k f).inbox = s.inbox := rfl
@[simp] theorem modCluster_cores (f : Cluster → Cluster) : (modCluster s k f).cores = s.cores := rfl
@[simp] theorem modCluster_pairs (f : Cluster → Cluster) : (modCluster s k f).pairs = s.pairs := rfl
@[simp] theorem modCluster_dies (f : Cluster → Cluster) : (modCluster s k f).dies = s.dies := rfl
@[simp] theorem modCluster_hubs (f : Cluster → Cluster) : (modCluster s k f).hubs = s.hubs := rfl
@[simp] theorem modCluster_views (f : Cluster → Cluster) : (modCluster s k f).views = s.views := rfl
@[simp] theorem modCluster_seals (f : Cluster → Cluster) : (modCluster s k f).seals = s.seals := rfl
@[simp] theorem modCluster_ports (f : Cluster → Cluster) : (modCluster s k f).ports = s.ports := rfl
@[simp] theorem modCluster_peers (f : Cluster → Cluster) : (modCluster s k f).peers = s.peers := rfl
@[simp] theorem modCluster_peerDown (f : Cluster → Cluster) : (modCluster s k f).peerDown = s.peerDown := rfl
@[simp] theorem modCluster_vis (f : Cluster → Cluster) : (modCluster s k f).vis = s.vis := rfl
@[simp] theorem modCluster_keys (f : Cluster → Cluster) : (modCluster s k f).keys = s.keys := rfl
@[simp] theorem modCluster_queues (f : Cluster → Cluster) : (modCluster s k f).queues = s.queues := rfl
@[simp] theorem modCluster_quotes (f : Cluster → Cluster) : (modCluster s k f).quotes = s.quotes := rfl
@[simp] theorem modCluster_reservations (f : Cluster → Cluster) : (modCluster s k f).reservations = s.reservations := rfl
@[simp] theorem modCluster_grids (f : Cluster → Cluster) : (modCluster s k f).grids = s.grids := rfl
@[simp] theorem modCluster_preds (f : Cluster → Cluster) : (modCluster s k f).preds = s.preds := rfl
@[simp] theorem modCluster_prio (f : Cluster → Cluster) : (modCluster s k f).prio = s.prio := rfl
@[simp] theorem modCluster_nextQid (f : Cluster → Cluster) : (modCluster s k f).nextQid = s.nextQid := rfl
@[simp] theorem modCluster_nextGrid (f : Cluster → Cluster) : (modCluster s k f).nextGrid = s.nextGrid := rfl
@[simp] theorem modCluster_overruns (f : Cluster → Cluster) : (modCluster s k f).overruns = s.overruns := rfl
@[simp] theorem modCluster_prdHold (f : Cluster → Cluster) : (modCluster s k f).prdHold = s.prdHold := rfl
@[simp] theorem modCluster_prdEn (f : Cluster → Cluster) : (modCluster s k f).prdEn = s.prdEn := rfl
@[simp] theorem modCluster_prdCounts (f : Cluster → Cluster) : (modCluster s k f).prdCounts = s.prdCounts := rfl
@[simp] theorem modCluster_prdEnergy (f : Cluster → Cluster) : (modCluster s k f).prdEnergy = s.prdEnergy := rfl
@[simp] theorem modCluster_flySize (f : Cluster → Cluster) : (modCluster s k f).flySize = s.flySize := rfl
@[simp] theorem modCluster_flyWrite (f : Cluster → Cluster) : (modCluster s k f).flyWrite = s.flyWrite := rfl
@[simp] theorem modCluster_flyFrames (f : Cluster → Cluster) : (modCluster s k f).flyFrames = s.flyFrames := rfl
@[simp] theorem modCluster_migrations (f : Cluster → Cluster) : (modCluster s k f).migrations = s.migrations := rfl
@[simp] theorem modCluster_ballastSet (f : Cluster → Cluster) : (modCluster s k f).ballastSet = s.ballastSet := rfl
@[simp] theorem modCluster_pwrPkg (f : Cluster → Cluster) : (modCluster s k f).pwrPkg = s.pwrPkg := rfl
@[simp] theorem modCluster_ballastOn (f : Cluster → Cluster) : (modCluster s k f).ballastOn = s.ballastOn := rfl
@[simp] theorem modCluster_denyCount (f : Cluster → Cluster) : (modCluster s k f).denyCount = s.denyCount := rfl
@[simp] theorem modCluster_denyCause (f : Cluster → Cluster) : (modCluster s k f).denyCause = s.denyCause := rfl
@[simp] theorem modCluster_denyCluster (f : Cluster → Cluster) : (modCluster s k f).denyCluster = s.denyCluster := rfl
@[simp] theorem modCluster_overPkg (f : Cluster → Cluster) : (modCluster s k f).overPkg = s.overPkg := rfl
@[simp] theorem modCluster_burn (f : Cluster → Cluster) : (modCluster s k f).burn = s.burn := rfl
@[simp] theorem modCluster_currentDue (f : Cluster → Cluster) : (modCluster s k f).currentDue = s.currentDue := rfl
@[simp] theorem modCluster_powerDue (f : Cluster → Cluster) : (modCluster s k f).powerDue = s.powerDue := rfl
@[simp] theorem modCluster_dips (f : Cluster → Cluster) : (modCluster s k f).dips = s.dips := rfl
@[simp] theorem modCluster_pfInts (f : Cluster → Cluster) : (modCluster s k f).pfInts = s.pfInts := rfl
@[simp] theorem modCluster_stopTick (f : Cluster → Cluster) : (modCluster s k f).stopTick = s.stopTick := rfl
@[simp] theorem modCluster_stopped (f : Cluster → Cluster) : (modCluster s k f).stopped = s.stopped := rfl
@[simp] theorem modCluster_stoppedAt (f : Cluster → Cluster) : (modCluster s k f).stoppedAt = s.stoppedAt := rfl
@[simp] theorem modCluster_boot (f : Cluster → Cluster) : (modCluster s k f).boot = s.boot := rfl

@[simp] theorem onCore_time (f : Core → Core) : (onCore s f).time = s.time := rfl
@[simp] theorem onCore_freeNo (f : Core → Core) : (onCore s f).freeNo = s.freeNo := rfl
@[simp] theorem onCore_stage (f : Core → Core) : (onCore s f).stage = s.stage := rfl
@[simp] theorem onCore_cur (f : Core → Core) : (onCore s f).cur = s.cur := rfl
@[simp] theorem onCore_inbox (f : Core → Core) : (onCore s f).inbox = s.inbox := rfl
@[simp] theorem onCore_pairs (f : Core → Core) : (onCore s f).pairs = s.pairs := rfl
@[simp] theorem onCore_clusters (f : Core → Core) : (onCore s f).clusters = s.clusters := rfl
@[simp] theorem onCore_dies (f : Core → Core) : (onCore s f).dies = s.dies := rfl
@[simp] theorem onCore_hubs (f : Core → Core) : (onCore s f).hubs = s.hubs := rfl
@[simp] theorem onCore_views (f : Core → Core) : (onCore s f).views = s.views := rfl
@[simp] theorem onCore_seals (f : Core → Core) : (onCore s f).seals = s.seals := rfl
@[simp] theorem onCore_ports (f : Core → Core) : (onCore s f).ports = s.ports := rfl
@[simp] theorem onCore_peers (f : Core → Core) : (onCore s f).peers = s.peers := rfl
@[simp] theorem onCore_peerDown (f : Core → Core) : (onCore s f).peerDown = s.peerDown := rfl
@[simp] theorem onCore_vis (f : Core → Core) : (onCore s f).vis = s.vis := rfl
@[simp] theorem onCore_keys (f : Core → Core) : (onCore s f).keys = s.keys := rfl
@[simp] theorem onCore_queues (f : Core → Core) : (onCore s f).queues = s.queues := rfl
@[simp] theorem onCore_quotes (f : Core → Core) : (onCore s f).quotes = s.quotes := rfl
@[simp] theorem onCore_reservations (f : Core → Core) : (onCore s f).reservations = s.reservations := rfl
@[simp] theorem onCore_grids (f : Core → Core) : (onCore s f).grids = s.grids := rfl
@[simp] theorem onCore_preds (f : Core → Core) : (onCore s f).preds = s.preds := rfl
@[simp] theorem onCore_prio (f : Core → Core) : (onCore s f).prio = s.prio := rfl
@[simp] theorem onCore_nextQid (f : Core → Core) : (onCore s f).nextQid = s.nextQid := rfl
@[simp] theorem onCore_nextGrid (f : Core → Core) : (onCore s f).nextGrid = s.nextGrid := rfl
@[simp] theorem onCore_overruns (f : Core → Core) : (onCore s f).overruns = s.overruns := rfl
@[simp] theorem onCore_prdHold (f : Core → Core) : (onCore s f).prdHold = s.prdHold := rfl
@[simp] theorem onCore_prdEn (f : Core → Core) : (onCore s f).prdEn = s.prdEn := rfl
@[simp] theorem onCore_prdCounts (f : Core → Core) : (onCore s f).prdCounts = s.prdCounts := rfl
@[simp] theorem onCore_prdEnergy (f : Core → Core) : (onCore s f).prdEnergy = s.prdEnergy := rfl
@[simp] theorem onCore_flySize (f : Core → Core) : (onCore s f).flySize = s.flySize := rfl
@[simp] theorem onCore_flyWrite (f : Core → Core) : (onCore s f).flyWrite = s.flyWrite := rfl
@[simp] theorem onCore_flyFrames (f : Core → Core) : (onCore s f).flyFrames = s.flyFrames := rfl
@[simp] theorem onCore_migrations (f : Core → Core) : (onCore s f).migrations = s.migrations := rfl
@[simp] theorem onCore_ballastSet (f : Core → Core) : (onCore s f).ballastSet = s.ballastSet := rfl
@[simp] theorem onCore_pwrPkg (f : Core → Core) : (onCore s f).pwrPkg = s.pwrPkg := rfl
@[simp] theorem onCore_ballastOn (f : Core → Core) : (onCore s f).ballastOn = s.ballastOn := rfl
@[simp] theorem onCore_denyCount (f : Core → Core) : (onCore s f).denyCount = s.denyCount := rfl
@[simp] theorem onCore_denyCause (f : Core → Core) : (onCore s f).denyCause = s.denyCause := rfl
@[simp] theorem onCore_denyCluster (f : Core → Core) : (onCore s f).denyCluster = s.denyCluster := rfl
@[simp] theorem onCore_overPkg (f : Core → Core) : (onCore s f).overPkg = s.overPkg := rfl
@[simp] theorem onCore_burn (f : Core → Core) : (onCore s f).burn = s.burn := rfl
@[simp] theorem onCore_currentDue (f : Core → Core) : (onCore s f).currentDue = s.currentDue := rfl
@[simp] theorem onCore_powerDue (f : Core → Core) : (onCore s f).powerDue = s.powerDue := rfl
@[simp] theorem onCore_dips (f : Core → Core) : (onCore s f).dips = s.dips := rfl
@[simp] theorem onCore_pfInts (f : Core → Core) : (onCore s f).pfInts = s.pfInts := rfl
@[simp] theorem onCore_stopTick (f : Core → Core) : (onCore s f).stopTick = s.stopTick := rfl
@[simp] theorem onCore_stopped (f : Core → Core) : (onCore s f).stopped = s.stopped := rfl
@[simp] theorem onCore_stoppedAt (f : Core → Core) : (onCore s f).stoppedAt = s.stoppedAt := rfl
@[simp] theorem onCore_boot (f : Core → Core) : (onCore s f).boot = s.boot := rfl

@[simp] theorem onTeam_time (f : Team → Team) : (onTeam s f).time = s.time := rfl
@[simp] theorem onTeam_freeNo (f : Team → Team) : (onTeam s f).freeNo = s.freeNo := rfl
@[simp] theorem onTeam_stage (f : Team → Team) : (onTeam s f).stage = s.stage := rfl
@[simp] theorem onTeam_cur (f : Team → Team) : (onTeam s f).cur = s.cur := rfl
@[simp] theorem onTeam_inbox (f : Team → Team) : (onTeam s f).inbox = s.inbox := rfl
@[simp] theorem onTeam_pairs (f : Team → Team) : (onTeam s f).pairs = s.pairs := rfl
@[simp] theorem onTeam_clusters (f : Team → Team) : (onTeam s f).clusters = s.clusters := rfl
@[simp] theorem onTeam_dies (f : Team → Team) : (onTeam s f).dies = s.dies := rfl
@[simp] theorem onTeam_hubs (f : Team → Team) : (onTeam s f).hubs = s.hubs := rfl
@[simp] theorem onTeam_views (f : Team → Team) : (onTeam s f).views = s.views := rfl
@[simp] theorem onTeam_seals (f : Team → Team) : (onTeam s f).seals = s.seals := rfl
@[simp] theorem onTeam_ports (f : Team → Team) : (onTeam s f).ports = s.ports := rfl
@[simp] theorem onTeam_peers (f : Team → Team) : (onTeam s f).peers = s.peers := rfl
@[simp] theorem onTeam_peerDown (f : Team → Team) : (onTeam s f).peerDown = s.peerDown := rfl
@[simp] theorem onTeam_vis (f : Team → Team) : (onTeam s f).vis = s.vis := rfl
@[simp] theorem onTeam_keys (f : Team → Team) : (onTeam s f).keys = s.keys := rfl
@[simp] theorem onTeam_queues (f : Team → Team) : (onTeam s f).queues = s.queues := rfl
@[simp] theorem onTeam_quotes (f : Team → Team) : (onTeam s f).quotes = s.quotes := rfl
@[simp] theorem onTeam_reservations (f : Team → Team) : (onTeam s f).reservations = s.reservations := rfl
@[simp] theorem onTeam_grids (f : Team → Team) : (onTeam s f).grids = s.grids := rfl
@[simp] theorem onTeam_preds (f : Team → Team) : (onTeam s f).preds = s.preds := rfl
@[simp] theorem onTeam_prio (f : Team → Team) : (onTeam s f).prio = s.prio := rfl
@[simp] theorem onTeam_nextQid (f : Team → Team) : (onTeam s f).nextQid = s.nextQid := rfl
@[simp] theorem onTeam_nextGrid (f : Team → Team) : (onTeam s f).nextGrid = s.nextGrid := rfl
@[simp] theorem onTeam_overruns (f : Team → Team) : (onTeam s f).overruns = s.overruns := rfl
@[simp] theorem onTeam_prdHold (f : Team → Team) : (onTeam s f).prdHold = s.prdHold := rfl
@[simp] theorem onTeam_prdEn (f : Team → Team) : (onTeam s f).prdEn = s.prdEn := rfl
@[simp] theorem onTeam_prdCounts (f : Team → Team) : (onTeam s f).prdCounts = s.prdCounts := rfl
@[simp] theorem onTeam_prdEnergy (f : Team → Team) : (onTeam s f).prdEnergy = s.prdEnergy := rfl
@[simp] theorem onTeam_flySize (f : Team → Team) : (onTeam s f).flySize = s.flySize := rfl
@[simp] theorem onTeam_flyWrite (f : Team → Team) : (onTeam s f).flyWrite = s.flyWrite := rfl
@[simp] theorem onTeam_flyFrames (f : Team → Team) : (onTeam s f).flyFrames = s.flyFrames := rfl
@[simp] theorem onTeam_migrations (f : Team → Team) : (onTeam s f).migrations = s.migrations := rfl
@[simp] theorem onTeam_ballastSet (f : Team → Team) : (onTeam s f).ballastSet = s.ballastSet := rfl
@[simp] theorem onTeam_pwrPkg (f : Team → Team) : (onTeam s f).pwrPkg = s.pwrPkg := rfl
@[simp] theorem onTeam_ballastOn (f : Team → Team) : (onTeam s f).ballastOn = s.ballastOn := rfl
@[simp] theorem onTeam_denyCount (f : Team → Team) : (onTeam s f).denyCount = s.denyCount := rfl
@[simp] theorem onTeam_denyCause (f : Team → Team) : (onTeam s f).denyCause = s.denyCause := rfl
@[simp] theorem onTeam_denyCluster (f : Team → Team) : (onTeam s f).denyCluster = s.denyCluster := rfl
@[simp] theorem onTeam_overPkg (f : Team → Team) : (onTeam s f).overPkg = s.overPkg := rfl
@[simp] theorem onTeam_burn (f : Team → Team) : (onTeam s f).burn = s.burn := rfl
@[simp] theorem onTeam_currentDue (f : Team → Team) : (onTeam s f).currentDue = s.currentDue := rfl
@[simp] theorem onTeam_powerDue (f : Team → Team) : (onTeam s f).powerDue = s.powerDue := rfl
@[simp] theorem onTeam_dips (f : Team → Team) : (onTeam s f).dips = s.dips := rfl
@[simp] theorem onTeam_pfInts (f : Team → Team) : (onTeam s f).pfInts = s.pfInts := rfl
@[simp] theorem onTeam_stopTick (f : Team → Team) : (onTeam s f).stopTick = s.stopTick := rfl
@[simp] theorem onTeam_stopped (f : Team → Team) : (onTeam s f).stopped = s.stopped := rfl
@[simp] theorem onTeam_stoppedAt (f : Team → Team) : (onTeam s f).stoppedAt = s.stoppedAt := rfl
@[simp] theorem onTeam_boot (f : Team → Team) : (onTeam s f).boot = s.boot := rfl

@[simp] theorem onGroup_time (f : Group → Group) : (onGroup s f).time = s.time := rfl
@[simp] theorem onGroup_freeNo (f : Group → Group) : (onGroup s f).freeNo = s.freeNo := rfl
@[simp] theorem onGroup_stage (f : Group → Group) : (onGroup s f).stage = s.stage := rfl
@[simp] theorem onGroup_cur (f : Group → Group) : (onGroup s f).cur = s.cur := rfl
@[simp] theorem onGroup_inbox (f : Group → Group) : (onGroup s f).inbox = s.inbox := rfl
@[simp] theorem onGroup_pairs (f : Group → Group) : (onGroup s f).pairs = s.pairs := rfl
@[simp] theorem onGroup_clusters (f : Group → Group) : (onGroup s f).clusters = s.clusters := rfl
@[simp] theorem onGroup_dies (f : Group → Group) : (onGroup s f).dies = s.dies := rfl
@[simp] theorem onGroup_hubs (f : Group → Group) : (onGroup s f).hubs = s.hubs := rfl
@[simp] theorem onGroup_views (f : Group → Group) : (onGroup s f).views = s.views := rfl
@[simp] theorem onGroup_seals (f : Group → Group) : (onGroup s f).seals = s.seals := rfl
@[simp] theorem onGroup_ports (f : Group → Group) : (onGroup s f).ports = s.ports := rfl
@[simp] theorem onGroup_peers (f : Group → Group) : (onGroup s f).peers = s.peers := rfl
@[simp] theorem onGroup_peerDown (f : Group → Group) : (onGroup s f).peerDown = s.peerDown := rfl
@[simp] theorem onGroup_vis (f : Group → Group) : (onGroup s f).vis = s.vis := rfl
@[simp] theorem onGroup_keys (f : Group → Group) : (onGroup s f).keys = s.keys := rfl
@[simp] theorem onGroup_queues (f : Group → Group) : (onGroup s f).queues = s.queues := rfl
@[simp] theorem onGroup_quotes (f : Group → Group) : (onGroup s f).quotes = s.quotes := rfl
@[simp] theorem onGroup_reservations (f : Group → Group) : (onGroup s f).reservations = s.reservations := rfl
@[simp] theorem onGroup_grids (f : Group → Group) : (onGroup s f).grids = s.grids := rfl
@[simp] theorem onGroup_preds (f : Group → Group) : (onGroup s f).preds = s.preds := rfl
@[simp] theorem onGroup_prio (f : Group → Group) : (onGroup s f).prio = s.prio := rfl
@[simp] theorem onGroup_nextQid (f : Group → Group) : (onGroup s f).nextQid = s.nextQid := rfl
@[simp] theorem onGroup_nextGrid (f : Group → Group) : (onGroup s f).nextGrid = s.nextGrid := rfl
@[simp] theorem onGroup_overruns (f : Group → Group) : (onGroup s f).overruns = s.overruns := rfl
@[simp] theorem onGroup_prdHold (f : Group → Group) : (onGroup s f).prdHold = s.prdHold := rfl
@[simp] theorem onGroup_prdEn (f : Group → Group) : (onGroup s f).prdEn = s.prdEn := rfl
@[simp] theorem onGroup_prdCounts (f : Group → Group) : (onGroup s f).prdCounts = s.prdCounts := rfl
@[simp] theorem onGroup_prdEnergy (f : Group → Group) : (onGroup s f).prdEnergy = s.prdEnergy := rfl
@[simp] theorem onGroup_flySize (f : Group → Group) : (onGroup s f).flySize = s.flySize := rfl
@[simp] theorem onGroup_flyWrite (f : Group → Group) : (onGroup s f).flyWrite = s.flyWrite := rfl
@[simp] theorem onGroup_flyFrames (f : Group → Group) : (onGroup s f).flyFrames = s.flyFrames := rfl
@[simp] theorem onGroup_migrations (f : Group → Group) : (onGroup s f).migrations = s.migrations := rfl
@[simp] theorem onGroup_ballastSet (f : Group → Group) : (onGroup s f).ballastSet = s.ballastSet := rfl
@[simp] theorem onGroup_pwrPkg (f : Group → Group) : (onGroup s f).pwrPkg = s.pwrPkg := rfl
@[simp] theorem onGroup_ballastOn (f : Group → Group) : (onGroup s f).ballastOn = s.ballastOn := rfl
@[simp] theorem onGroup_denyCount (f : Group → Group) : (onGroup s f).denyCount = s.denyCount := rfl
@[simp] theorem onGroup_denyCause (f : Group → Group) : (onGroup s f).denyCause = s.denyCause := rfl
@[simp] theorem onGroup_denyCluster (f : Group → Group) : (onGroup s f).denyCluster = s.denyCluster := rfl
@[simp] theorem onGroup_overPkg (f : Group → Group) : (onGroup s f).overPkg = s.overPkg := rfl
@[simp] theorem onGroup_burn (f : Group → Group) : (onGroup s f).burn = s.burn := rfl
@[simp] theorem onGroup_currentDue (f : Group → Group) : (onGroup s f).currentDue = s.currentDue := rfl
@[simp] theorem onGroup_powerDue (f : Group → Group) : (onGroup s f).powerDue = s.powerDue := rfl
@[simp] theorem onGroup_dips (f : Group → Group) : (onGroup s f).dips = s.dips := rfl
@[simp] theorem onGroup_pfInts (f : Group → Group) : (onGroup s f).pfInts = s.pfInts := rfl
@[simp] theorem onGroup_stopTick (f : Group → Group) : (onGroup s f).stopTick = s.stopTick := rfl
@[simp] theorem onGroup_stopped (f : Group → Group) : (onGroup s f).stopped = s.stopped := rfl
@[simp] theorem onGroup_stoppedAt (f : Group → Group) : (onGroup s f).stoppedAt = s.stoppedAt := rfl
@[simp] theorem onGroup_boot (f : Group → Group) : (onGroup s f).boot = s.boot := rfl

@[simp] theorem advance_time : (advance s).time = s.time := rfl
@[simp] theorem advance_freeNo : (advance s).freeNo = s.freeNo := rfl
@[simp] theorem advance_stage : (advance s).stage = s.stage := rfl
@[simp] theorem advance_cur : (advance s).cur = s.cur := rfl
@[simp] theorem advance_inbox : (advance s).inbox = s.inbox := rfl
@[simp] theorem advance_pairs : (advance s).pairs = s.pairs := rfl
@[simp] theorem advance_clusters : (advance s).clusters = s.clusters := rfl
@[simp] theorem advance_dies : (advance s).dies = s.dies := rfl
@[simp] theorem advance_hubs : (advance s).hubs = s.hubs := rfl
@[simp] theorem advance_views : (advance s).views = s.views := rfl
@[simp] theorem advance_seals : (advance s).seals = s.seals := rfl
@[simp] theorem advance_ports : (advance s).ports = s.ports := rfl
@[simp] theorem advance_peers : (advance s).peers = s.peers := rfl
@[simp] theorem advance_peerDown : (advance s).peerDown = s.peerDown := rfl
@[simp] theorem advance_vis : (advance s).vis = s.vis := rfl
@[simp] theorem advance_keys : (advance s).keys = s.keys := rfl
@[simp] theorem advance_queues : (advance s).queues = s.queues := rfl
@[simp] theorem advance_quotes : (advance s).quotes = s.quotes := rfl
@[simp] theorem advance_reservations : (advance s).reservations = s.reservations := rfl
@[simp] theorem advance_grids : (advance s).grids = s.grids := rfl
@[simp] theorem advance_preds : (advance s).preds = s.preds := rfl
@[simp] theorem advance_prio : (advance s).prio = s.prio := rfl
@[simp] theorem advance_nextQid : (advance s).nextQid = s.nextQid := rfl
@[simp] theorem advance_nextGrid : (advance s).nextGrid = s.nextGrid := rfl
@[simp] theorem advance_overruns : (advance s).overruns = s.overruns := rfl
@[simp] theorem advance_prdHold : (advance s).prdHold = s.prdHold := rfl
@[simp] theorem advance_prdEn : (advance s).prdEn = s.prdEn := rfl
@[simp] theorem advance_prdCounts : (advance s).prdCounts = s.prdCounts := rfl
@[simp] theorem advance_prdEnergy : (advance s).prdEnergy = s.prdEnergy := rfl
@[simp] theorem advance_flySize : (advance s).flySize = s.flySize := rfl
@[simp] theorem advance_flyWrite : (advance s).flyWrite = s.flyWrite := rfl
@[simp] theorem advance_flyFrames : (advance s).flyFrames = s.flyFrames := rfl
@[simp] theorem advance_migrations : (advance s).migrations = s.migrations := rfl
@[simp] theorem advance_ballastSet : (advance s).ballastSet = s.ballastSet := rfl
@[simp] theorem advance_pwrPkg : (advance s).pwrPkg = s.pwrPkg := rfl
@[simp] theorem advance_ballastOn : (advance s).ballastOn = s.ballastOn := rfl
@[simp] theorem advance_denyCount : (advance s).denyCount = s.denyCount := rfl
@[simp] theorem advance_denyCause : (advance s).denyCause = s.denyCause := rfl
@[simp] theorem advance_denyCluster : (advance s).denyCluster = s.denyCluster := rfl
@[simp] theorem advance_overPkg : (advance s).overPkg = s.overPkg := rfl
@[simp] theorem advance_burn : (advance s).burn = s.burn := rfl
@[simp] theorem advance_currentDue : (advance s).currentDue = s.currentDue := rfl
@[simp] theorem advance_powerDue : (advance s).powerDue = s.powerDue := rfl
@[simp] theorem advance_dips : (advance s).dips = s.dips := rfl
@[simp] theorem advance_pfInts : (advance s).pfInts = s.pfInts := rfl
@[simp] theorem advance_stopTick : (advance s).stopTick = s.stopTick := rfl
@[simp] theorem advance_stopped : (advance s).stopped = s.stopped := rfl
@[simp] theorem advance_stoppedAt : (advance s).stoppedAt = s.stoppedAt := rfl
@[simp] theorem advance_boot : (advance s).boot = s.boot := rfl

@[simp] theorem takeFree_fst : (takeFree s).1 = Config.freeWord s.freeNo := rfl
@[simp] theorem takeFree_time : (takeFree s).2.time = s.time := rfl
@[simp] theorem takeFree_stage : (takeFree s).2.stage = s.stage := rfl
@[simp] theorem takeFree_cur : (takeFree s).2.cur = s.cur := rfl
@[simp] theorem takeFree_inbox : (takeFree s).2.inbox = s.inbox := rfl
@[simp] theorem takeFree_cores : (takeFree s).2.cores = s.cores := rfl
@[simp] theorem takeFree_pairs : (takeFree s).2.pairs = s.pairs := rfl
@[simp] theorem takeFree_clusters : (takeFree s).2.clusters = s.clusters := rfl
@[simp] theorem takeFree_dies : (takeFree s).2.dies = s.dies := rfl
@[simp] theorem takeFree_hubs : (takeFree s).2.hubs = s.hubs := rfl
@[simp] theorem takeFree_views : (takeFree s).2.views = s.views := rfl
@[simp] theorem takeFree_seals : (takeFree s).2.seals = s.seals := rfl
@[simp] theorem takeFree_ports : (takeFree s).2.ports = s.ports := rfl
@[simp] theorem takeFree_peers : (takeFree s).2.peers = s.peers := rfl
@[simp] theorem takeFree_peerDown : (takeFree s).2.peerDown = s.peerDown := rfl
@[simp] theorem takeFree_vis : (takeFree s).2.vis = s.vis := rfl
@[simp] theorem takeFree_keys : (takeFree s).2.keys = s.keys := rfl
@[simp] theorem takeFree_queues : (takeFree s).2.queues = s.queues := rfl
@[simp] theorem takeFree_quotes : (takeFree s).2.quotes = s.quotes := rfl
@[simp] theorem takeFree_reservations : (takeFree s).2.reservations = s.reservations := rfl
@[simp] theorem takeFree_grids : (takeFree s).2.grids = s.grids := rfl
@[simp] theorem takeFree_preds : (takeFree s).2.preds = s.preds := rfl
@[simp] theorem takeFree_prio : (takeFree s).2.prio = s.prio := rfl
@[simp] theorem takeFree_nextQid : (takeFree s).2.nextQid = s.nextQid := rfl
@[simp] theorem takeFree_nextGrid : (takeFree s).2.nextGrid = s.nextGrid := rfl
@[simp] theorem takeFree_overruns : (takeFree s).2.overruns = s.overruns := rfl
@[simp] theorem takeFree_prdHold : (takeFree s).2.prdHold = s.prdHold := rfl
@[simp] theorem takeFree_prdEn : (takeFree s).2.prdEn = s.prdEn := rfl
@[simp] theorem takeFree_prdCounts : (takeFree s).2.prdCounts = s.prdCounts := rfl
@[simp] theorem takeFree_prdEnergy : (takeFree s).2.prdEnergy = s.prdEnergy := rfl
@[simp] theorem takeFree_flySize : (takeFree s).2.flySize = s.flySize := rfl
@[simp] theorem takeFree_flyWrite : (takeFree s).2.flyWrite = s.flyWrite := rfl
@[simp] theorem takeFree_flyFrames : (takeFree s).2.flyFrames = s.flyFrames := rfl
@[simp] theorem takeFree_migrations : (takeFree s).2.migrations = s.migrations := rfl
@[simp] theorem takeFree_ballastSet : (takeFree s).2.ballastSet = s.ballastSet := rfl
@[simp] theorem takeFree_pwrPkg : (takeFree s).2.pwrPkg = s.pwrPkg := rfl
@[simp] theorem takeFree_ballastOn : (takeFree s).2.ballastOn = s.ballastOn := rfl
@[simp] theorem takeFree_denyCount : (takeFree s).2.denyCount = s.denyCount := rfl
@[simp] theorem takeFree_denyCause : (takeFree s).2.denyCause = s.denyCause := rfl
@[simp] theorem takeFree_denyCluster : (takeFree s).2.denyCluster = s.denyCluster := rfl
@[simp] theorem takeFree_overPkg : (takeFree s).2.overPkg = s.overPkg := rfl
@[simp] theorem takeFree_burn : (takeFree s).2.burn = s.burn := rfl
@[simp] theorem takeFree_currentDue : (takeFree s).2.currentDue = s.currentDue := rfl
@[simp] theorem takeFree_powerDue : (takeFree s).2.powerDue = s.powerDue := rfl
@[simp] theorem takeFree_dips : (takeFree s).2.dips = s.dips := rfl
@[simp] theorem takeFree_pfInts : (takeFree s).2.pfInts = s.pfInts := rfl
@[simp] theorem takeFree_stopTick : (takeFree s).2.stopTick = s.stopTick := rfl
@[simp] theorem takeFree_stopped : (takeFree s).2.stopped = s.stopped := rfl
@[simp] theorem takeFree_stoppedAt : (takeFree s).2.stoppedAt = s.stoppedAt := rfl
@[simp] theorem takeFree_boot : (takeFree s).2.boot = s.boot := rfl
@[simp] theorem takeFree_freeNo : (takeFree s).2.freeNo = s.freeNo + 1 := rfl

end Sys2Proof.Machine
end

