-- ==== Sys2Proof/Laws/Ops.lean ====
section
/-! SUPPORT. What the shared operations over places, lanes and traps can do, said once for each. -/
namespace Sys2Proof.Machine

open Sys2Proof.Safety

/-! ## Places -/

theorem getCore_modCore (s : State) (k : Nat) (f : Core → Core) (j : Nat) :
    getCore (modCore s k f) j = if k = j then f (getCore s k) else getCore s j := by
  simp [getCore, modCore, Tbl.get_mod]

@[simp] theorem getCore_modCore_same (s : State) (k : Nat) (f : Core → Core) : getCore (modCore s k f) k = f (getCore s k) := by
  simp [getCore_modCore]

theorem teamAt_setTeam (c : Core) (tx : Nat) (t : Team) (j : Nat) :
    teamAt (setTeam c tx t) j = if tx = j then some t else teamAt c j := by
  simp [teamAt, setTeam, Tbl.get_set]

theorem getCore_modTeam (s : State) (k tx : Nat) (f : Team → Team) (j : Nat) :
    getCore (modTeam s k tx f) j = if k = j then setTeam (getCore s k) tx (f (getTeam s k tx)) else getCore s j := by
  simp [modTeam, getCore_modCore, getTeam]

theorem getTeam_modTeam (s : State) (k tx : Nat) (f : Team → Team) (j u : Nat) :
    getTeam (modTeam s k tx f) j u = if k = j ∧ tx = u then f (getTeam s k tx) else getTeam s j u := by
  by_cases h : k = j
  · subst h
    by_cases e : tx = u
    · subst e; simp [getTeam, getCore_modTeam, teamAt_setTeam]
    · simp [getTeam, getCore_modTeam, teamAt_setTeam, e]
  · simp [getTeam, getCore_modTeam, h]

@[simp] theorem getTeam_modTeam_same (s : State) (k tx : Nat) (f : Team → Team) :
    getTeam (modTeam s k tx f) k tx = f (getTeam s k tx) := by simp [getTeam_modTeam]

theorem groupAt_modGroupIn (t : Team) (g : Nat) (f : Group → Group) (j : Nat) :
    groupAt (modGroupIn t g f) j = if g = j then f (groupAt t g) else groupAt t j := by
  simp [groupAt, modGroupIn, Tbl.get_mod]

theorem getGroup_modGroup (s : State) (k tx g : Nat) (f : Group → Group) (j u h : Nat) :
    getGroup (modGroup s k tx g f) j u h = if k = j ∧ tx = u ∧ g = h then f (getGroup s k tx g) else getGroup s j u h := by
  by_cases e : k = j ∧ tx = u
  · obtain ⟨rfl, rfl⟩ := e
    simp [getGroup, modGroup, groupAt_modGroupIn]
  · simp only [getGroup, modGroup, getTeam_modTeam, e, ↓reduceIte]
    rw [if_neg fun h => e ⟨h.1, h.2.1⟩]

@[simp] theorem getGroup_modGroup_same (s : State) (k tx g : Nat) (f : Group → Group) :
    getGroup (modGroup s k tx g f) k tx g = f (getGroup s k tx g) := by simp [getGroup_modGroup]

@[simp] theorem curGroup_onGroup (s : State) (f : Group → Group) : curGroup (onGroup s f) = f (curGroup s) := by
  simp [curGroup, onGroup]

@[simp] theorem curTeam_onTeam (s : State) (f : Team → Team) : curTeam (onTeam s f) = f (curTeam s) := by
  simp [curTeam, onTeam]

@[simp] theorem curCore_onCore (s : State) (f : Core → Core) : curCore (onCore s f) = f (curCore s) := by
  simp [curCore, onCore]

/-! ## Lanes -/

theorem laneAt_modLane (g : Group) (l : Nat) (f : Lane → Lane) (j : Nat) :
    laneAt (modLane g l f) j = if l = j then f (laneAt g l) else laneAt g j := by
  simp [laneAt, modLane, Tbl.get_mod]

theorem laneAt_modLanes (g : Group) (ls : List Nat) (f : Nat → Lane → Lane) (j : Nat) (hn : ls.Nodup) :
    laneAt (modLanes g ls f) j = if j ∈ ls then f j (laneAt g j) else laneAt g j := by
  simp [laneAt, modLanes, Tbl.get_modAll _ _ _ _ _ hn]

@[simp] theorem modLanes_rest (g : Group) (ls : List Nat) (f : Nat → Lane → Lane) : { modLanes g ls f with lanes := g.lanes } = g := rfl

theorem lanesOf_nodup (m : BitVec 32) : (lanesOf m).Nodup := List.Pairwise.filter _ List.nodup_range

theorem subLanes_nodup (s : State) : (subLanes s).Nodup := lanesOf_nodup _

theorem active_nodup (s : State) (g : Guard) : (active s g).Nodup := List.Pairwise.filter _ (subLanes_nodup s)

theorem mem_lanesOf (m : BitVec 32) (l : Nat) : l ∈ lanesOf m ↔ m.getLsbD l = true := by
  simp only [lanesOf, List.mem_filter, List.mem_range]
  exact ⟨fun h => h.2, fun h => ⟨BitVec.lt_of_getLsbD h, h⟩⟩

theorem mem_active (s : State) (g : Guard) (l : Nat) :
    l ∈ active s g ↔ l ∈ subLanes s ∧ guardIn g (laneAt (curGroup s) l) = true := by
  simp [active, activeIn]

/-- What `runLanes` leaves of a group: each lane of the list has its new state, or its old one where it traps. -/
theorem laneAt_runLanes (grp : Group) (f : Nat → Lane → Except Cause Lane) (ls : List Nat) (hn : ls.Nodup) (l : Nat) :
    laneAt (runLanes grp f ls).1 l =
      if l ∈ ls then (match f l (laneAt grp l) with | .ok ln => ln | .error _ => laneAt grp l) else laneAt grp l := by
  induction ls with
  | nil => simp [runLanes]
  | cons a ls ih =>
    obtain ⟨ha, hn⟩ := List.nodup_cons.mp hn
    have ih := ih hn
    simp only [runLanes]
    by_cases e : a = l
    · subst e
      cases h : f a (laneAt grp a) with
      | ok ln => simp [laneAt_modLane]
      | error c => simp [ih, ha]
    · have e' : ¬ l = a := fun h => e h.symm
      cases h : f a (laneAt grp a) with
      | ok ln => simp [laneAt_modLane, e, e', ih]
      | error c => simp [ih, e']

theorem runLanes_rest (grp : Group) (f : Nat → Lane → Except Cause Lane) (ls : List Nat) :
    { (runLanes grp f ls).1 with lanes := grp.lanes } = grp := by
  induction ls with
  | nil => rfl
  | cons a ls ih =>
    simp only [runLanes]
    cases h : f a (laneAt grp a) with
    | ok ln => simpa [modLane] using ih
    | error c => simpa using ih

/-- The traps of `runLanes`: those of the lanes whose step answers an error, in ascending order. -/
theorem runLanes_traps (grp : Group) (f : Nat → Lane → Except Cause Lane) (ls : List Nat) :
    (runLanes grp f ls).2 = ls.filterMap fun l => match f l (laneAt grp l) with | .ok _ => none | .error c => some ⟨l, c⟩ := by
  induction ls with
  | nil => rfl
  | cons a ls ih =>
    simp only [runLanes]
    cases h : f a (laneAt grp a) with
    | ok ln => simp [h, ih]
    | error c => simp [h, ih]

theorem runLanes_noTraps (grp : Group) (f : Nat → Lane → Except Cause Lane) (ls : List Nat)
    (h : ∀ l ∈ ls, ∃ ln, f l (laneAt grp l) = .ok ln) : (runLanes grp f ls).2 = [] := by
  rw [runLanes_traps, List.filterMap_eq_nil_iff]
  intro l hl
  obtain ⟨ln, e⟩ := h l hl
  simp [e]

/-! ## Frames of the shared updates -/

theorem modCore_only (s : State) (k : Nat) (f : Core → Core) : OnlyCore k s (modCore s k f) :=
  ⟨rfl, fun j hj => by rw [getCore_modCore, if_neg (Ne.symm hj)]⟩

theorem modTeam_only (s : State) (k tx : Nat) (f : Team → Team) : OnlyTeam k tx s (modTeam s k tx f) := by
  refine ⟨⟨rfl, fun j hj => ?_⟩, ?_, fun j hj => ?_⟩
  · rw [getCore_modTeam, if_neg (Ne.symm hj)]
  · rw [getCore_modTeam, if_pos rfl]; rfl
  · rw [getCore_modTeam, if_pos rfl, teamAt_setTeam, if_neg (Ne.symm hj)]

/-- What a change of a team leaves of every core: all but its teams. -/
theorem modTeam_core (s : State) (k tx : Nat) (f : Team → Team) (j : Nat) :
    { getCore (modTeam s k tx f) j with teams := (getCore s j).teams } = getCore s j := by
  rw [getCore_modTeam]
  split
  · next h => subst h; rfl
  · rfl

theorem modGroup_core (s : State) (k tx g : Nat) (f : Group → Group) (j : Nat) :
    { getCore (modGroup s k tx g f) j with teams := (getCore s j).teams } = getCore s j := modTeam_core s k tx _ j

theorem modGroup_only (s : State) (k tx g : Nat) (f : Group → Group) : OnlyGroup k tx g s (modGroup s k tx g f) := by
  refine ⟨modTeam_only s k tx _, ?_, fun j hj => ?_⟩
  · rw [modGroup, getTeam_modTeam_same]; rfl
  · rw [getGroup_modGroup, if_neg fun h => hj h.2.2.symm]

/-- An update of a group that keeps all but some lanes. -/
theorem modGroup_onlyLanes (s : State) (k tx g : Nat) (f : Group → Group) (ls : List Nat)
    (hr : { f (getGroup s k tx g) with lanes := (getGroup s k tx g).lanes } = getGroup s k tx g)
    (ho : ∀ l, l ∉ ls → laneAt (f (getGroup s k tx g)) l = laneAt (getGroup s k tx g) l) :
    OnlyLanes k tx g ls s (modGroup s k tx g f) := by
  refine ⟨modGroup_only s k tx g f, ?_, fun l hl => ?_⟩
  · rw [getGroup_modGroup_same]; exact hr
  · rw [getGroup_modGroup_same]; exact ho l hl

/-! ## Words that act lane by lane, and words that act once for the group -/

@[simp] theorem trapLanes_nil (s : State) : trapLanes s [] = s := rfl

/-- Everything a word that acts lane by lane does where no lane traps: each issuing lane has its new state and goes on to the next PC, and nothing
else changes. -/
theorem laneWord_spec (s : State) (f : Group → Nat → Lane → Except Cause Lane)
    (h : ∀ l ∈ subLanes s, ∃ ln, f (curGroup s) l (laneAt (curGroup s) l) = .ok ln) :
    OnlyLanes s.cur.core s.cur.tx s.cur.group (subLanes s) s (laneWord s f) ∧
      ∀ l ∈ subLanes s, ∀ ln, f (curGroup s) l (laneAt (curGroup s) l) = .ok ln →
        laneAt (getGroup (laneWord s f) s.cur.core s.cur.tx s.cur.group) l = { ln with pc := curNext s } := by
  have hn := subLanes_nodup s
  have hnt : (runLanes (curGroup s) (fun l ln => (f (curGroup s) l ln).map fun ln => { ln with pc := curNext s }) (subLanes s)).2 = [] := by
    apply runLanes_noTraps
    intro l hl
    obtain ⟨ln, e⟩ := h l hl
    exact ⟨{ ln with pc := curNext s }, by simp [e, Except.map]⟩
  have hw : laneWord s f = modGroup s s.cur.core s.cur.tx s.cur.group fun _ =>
      (runLanes (curGroup s) (fun l ln => (f (curGroup s) l ln).map fun ln => { ln with pc := curNext s }) (subLanes s)).1 := by
    simp only [laneWord, hnt, trapLanes_nil, onGroup]
  rw [hw]
  refine ⟨modGroup_onlyLanes _ _ _ _ _ _ ?_ ?_, ?_⟩
  · exact runLanes_rest _ _ _
  · intro l hl
    rw [laneAt_runLanes _ _ _ hn, if_neg hl]; rfl
  · intro l hl ln e
    rw [getGroup_modGroup_same, laneAt_runLanes _ _ _ hn, if_pos hl]
    simp [e, Except.map]

/-- Everything `advance` does: the issuing lanes go on to the next PC. -/
theorem advance_spec (s : State) :
    OnlyLanes s.cur.core s.cur.tx s.cur.group (subLanes s) s (advance s) ∧
      ∀ l ∈ subLanes s, laneAt (curGroup (advance s)) l = { laneAt (curGroup s) l with pc := curNext s } := by
  refine ⟨modGroup_onlyLanes _ _ _ _ _ _ rfl ?_, ?_⟩
  · intro l hl; simp [setPc, laneAt_modLanes _ _ _ _ (subLanes_nodup s), hl]
  · intro l hl
    simp [advance, setPc, laneAt_modLanes _ _ _ _ (subLanes_nodup s), hl]

theorem groupWord_idle (s : State) (g : Guard) (f : List Nat → State) (h : active s g = []) : groupWord s g f = advance s := by
  simp [groupWord, h]

theorem groupWord_active (s : State) (g : Guard) (f : List Nat → State) (h : active s g ≠ []) :
    groupWord s g f = f (active s g) := by
  unfold groupWord
  split
  · next e => exact absurd e h
  · rfl

end Sys2Proof.Machine
end

