-- ==== Sys2Proof/Laws/PerInstr.lean ====
section
/-! SUPPORT. The family Encoding, one lemma for each constructor of Instr: the word of an instruction fits the bytes that its own length bits give. -/
namespace Sys2Proof.Laws.Encoding

/-- The encoder sets no bit above the end of the word (R58, R62 to R65). -/
def Statement (i : Instr) : Prop := encode i < 2 ^ (8 * wordBytes (encode i))

/-- A word that is the word of its fields fits. -/
theorem of_fields (i : Instr) (h : (rawOf i).Fits) (e : encode i = packWord (rawOf i)) : Statement i := by
  unfold Statement; rw [e]; exact packWord_fits _ h

theorem of_pop (i : Instr) (p : POp) (o : Ops) (h : i.pop = some (p, o)) (e : encode i = packWord (rawOf i)) : Statement i :=
  of_fields i (by unfold rawOf; simp only [h]; exact popRaw_fits p o) e

/-- A step of the device has no word of its own. -/
theorem event_fits : (bareRaw 0 0x1FF Guard.always zc zc zc zc 0 0 0).Fits :=
  bareRaw_fits _ _ _ _ _ _ _ _ _ _ (by decide) (by decide) (by decide) (by decide) (by decide) (by decide) (by decide) (by decide) (by decide)

theorem packSlot_lt (n : Nat) (r : Raw) (hn : n < 64) (hp : r.pred < 16) (hd : r.d < 2048) (ha : r.a < 2048) (hb : r.b < 2048) (hc : r.c < 2048)
    (hm : r.m < 16) : packSlot n r < 2 ^ 58 := by
  simp only [packSlot]; omega

theorem slotCode_lt (x : PairSlot) : slotCode x < 2 ^ 58 := by
  obtain ⟨h1, h2, h3⟩ := popCode_fits x.op
  have h := popRaw_fits x.op x.o
  have hm : (popRaw x.op x.o).m = (popCode x.op).2.1 := by simp only [popRaw]; split <;> rfl
  exact packSlot_lt _ _ (by omega) h.pred h.d h.a h.b h.c (by omega)

theorem pair_fits (x y : PairSlot) : Statement (.pairedWord x y) := by
  have hx := slotCode_lt x
  have hy := slotCode_lt y
  have e : encode (.pairedWord x y) = 2 + 2 ^ 2 * 0x1F0 + 2 ^ 11 * slotCode x + 2 ^ 69 * slotCode y := rfl
  have hmod : encode (.pairedWord x y) % 4 = 2 := by omega
  simp only [Statement, wordBytes, hmod]; omega

theorem mma_ext (e : MmaExt) : (match e.dprog with | some p => p.val | none => 63) + 2 ^ 6 * bitNat e.new + 2 ^ 8 * e.ak.toNat + 2 ^ 24 * e.bk.toNat +
    2 ^ 40 * e.bcol.toNat < 2 ^ 64 := by
  have := bitNat_le e.new
  have : (match e.dprog with | some p => p.val | none => 63) ≤ 63 := by split <;> omega
  have := e.ak.isLt; have := e.bk.isLt; have := e.bcol.isLt
  omega

theorem drain_ext (e : DrainExt) : e.dprog.val + 2 ^ 6 * bitNat e.keep + 2 ^ 8 * e.rpitch.toNat + 2 ^ 28 * e.cpitch.toNat < 2 ^ 64 := by
  have := bitNat_le e.keep; have := e.dprog.isLt; have := e.rpitch.isLt; have := e.cpitch.isLt
  omega

theorem copy_ext (e : CopyExt) : bitNat e.store + 2 * bitNat e.lk + 4 * e.cn.val + 16 * sysCode e.sys + 2 ^ 12 * e.off16.toNat < 2 ^ 64 := by
  have := bitNat_le e.store; have := bitNat_le e.lk; have := e.cn.isLt; have := sysCode_lt e.sys; have := e.off16.isLt
  omega

theorem fatom_ext (e : FatomExt) : gopCode e.op + 16 * bitNat e.w64 + 32 * sysCode e.sys + 256 * specCode e.cmp < 2 ^ 64 := by
  have := gopCode_lt e.op; have := bitNat_le e.w64; have := sysCode_lt e.sys; have := specCode_lt e.cmp
  omega

theorem nop (a0 : Guard) : Statement (.nop a0) :=
    of_fields _ (bareRaw_fits _ _ _ _ _ _ _ _ _ _ (by decide) (by decide) (by decide) (by decide) (by decide) (by decide) (by decide) (by decide) (by decide)) rfl
theorem bra (a0 : Guard) (a1 : Word) : Statement (.bra a0 a1) :=
    of_fields _ (bareRaw_fits _ _ _ _ _ _ _ _ _ _ (by decide) (by decide) (by decide) (by decide) (by decide) (by decide) (by decide) a1.isLt (by decide)) rfl
theorem brx (a0 : Guard) (a1 : BitVec 5) (a2 : Spec) : Statement (.brx a0 a1 a2) :=
    of_fields _ (bareRaw_fits _ _ _ _ _ _ _ _ _ _ (by decide) (by decide) (by decide) (specCode_lt a2) (by decide) (by decide) a1.isLt (by decide) (by decide)) rfl
theorem call (a0 : Guard) (a1 : Word) : Statement (.call a0 a1) :=
    of_fields _ (bareRaw_fits _ _ _ _ _ _ _ _ _ _ (by decide) (by decide) (by decide) (by decide) (by decide) (by decide) (by decide) a1.isLt (by decide)) rfl
theorem ret (a0 : Guard) : Statement (.ret a0) :=
    of_fields _ (bareRaw_fits _ _ _ _ _ _ _ _ _ _ (by decide) (by decide) (by decide) (by decide) (by decide) (by decide) (by decide) (by decide) (by decide)) rfl
theorem loop (a0 : Guard) (a1 : Fin 8) (a2 : Word) : Statement (.loop a0 a1 a2) :=
    of_fields _ (bareRaw_fits _ _ _ _ _ _ _ _ _ _ (by decide) (by decide) (by have := a1.isLt; omega) (by decide) (by decide) (by decide) (by decide) a2.isLt (by decide)) rfl
theorem next (a0 : Guard) (a1 : Fin 8) (a2 : Word) : Statement (.next a0 a1 a2) :=
    of_fields _ (bareRaw_fits _ _ _ _ _ _ _ _ _ _ (by decide) (by decide) (by have := a1.isLt; omega) (by decide) (by decide) (by decide) (by decide) a2.isLt (by decide)) rfl
theorem meet (a0 : Guard) (a1 : Word) : Statement (.meet a0 a1) :=
    of_fields _ (bareRaw_fits _ _ _ _ _ _ _ _ _ _ (by decide) (by decide) (by decide) (by decide) (by decide) (by decide) (by decide) a1.isLt (by decide)) rfl
theorem exit (a0 : Guard) : Statement (.exit a0) :=
    of_fields _ (bareRaw_fits _ _ _ _ _ _ _ _ _ _ (by decide) (by decide) (by decide) (by decide) (by decide) (by decide) (by decide) (by decide) (by decide)) rfl
theorem yield (a0 : Guard) : Statement (.yield a0) :=
    of_fields _ (bareRaw_fits _ _ _ _ _ _ _ _ _ _ (by decide) (by decide) (by decide) (by decide) (by decide) (by decide) (by decide) (by decide) (by decide)) rfl
theorem elect (a0 : Guard) (a1 : Spec) (a2 : Spec) : Statement (.elect a0 a1 a2) :=
    of_fields _ (bareRaw_fits _ _ _ _ _ _ _ _ _ _ (by decide) (by decide) (specCode_lt a1) (specCode_lt a2) (by decide) (by decide) (by decide) (by decide) (by decide)) rfl
theorem trap (a0 : Guard) (a1 : Spec) : Statement (.trap a0 a1) :=
    of_fields _ (bareRaw_fits _ _ _ _ _ _ _ _ _ _ (by decide) (by decide) (by decide) (specCode_lt a1) (by decide) (by decide) (by decide) (by decide) (by decide)) rfl
theorem bkpt (a0 : Guard) : Statement (.bkpt a0) :=
    of_fields _ (bareRaw_fits _ _ _ _ _ _ _ _ _ _ (by decide) (by decide) (by decide) (by decide) (by decide) (by decide) (by decide) (by decide) (by decide)) rfl
theorem bbhint (a0 : Guard) (a1 : Spec) : Statement (.bbhint a0 a1) :=
    of_fields _ (bareRaw_fits _ _ _ _ _ _ _ _ _ _ (by decide) (by decide) (by decide) (specCode_lt a1) (by decide) (by decide) (by decide) (by decide) (by decide)) rfl
theorem time (a0 : Guard) (a1 : Spec) : Statement (.time a0 a1) :=
    of_fields _ (bareRaw_fits _ _ _ _ _ _ _ _ _ _ (by decide) (by decide) (specCode_lt a1) (by decide) (by decide) (by decide) (by decide) (by decide) (by decide)) rfl
theorem cyc (a0 : Guard) (a1 : Spec) : Statement (.cyc a0 a1) :=
    of_fields _ (bareRaw_fits _ _ _ _ _ _ _ _ _ _ (by decide) (by decide) (specCode_lt a1) (by decide) (by decide) (by decide) (by decide) (by decide) (by decide)) rfl
theorem iadd (a0 : Ops) : Statement (.iadd a0) := of_pop _ _ _ rfl rfl
theorem isub (a0 : Ops) : Statement (.isub a0) := of_pop _ _ _ rfl rfl
theorem iadds (a0 : Ops) (a1 : Bool) : Statement (.iadds a0 a1) := of_pop _ _ _ rfl rfl
theorem imul (a0 : Ops) : Statement (.imul a0) := of_pop _ _ _ rfl rfl
theorem imulh (a0 : Ops) (a1 : Bool) : Statement (.imulh a0 a1) := of_pop _ _ _ rfl rfl
theorem imad (a0 : Ops) : Statement (.imad a0) := of_pop _ _ _ rfl rfl
theorem imin (a0 : Ops) (a1 : Bool) : Statement (.imin a0 a1) := of_pop _ _ _ rfl rfl
theorem imax (a0 : Ops) (a1 : Bool) : Statement (.imax a0 a1) := of_pop _ _ _ rfl rfl
theorem iabs (a0 : Ops) : Statement (.iabs a0) := of_pop _ _ _ rfl rfl
theorem idot4 (a0 : Ops) (a1 : Bool) (a2 : Bool) : Statement (.idot4 a0 a1 a2) := of_pop _ _ _ rfl rfl
theorem and (a0 : Ops) : Statement (.and a0) := of_pop _ _ _ rfl rfl
theorem or (a0 : Ops) : Statement (.or a0) := of_pop _ _ _ rfl rfl
theorem xor (a0 : Ops) : Statement (.xor a0) := of_pop _ _ _ rfl rfl
theorem andn (a0 : Ops) : Statement (.andn a0) := of_pop _ _ _ rfl rfl
theorem not (a0 : Ops) : Statement (.not a0) := of_pop _ _ _ rfl rfl
theorem shl (a0 : Ops) : Statement (.shl a0) := of_pop _ _ _ rfl rfl
theorem shr (a0 : Ops) : Statement (.shr a0) := of_pop _ _ _ rfl rfl
theorem sha (a0 : Ops) : Statement (.sha a0) := of_pop _ _ _ rfl rfl
theorem rot (a0 : Ops) : Statement (.rot a0) := of_pop _ _ _ rfl rfl
theorem bfx (a0 : Ops) (a1 : Bool) : Statement (.bfx a0 a1) := of_pop _ _ _ rfl rfl
theorem bfi (a0 : Ops) : Statement (.bfi a0) := of_pop _ _ _ rfl rfl
theorem popc (a0 : Ops) : Statement (.popc a0) := of_pop _ _ _ rfl rfl
theorem clz (a0 : Ops) : Statement (.clz a0) := of_pop _ _ _ rfl rfl
theorem brev (a0 : Ops) : Statement (.brev a0) := of_pop _ _ _ rfl rfl
theorem iset (a0 : Ops) (a1 : Cmp) (a2 : Bool) : Statement (.iset a0 a1 a2) := of_pop _ _ _ rfl rfl
theorem sel (a0 : Ops) : Statement (.sel a0) := of_pop _ _ _ rfl rfl
theorem mov (a0 : Ops) : Statement (.mov a0) := of_pop _ _ _ rfl rfl
theorem movi (a0 : Guard) (a1 : Spec) (a2 : Word) : Statement (.movi a0 a1 a2) :=
    of_fields _ (bareRaw_fits _ _ _ _ _ _ _ _ _ _ (by decide) (by decide) (specCode_lt a1) (by decide) (by decide) (by decide) (by decide) a2.isLt (by decide)) rfl
theorem pset (a0 : Ops) : Statement (.pset a0) := of_fields _ (opsRaw_fits _ _ _ (by decide) (by decide)) rfl
theorem lea (a0 : Ops) : Statement (.lea a0) := of_pop _ _ _ rfl rfl
theorem iadd64 (a0 : Ops) : Statement (.iadd64 a0) := of_fields _ (opsRaw_fits _ _ _ (by decide) (by decide)) rfl
theorem isub64 (a0 : Ops) : Statement (.isub64 a0) := of_fields _ (opsRaw_fits _ _ _ (by decide) (by decide)) rfl
theorem imad64 (a0 : Ops) : Statement (.imad64 a0) := of_fields _ (opsRaw_fits _ _ _ (by decide) (by decide)) rfl
theorem shl64 (a0 : Ops) : Statement (.shl64 a0) := of_fields _ (opsRaw_fits _ _ _ (by decide) (by decide)) rfl
theorem shr64 (a0 : Ops) (a1 : Bool) : Statement (.shr64 a0 a1) := of_fields _ (opsRaw_fits _ _ _ (by decide) (by have := bitNat_le a1; omega)) rfl
theorem iset64 (a0 : Ops) (a1 : Cmp) (a2 : Bool) : Statement (.iset64 a0 a1 a2) :=
    of_fields _ (opsRaw_fits _ _ _ (by decide) (by have := cmpCode_lt a1; have := bitNat_le a2; omega)) rfl
theorem gadd (a0 : Ops) : Statement (.gadd a0) := of_fields _ (opsRaw_fits _ _ _ (by decide) (by decide)) rfl
theorem gsub (a0 : Ops) : Statement (.gsub a0) := of_fields _ (opsRaw_fits _ _ _ (by decide) (by decide)) rfl
theorem gmul (a0 : Ops) : Statement (.gmul a0) := of_fields _ (opsRaw_fits _ _ _ (by decide) (by decide)) rfl
theorem gmad (a0 : Ops) : Statement (.gmad a0) := of_fields _ (opsRaw_fits _ _ _ (by decide) (by decide)) rfl
theorem gand (a0 : Ops) : Statement (.gand a0) := of_fields _ (opsRaw_fits _ _ _ (by decide) (by decide)) rfl
theorem gor (a0 : Ops) : Statement (.gor a0) := of_fields _ (opsRaw_fits _ _ _ (by decide) (by decide)) rfl
theorem gxor (a0 : Ops) : Statement (.gxor a0) := of_fields _ (opsRaw_fits _ _ _ (by decide) (by decide)) rfl
theorem gshl (a0 : Ops) : Statement (.gshl a0) := of_fields _ (opsRaw_fits _ _ _ (by decide) (by decide)) rfl
theorem gshr (a0 : Ops) (a1 : Bool) : Statement (.gshr a0 a1) := of_fields _ (opsRaw_fits _ _ _ (by decide) (by have := bitNat_le a1; omega)) rfl
theorem gmin (a0 : Ops) (a1 : Bool) : Statement (.gmin a0 a1) := of_fields _ (opsRaw_fits _ _ _ (by decide) (by have := bitNat_le a1; omega)) rfl
theorem gmax (a0 : Ops) (a1 : Bool) : Statement (.gmax a0 a1) := of_fields _ (opsRaw_fits _ _ _ (by decide) (by have := bitNat_le a1; omega)) rfl
theorem gset (a0 : Ops) (a1 : Cmp) (a2 : Bool) : Statement (.gset a0 a1 a2) :=
    of_fields _ (opsRaw_fits _ _ _ (by decide) (by have := cmpCode_lt a1; have := bitNat_le a2; omega)) rfl
theorem gsel (a0 : Ops) : Statement (.gsel a0) := of_fields _ (opsRaw_fits _ _ _ (by decide) (by decide)) rfl
theorem gmov (a0 : Ops) : Statement (.gmov a0) := of_fields _ (opsRaw_fits _ _ _ (by decide) (by decide)) rfl
theorem gmovi (a0 : Guard) (a1 : Spec) (a2 : Word) : Statement (.gmovi a0 a1 a2) :=
    of_fields _ (bareRaw_fits _ _ _ _ _ _ _ _ _ _ (by decide) (by decide) (specCode_lt a1) (by decide) (by decide) (by decide) (by decide) a2.isLt (by decide)) rfl
theorem gld (a0 : Ops) : Statement (.gld a0) := of_fields _ (opsRaw_fits _ _ _ (by decide) (by decide)) rfl
theorem gst (a0 : Ops) : Statement (.gst a0) := of_fields _ (opsRaw_fits _ _ _ (by decide) (by decide)) rfl
theorem grd (a0 : Ops) : Statement (.grd a0) := of_fields _ (opsRaw_fits _ _ _ (by decide) (by decide)) rfl
theorem fadd (a0 : Ops) (a1 : Rnd) (a2 : Bool) : Statement (.fadd a0 a1 a2) := of_pop _ _ _ rfl rfl
theorem fsub (a0 : Ops) (a1 : Rnd) (a2 : Bool) : Statement (.fsub a0 a1 a2) := of_pop _ _ _ rfl rfl
theorem fmul (a0 : Ops) (a1 : Rnd) (a2 : Bool) : Statement (.fmul a0 a1 a2) := of_pop _ _ _ rfl rfl
theorem ffma (a0 : Ops) (a1 : Rnd) (a2 : Bool) : Statement (.ffma a0 a1 a2) := of_pop _ _ _ rfl rfl
theorem fmin (a0 : Ops) (a1 : Bool) (a2 : Bool) : Statement (.fmin a0 a1 a2) := of_pop _ _ _ rfl rfl
theorem fmax (a0 : Ops) (a1 : Bool) (a2 : Bool) : Statement (.fmax a0 a1 a2) := of_pop _ _ _ rfl rfl
theorem fset (a0 : Ops) (a1 : FCmp) (a2 : Bool) : Statement (.fset a0 a1 a2) := of_pop _ _ _ rfl rfl
theorem fclass (a0 : Ops) : Statement (.fclass a0) := of_pop _ _ _ rfl rfl
theorem frnd (a0 : Ops) (a1 : Rnd) (a2 : Bool) : Statement (.frnd a0 a1 a2) := of_pop _ _ _ rfl rfl
theorem fscale (a0 : Ops) (a1 : Rnd) (a2 : Bool) : Statement (.fscale a0 a1 a2) := of_pop _ _ _ rfl rfl
theorem dadd (a0 : Ops) (a1 : Rnd) (a2 : Bool) : Statement (.dadd a0 a1 a2) :=
    of_fields _ (opsRaw_fits _ _ _ (by decide) (by have := rndCode_lt a1; have := bitNat_le a2; omega)) rfl
theorem dmul (a0 : Ops) (a1 : Rnd) (a2 : Bool) : Statement (.dmul a0 a1 a2) :=
    of_fields _ (opsRaw_fits _ _ _ (by decide) (by have := rndCode_lt a1; have := bitNat_le a2; omega)) rfl
theorem dfma (a0 : Ops) (a1 : Rnd) (a2 : Bool) : Statement (.dfma a0 a1 a2) :=
    of_fields _ (opsRaw_fits _ _ _ (by decide) (by have := rndCode_lt a1; have := bitNat_le a2; omega)) rfl
theorem dmin (a0 : Ops) (a1 : Bool) (a2 : Bool) : Statement (.dmin a0 a1 a2) :=
    of_fields _ (opsRaw_fits _ _ _ (by decide) (by have := bitNat_le a1; have := bitNat_le a2; omega)) rfl
theorem dmax (a0 : Ops) (a1 : Bool) (a2 : Bool) : Statement (.dmax a0 a1 a2) :=
    of_fields _ (opsRaw_fits _ _ _ (by decide) (by have := bitNat_le a1; have := bitNat_le a2; omega)) rfl
theorem dset (a0 : Ops) (a1 : FCmp) (a2 : Bool) : Statement (.dset a0 a1 a2) :=
    of_fields _ (opsRaw_fits _ _ _ (by decide) (by have := fcmpCode_lt a1; have := bitNat_le a2; omega)) rfl
theorem hadd2 (a0 : Ops) (a1 : Bool) (a2 : Rnd) (a3 : Bool) : Statement (.hadd2 a0 a1 a2 a3) := of_pop _ _ _ rfl rfl
theorem hmul2 (a0 : Ops) (a1 : Bool) (a2 : Rnd) (a3 : Bool) : Statement (.hmul2 a0 a1 a2 a3) := of_pop _ _ _ rfl rfl
theorem hfma2 (a0 : Ops) (a1 : Bool) (a2 : Rnd) (a3 : Bool) : Statement (.hfma2 a0 a1 a2 a3) := of_pop _ _ _ rfl rfl
theorem hmin2 (a0 : Ops) (a1 : Bool) (a2 : Bool) (a3 : Bool) : Statement (.hmin2 a0 a1 a2 a3) := of_pop _ _ _ rfl rfl
theorem hmax2 (a0 : Ops) (a1 : Bool) (a2 : Bool) (a3 : Bool) : Statement (.hmax2 a0 a1 a2 a3) := of_pop _ _ _ rfl rfl
theorem fdot2 (a0 : Ops) (a1 : Bool) (a2 : Rnd) (a3 : Bool) : Statement (.fdot2 a0 a1 a2 a3) := of_pop _ _ _ rfl rfl
theorem ndot4 (a0 : Guard) (a1 : Spec) (a2 : Spec) (a3 : Spec) (a4 : Spec) (a5 : Word) (a6 : Rnd) (a7 : Bool) : Statement (.ndot4 a0 a1 a2 a3 a4 a5 a6 a7) :=
    of_fields _ (bareRaw_fits _ _ _ _ _ _ _ _ _ _ (by decide) (by decide) (specCode_lt a1) (specCode_lt a2) (specCode_lt a3) (specCode_lt a4) (by have := rndCode_lt a6; have := bitNat_le a7; omega) a5.isLt (by decide)) rfl
theorem cvt (a0 : Ops) (a1 : Ty) (a2 : Ty) (a3 : Bool) (a4 : Bool) (a5 : Rnd) : Statement (.cvt a0 a1 a2 a3 a4 a5) := of_pop _ _ _ rfl rfl
theorem cvtn (a0 : Ops) (a1 : Bool) (a2 : Bool) (a3 : Rnd) : Statement (.cvtn a0 a1 a2 a3) := of_pop _ _ _ rfl rfl
theorem cvtw (a0 : Ops) (a1 : Ty) (a2 : Ty) (a3 : Bool) (a4 : Bool) (a5 : Rnd) : Statement (.cvtw a0 a1 a2 a3 a4 a5) := of_pop _ _ _ rfl rfl
theorem pack (a0 : Ops) (a1 : Esz) (a2 : Bool) : Statement (.pack a0 a1 a2) := of_pop _ _ _ rfl rfl
theorem unpack (a0 : Ops) (a1 : Esz) : Statement (.unpack a0 a1) := of_pop _ _ _ rfl rfl
theorem rcp (a0 : Ops) (a1 : Bool) : Statement (.rcp a0 a1) := of_fields _ (opsRaw_fits _ _ _ (by decide) (by have := bitNat_le a1; omega)) rfl
theorem rsq (a0 : Ops) (a1 : Bool) : Statement (.rsq a0 a1) := of_fields _ (opsRaw_fits _ _ _ (by decide) (by have := bitNat_le a1; omega)) rfl
theorem sqrt (a0 : Ops) (a1 : Bool) : Statement (.sqrt a0 a1) := of_fields _ (opsRaw_fits _ _ _ (by decide) (by have := bitNat_le a1; omega)) rfl
theorem exp2 (a0 : Ops) (a1 : Bool) : Statement (.exp2 a0 a1) := of_fields _ (opsRaw_fits _ _ _ (by decide) (by have := bitNat_le a1; omega)) rfl
theorem log2 (a0 : Ops) (a1 : Bool) : Statement (.log2 a0 a1) := of_fields _ (opsRaw_fits _ _ _ (by decide) (by have := bitNat_le a1; omega)) rfl
theorem sin (a0 : Ops) (a1 : Bool) : Statement (.sin a0 a1) := of_fields _ (opsRaw_fits _ _ _ (by decide) (by have := bitNat_le a1; omega)) rfl
theorem cos (a0 : Ops) (a1 : Bool) : Statement (.cos a0 a1) := of_fields _ (opsRaw_fits _ _ _ (by decide) (by have := bitNat_le a1; omega)) rfl
theorem tanh (a0 : Ops) (a1 : Bool) : Statement (.tanh a0 a1) := of_fields _ (opsRaw_fits _ _ _ (by decide) (by have := bitNat_le a1; omega)) rfl
theorem shfl (a0 : Ops) (a1 : ShflMode) : Statement (.shfl a0 a1) :=
    of_fields _ (opsRaw_fits _ _ _ (by decide) (by have := shflCode_lt a1; omega)) rfl
theorem vote (a0 : Guard) (a1 : Spec) (a2 : Fin 8) (a3 : VoteMode) : Statement (.vote a0 a1 a2 a3) :=
    of_fields _ (bareRaw_fits _ _ _ _ _ _ _ _ _ _ (by decide) (by decide) (specCode_lt a1) (by have := a2.isLt; omega) (by decide) (by decide) (by have := voteCode_lt a3; omega) (by decide) (by decide)) rfl
theorem match_ (a0 : Ops) (a1 : MatchMode) : Statement (.match_ a0 a1) :=
    of_fields _ (opsRaw_fits _ _ _ (by decide) (by have := matchCode_lt a1; omega)) rfl
theorem reduce (a0 : Ops) (a1 : Rop) : Statement (.reduce a0 a1) := of_fields _ (opsRaw_fits _ _ _ (by decide) (by have := ropCode_lt a1; omega)) rfl
theorem scan (a0 : Ops) (a1 : Rop) (a2 : Bool) : Statement (.scan a0 a1 a2) :=
    of_fields _ (opsRaw_fits _ _ _ (by decide) (by have := ropCode_lt a1; have := bitNat_le a2; omega)) rfl
theorem hist (a0 : Ops) : Statement (.hist a0) := of_fields _ (opsRaw_fits _ _ _ (by decide) (by decide)) rfl
theorem merge (a0 : Ops) : Statement (.merge a0) := of_fields _ (opsRaw_fits _ _ _ (by decide) (by decide)) rfl
theorem bar (a0 : Guard) (a1 : Fin 16) (a2 : Spec) : Statement (.bar a0 a1 a2) :=
    of_fields _ (bareRaw_fits _ _ _ _ _ _ _ _ _ _ (by decide) (by decide) (by decide) (specCode_lt a2) (by decide) (by decide) (by have := a1.isLt; omega) (by decide) (by decide)) rfl
theorem arrive (a0 : Guard) (a1 : Fin 16) (a2 : Spec) : Statement (.arrive a0 a1 a2) :=
    of_fields _ (bareRaw_fits _ _ _ _ _ _ _ _ _ _ (by decide) (by decide) (by decide) (specCode_lt a2) (by decide) (by decide) (by have := a1.isLt; omega) (by decide) (by decide)) rfl
theorem waitbar (a0 : Guard) (a1 : Fin 16) : Statement (.waitbar a0 a1) :=
    of_fields _ (bareRaw_fits _ _ _ _ _ _ _ _ _ _ (by decide) (by decide) (by decide) (by decide) (by decide) (by decide) (by have := a1.isLt; omega) (by decide) (by decide)) rfl
theorem ld (a0 : Ops) (a1 : Size) (a2 : Cb) : Statement (.ld a0 a1 a2) :=
    of_fields _ (opsRaw_fits _ _ _ (by decide) (by have := sizeCode_lt a1; have := cbCode_lt a2; omega)) rfl
theorem st (a0 : Ops) (a1 : Size) (a2 : Cb) : Statement (.st a0 a1 a2) :=
    of_fields _ (opsRaw_fits _ _ _ (by decide) (by have := sizeCode_lt a1; have := cbCode_lt a2; omega)) rfl
theorem atom (a0 : Ops) (a1 : Aop) (a2 : Cb) : Statement (.atom a0 a1 a2) :=
    of_fields _ (opsRaw_fits _ _ _ (by decide) (by have := aopCode_lt a1; have := cbCode_lt a2; omega)) rfl
theorem acas (a0 : Ops) (a1 : Cb) : Statement (.acas a0 a1) := of_fields _ (opsRaw_fits _ _ _ (by decide) (by have := cbCode_lt a1; omega)) rfl
theorem rld (a0 : Ops) (a1 : Size) : Statement (.rld a0 a1) := of_fields _ (opsRaw_fits _ _ _ (by decide) (by have := sizeCode_lt a1; omega)) rfl
theorem rst (a0 : Ops) (a1 : Size) : Statement (.rst a0 a1) := of_fields _ (opsRaw_fits _ _ _ (by decide) (by have := sizeCode_lt a1; omega)) rfl
theorem ratom (a0 : Ops) (a1 : Aop) : Statement (.ratom a0 a1) := of_fields _ (opsRaw_fits _ _ _ (by decide) (by have := aopCode_lt a1; omega)) rfl
theorem old (a0 : Ops) (a1 : Size) : Statement (.old a0 a1) := of_fields _ (opsRaw_fits _ _ _ (by decide) (by have := sizeCode_lt a1; omega)) rfl
theorem ost (a0 : Ops) (a1 : Size) : Statement (.ost a0 a1) := of_fields _ (opsRaw_fits _ _ _ (by decide) (by have := sizeCode_lt a1; omega)) rfl
theorem fence (a0 : Guard) (a1 : Scope) : Statement (.fence a0 a1) :=
    of_fields _ (bareRaw_fits _ _ _ _ _ _ _ _ _ _ (by decide) (by decide) (by decide) (by decide) (by decide) (by decide) (by have := scopeCode_lt a1; omega) (by decide) (by decide)) rfl
theorem rsv (a0 : Guard) (a1 : Spec) (a2 : Spec) : Statement (.rsv a0 a1 a2) :=
    of_fields _ (bareRaw_fits _ _ _ _ _ _ _ _ _ _ (by decide) (by decide) (by decide) (specCode_lt a1) (specCode_lt a2) (by decide) (by decide) (by decide) (by decide)) rfl
theorem rls (a0 : Guard) (a1 : Spec) : Statement (.rls a0 a1) :=
    of_fields _ (bareRaw_fits _ _ _ _ _ _ _ _ _ _ (by decide) (by decide) (by decide) (specCode_lt a1) (by decide) (by decide) (by decide) (by decide) (by decide)) rfl
theorem opfence (a0 : Guard) : Statement (.opfence a0) :=
    of_fields _ (bareRaw_fits _ _ _ _ _ _ _ _ _ _ (by decide) (by decide) (by decide) (by decide) (by decide) (by decide) (by decide) (by decide) (by decide)) rfl
theorem mma (a0 : Guard) (a1 : Spec) (a2 : Spec) (a3 : Spec) (a4 : Fin 1536) (a5 : MmaExt) : Statement (.mma a0 a1 a2 a3 a4 a5) :=
    of_fields _ (bareRaw_fits _ _ _ _ _ _ _ _ _ _ (by decide) (by decide) (specCode_lt a1) (specCode_lt a2) (specCode_lt a3) (by have := a4.isLt; omega) (by decide) (by decide) (mma_ext a5)) rfl
theorem mmaw (a0 : Guard) : Statement (.mmaw a0) :=
    of_fields _ (bareRaw_fits _ _ _ _ _ _ _ _ _ _ (by decide) (by decide) (by decide) (by decide) (by decide) (by decide) (by decide) (by decide) (by decide)) rfl
theorem tmov (a0 : Guard) (a1 : Spec) (a2 : Spec) (a3 : BitVec 5) : Statement (.tmov a0 a1 a2 a3) :=
    of_fields _ (bareRaw_fits _ _ _ _ _ _ _ _ _ _ (by decide) (by decide) (specCode_lt a1) (specCode_lt a2) (by decide) (by decide) a3.isLt (by decide) (by decide)) rfl
theorem tset (a0 : Guard) (a1 : Spec) (a2 : Spec) (a3 : BitVec 5) : Statement (.tset a0 a1 a2 a3) :=
    of_fields _ (bareRaw_fits _ _ _ _ _ _ _ _ _ _ (by decide) (by decide) (specCode_lt a1) (specCode_lt a2) (by decide) (by decide) a3.isLt (by decide) (by decide)) rfl
theorem tzero (a0 : Guard) (a1 : Spec) : Statement (.tzero a0 a1) :=
    of_fields _ (bareRaw_fits _ _ _ _ _ _ _ _ _ _ (by decide) (by decide) (specCode_lt a1) (by decide) (by decide) (by decide) (by decide) (by decide) (by decide)) rfl
theorem drain (a0 : Guard) (a1 : Spec) (a2 : Spec) (a3 : Spec) (a4 : DrainExt) : Statement (.drain a0 a1 a2 a3 a4) :=
    of_fields _ (bareRaw_fits _ _ _ _ _ _ _ _ _ _ (by decide) (by decide) (by decide) (specCode_lt a1) (specCode_lt a2) (specCode_lt a3) (by decide) (by decide) (drain_ext a4)) rfl
theorem drainw (a0 : Guard) : Statement (.drainw a0) :=
    of_fields _ (bareRaw_fits _ _ _ _ _ _ _ _ _ _ (by decide) (by decide) (by decide) (by decide) (by decide) (by decide) (by decide) (by decide) (by decide)) rfl
theorem dpld (a0 : Guard) (a1 : Spec) (a2 : Spec) : Statement (.dpld a0 a1 a2) :=
    of_fields _ (bareRaw_fits _ _ _ _ _ _ _ _ _ _ (by decide) (by decide) (by decide) (specCode_lt a1) (specCode_lt a2) (by decide) (by decide) (by decide) (by decide)) rfl
theorem copy (a0 : Guard) (a1 : Spec) (a2 : Spec) (a3 : Fin 128) (a4 : Spec) (a5 : CopyExt) : Statement (.copy a0 a1 a2 a3 a4 a5) :=
    of_fields _ (bareRaw_fits _ _ _ _ _ _ _ _ _ _ (by decide) (by decide) (specCode_lt a1) (specCode_lt a2) (by have := a3.isLt; omega) (specCode_lt a4) (by decide) (by decide) (copy_ext a5)) rfl
theorem waitc (a0 : Guard) (a1 : Spec) (a2 : Spec) (a3 : Word) : Statement (.waitc a0 a1 a2 a3) :=
    of_fields _ (bareRaw_fits _ _ _ _ _ _ _ _ _ _ (by decide) (by decide) (by decide) (specCode_lt a1) (specCode_lt a2) (by decide) (by decide) a3.isLt (by decide)) rfl
theorem cntset (a0 : Guard) (a1 : Spec) (a2 : Spec) : Statement (.cntset a0 a1 a2) :=
    of_fields _ (bareRaw_fits _ _ _ _ _ _ _ _ _ _ (by decide) (by decide) (by decide) (specCode_lt a1) (specCode_lt a2) (by decide) (by decide) (by decide) (by decide)) rfl
theorem fetch (a0 : Guard) (a1 : Fin 128) : Statement (.fetch a0 a1) :=
    of_fields _ (bareRaw_fits _ _ _ _ _ _ _ _ _ _ (by decide) (by decide) (by have := a1.isLt; omega) (by decide) (by decide) (by decide) (by decide) (by decide) (by decide)) rfl
theorem fatom (a0 : Guard) (a1 : Spec) (a2 : Fin 128) (a3 : Spec) (a4 : Spec) (a5 : FatomExt) : Statement (.fatom a0 a1 a2 a3 a4 a5) :=
    of_fields _ (bareRaw_fits _ _ _ _ _ _ _ _ _ _ (by decide) (by decide) (specCode_lt a1) (by have := a2.isLt; omega) (specCode_lt a3) (specCode_lt a4) (by decide) (by decide) (fatom_ext a5)) rfl
theorem sread (a0 : Guard) (a1 : Spec) (a2 : BitVec 11) : Statement (.sread a0 a1 a2) :=
    of_fields _ (bareRaw_fits _ _ _ _ _ _ _ _ _ _ (by decide) (by decide) (specCode_lt a1) a2.isLt (by decide) (by decide) (by decide) (by decide) (by decide)) rfl
theorem swrite (a0 : Guard) (a1 : BitVec 11) (a2 : Spec) : Statement (.swrite a0 a1 a2) :=
    of_fields _ (bareRaw_fits _ _ _ _ _ _ _ _ _ _ (by decide) (by decide) (by decide) a1.isLt (specCode_lt a2) (by decide) (by decide) (by decide) (by decide)) rfl
theorem rett (a0 : Guard) (a1 : Spec) (a2 : RettAct) : Statement (.rett a0 a1 a2) :=
    of_fields _ (bareRaw_fits _ _ _ _ _ _ _ _ _ _ (by decide) (by decide) (by decide) (specCode_lt a1) (by have := rettCode_lt a2; omega) (by decide) (by decide) (by decide) (by decide)) rfl
theorem pairedWord (a0 : PairSlot) (a1 : PairSlot) : Statement (.pairedWord a0 a1) := pair_fits a0 a1
theorem resultWriteback (a0 : Nat) (a1 : Nat) (a2 : Nat) : Statement (.resultWriteback a0 a1 a2) := of_fields _ event_fits rfl
theorem teamStart (a0 : Nat) (a1 : Nat) : Statement (.teamStart a0 a1) := of_fields _ event_fits rfl
theorem teamStep (a0 : Nat) (a1 : Nat) : Statement (.teamStep a0 a1) := of_fields _ event_fits rfl
theorem teamRetire (a0 : Nat) (a1 : Nat) : Statement (.teamRetire a0 a1) := of_fields _ event_fits rfl
theorem barrierWaveRelease (a0 : Nat) (a1 : Nat) : Statement (.barrierWaveRelease a0 a1) := of_fields _ event_fits rfl
theorem barrierDeadlock (a0 : Nat) (a1 : Nat) : Statement (.barrierDeadlock a0 a1) := of_fields _ event_fits rfl
theorem waitcSatisfied (a0 : Nat) (a1 : Nat) (a2 : Nat) : Statement (.waitcSatisfied a0 a1 a2) := of_fields _ event_fits rfl
theorem waitcTimeout (a0 : Nat) (a1 : Nat) (a2 : Nat) : Statement (.waitcTimeout a0 a1 a2) := of_fields _ event_fits rfl
theorem cntsetWrite (a0 : Nat) (a1 : Nat) (a2 : Nat) : Statement (.cntsetWrite a0 a1 a2) := of_fields _ event_fits rfl
theorem fenceComplete (a0 : Nat) (a1 : Nat) (a2 : Nat) : Statement (.fenceComplete a0 a1 a2) := of_fields _ event_fits rfl
theorem remoteAccessEntry (a0 : Nat) (a1 : Nat) : Statement (.remoteAccessEntry a0 a1) := of_fields _ event_fits rfl
theorem remoteResultReady (a0 : Nat) (a1 : Nat) : Statement (.remoteResultReady a0 a1) := of_fields _ event_fits rfl
theorem rsvEntryUsable (a0 : Nat) (a1 : Nat) (a2 : Nat) : Statement (.rsvEntryUsable a0 a1 a2) := of_fields _ event_fits rfl
theorem mmaGatherDone (a0 : Nat) (a1 : Nat) : Statement (.mmaGatherDone a0 a1) := of_fields _ event_fits rfl
theorem mmaCaptureStart (a0 : Nat) (a1 : Nat) : Statement (.mmaCaptureStart a0 a1) := of_fields _ event_fits rfl
theorem mmaCaptureEnd (a0 : Nat) (a1 : Nat) : Statement (.mmaCaptureEnd a0 a1) := of_fields _ event_fits rfl
theorem mmaRetire (a0 : Nat) (a1 : Nat) : Statement (.mmaRetire a0 a1) := of_fields _ event_fits rfl
theorem mmawComplete (a0 : Nat) (a1 : Nat) (a2 : Nat) : Statement (.mmawComplete a0 a1 a2) := of_fields _ event_fits rfl
theorem tmovRead (a0 : Nat) (a1 : Nat) (a2 : Nat) : Statement (.tmovRead a0 a1 a2) := of_fields _ event_fits rfl
theorem tsetWrite (a0 : Nat) (a1 : Nat) (a2 : Nat) : Statement (.tsetWrite a0 a1 a2) := of_fields _ event_fits rfl
theorem drainHalfStart (a0 : Nat) (a1 : Nat) (a2 : Nat) : Statement (.drainHalfStart a0 a1 a2) := of_fields _ event_fits rfl
theorem drainRowCommit (a0 : Nat) (a1 : Nat) (a2 : Nat) (a3 : Nat) : Statement (.drainRowCommit a0 a1 a2 a3) := of_fields _ event_fits rfl
theorem drainwComplete (a0 : Nat) (a1 : Nat) (a2 : Nat) : Statement (.drainwComplete a0 a1 a2) := of_fields _ event_fits rfl
theorem dpldSlotWrite (a0 : Nat) (a1 : Nat) (a2 : Nat) : Statement (.dpldSlotWrite a0 a1 a2) := of_fields _ event_fits rfl
theorem stagingElement (a0 : Nat) (a1 : Nat) : Statement (.stagingElement a0 a1) := of_fields _ event_fits rfl
theorem stagingComplete (a0 : Nat) (a1 : Nat) : Statement (.stagingComplete a0 a1) := of_fields _ event_fits rfl
theorem writebackElement (a0 : Nat) (a1 : Nat) : Statement (.writebackElement a0 a1) := of_fields _ event_fits rfl
theorem writebackComplete (a0 : Nat) (a1 : Nat) : Statement (.writebackComplete a0 a1) := of_fields _ event_fits rfl
theorem copyElement (a0 : Nat) : Statement (.copyElement a0) := of_fields _ event_fits rfl
theorem copyComplete (a0 : Nat) : Statement (.copyComplete a0) := of_fields _ event_fits rfl
theorem pageWalkComplete (a0 : Nat) (a1 : Nat) : Statement (.pageWalkComplete a0 a1) := of_fields _ event_fits rfl
theorem commandLogCheck (a0 : Nat) (a1 : Nat) : Statement (.commandLogCheck a0 a1) := of_fields _ event_fits rfl
theorem commandLogEntryRetry (a0 : Nat) : Statement (.commandLogEntryRetry a0) := of_fields _ event_fits rfl
theorem migrationBack (a0 : Nat) (a1 : Nat) (a2 : BitVec 32) : Statement (.migrationBack a0 a1 a2) := of_fields _ event_fits rfl
theorem migrationComplete (a0 : Nat) : Statement (.migrationComplete a0) := of_fields _ event_fits rfl
theorem writeArrive (a0 : Nat) (a1 : Nat) : Statement (.writeArrive a0 a1) := of_fields _ event_fits rfl
theorem writeApply (a0 : Nat) (a1 : Nat) : Statement (.writeApply a0 a1) := of_fields _ event_fits rfl
theorem fatomHomePerform (a0 : Nat) : Statement (.fatomHomePerform a0) := of_fields _ event_fits rfl
theorem fatomOldValueReturn (a0 : Nat) : Statement (.fatomOldValueReturn a0) := of_fields _ event_fits rfl
theorem queueSlotMapDeferred (a0 : Nat) : Statement (.queueSlotMapDeferred a0) := of_fields _ event_fits rfl
theorem queueIdleTimeout (a0 : Nat) : Statement (.queueIdleTimeout a0) := of_fields _ event_fits rfl
theorem quote (a0 : Nat) : Statement (.quote a0) := of_fields _ event_fits rfl
theorem accept (a0 : Nat) : Statement (.accept a0) := of_fields _ event_fits rfl
theorem decline (a0 : Nat) : Statement (.decline a0) := of_fields _ event_fits rfl
theorem launch (a0 : Nat) : Statement (.launch a0) := of_fields _ event_fits rfl
theorem mark (a0 : Nat) : Statement (.mark a0) := of_fields _ event_fits rfl
theorem markPost (a0 : Nat) : Statement (.markPost a0) := of_fields _ event_fits rfl
theorem badcmd (a0 : Nat) : Statement (.badcmd a0) := of_fields _ event_fits rfl
theorem gridStart (a0 : Nat) : Statement (.gridStart a0) := of_fields _ event_fits rfl
theorem completionRecord (a0 : Nat) : Statement (.completionRecord a0) := of_fields _ event_fits rfl
theorem eventRecordDeferred (a0 : Nat) : Statement (.eventRecordDeferred a0) := of_fields _ event_fits rfl
theorem eventInterruptCount (a0 : Nat) : Statement (.eventInterruptCount a0) := of_fields _ event_fits rfl
theorem eventInterruptTimer (a0 : Nat) : Statement (.eventInterruptTimer a0) := of_fields _ event_fits rfl
theorem timeSliceEnd (a0 : Nat) : Statement (.timeSliceEnd a0) := of_fields _ event_fits rfl
theorem forcedSaveStart (a0 : Nat) : Statement (.forcedSaveStart a0) := of_fields _ event_fits rfl
theorem forcedSaveComplete (a0 : Nat) : Statement (.forcedSaveComplete a0) := of_fields _ event_fits rfl
theorem forcedSaveTimeout (a0 : Nat) : Statement (.forcedSaveTimeout a0) := of_fields _ event_fits rfl
theorem contextRestore (a0 : Nat) : Statement (.contextRestore a0) := of_fields _ event_fits rfl
theorem trapRecordClaim (a0 : Nat) : Statement (.trapRecordClaim a0) := of_fields _ event_fits rfl
theorem workEntryTimeout (a0 : Nat) (a1 : Nat) : Statement (.workEntryTimeout a0 a1) := of_fields _ event_fits rfl
theorem predictionStart (a0 : Nat) : Statement (.predictionStart a0) := of_fields _ event_fits rfl
theorem predictionRevalidate (a0 : Nat) : Statement (.predictionRevalidate a0) := of_fields _ event_fits rfl
theorem predictionClaim (a0 : Nat) : Statement (.predictionClaim a0) := of_fields _ event_fits rfl
theorem predictionHoldExpiry (a0 : Nat) : Statement (.predictionHoldExpiry a0) := of_fields _ event_fits rfl
theorem flitSend (a0 : Nat) : Statement (.flitSend a0) := of_fields _ event_fits rfl
theorem laneRepair (a0 : Nat) (a1 : Nat) : Statement (.laneRepair a0 a1) := of_fields _ event_fits rfl
theorem laneRepairDone (a0 : Nat) : Statement (.laneRepairDone a0) := of_fields _ event_fits rfl
theorem portRetrainDone (a0 : Nat) : Statement (.portRetrainDone a0) := of_fields _ event_fits rfl
theorem laneShed (a0 : Nat) : Statement (.laneShed a0) := of_fields _ event_fits rfl
theorem laneRegain (a0 : Nat) : Statement (.laneRegain a0) := of_fields _ event_fits rfl
theorem peerUnreachableTimeout (a0 : Nat) : Statement (.peerUnreachableTimeout a0) := of_fields _ event_fits rfl
theorem governorSample (a0 : Nat) : Statement (.governorSample a0) := of_fields _ event_fits rfl
theorem voltageSlewDone (a0 : Nat) : Statement (.voltageSlewDone a0) := of_fields _ event_fits rfl
theorem frequencySwitchDone (a0 : Nat) : Statement (.frequencySwitchDone a0) := of_fields _ event_fits rfl
theorem droopWindowEnd (a0 : Nat) : Statement (.droopWindowEnd a0) := of_fields _ event_fits rfl
theorem throttleStopEnd (a0 : Nat) : Statement (.throttleStopEnd a0) := of_fields _ event_fits rfl
theorem throttleHoldEnd (a0 : Nat) : Statement (.throttleHoldEnd a0) := of_fields _ event_fits rfl
theorem diePowerOff (a0 : Nat) : Statement (.diePowerOff a0) := of_fields _ event_fits rfl
theorem droopAlarm (a0 : Nat) : Statement (.droopAlarm a0) := of_fields _ event_fits rfl
theorem currentSample (a0 : List Nat) : Statement (.currentSample a0) := of_fields _ event_fits rfl
theorem sensorSample (a0 : Nat) (a1 : List (BitVec 16)) : Statement (.sensorSample a0 a1) := of_fields _ event_fits rfl
theorem hbmTempSample (a0 : Nat) (a1 : Nat) (a2 : Byte) : Statement (.hbmTempSample a0 a1 a2) := of_fields _ event_fits rfl
theorem powerControlSample (a0 : BitVec 16) : Statement (.powerControlSample a0) := of_fields _ event_fits rfl
theorem hbmEcntGather (a0 : Nat) (a1 : Nat) (a2 : List Nat) (a3 : Nat) : Statement (.hbmEcntGather a0 a1 a2 a3) := of_fields _ event_fits rfl
theorem triggerOpen (a0 : Nat) (a1 : Nat) : Statement (.triggerOpen a0 a1) := of_fields _ event_fits rfl
theorem triggerClose (a0 : Nat) (a1 : Nat) : Statement (.triggerClose a0 a1) := of_fields _ event_fits rfl
theorem agentTicketDraw (a0 : Nat) (a1 : Nat) : Statement (.agentTicketDraw a0 a1) := of_fields _ event_fits rfl
theorem migrationToTier (a0 : Nat) (a1 : Nat) (a2 : BitVec 32) : Statement (.migrationToTier a0 a1 a2) := of_fields _ event_fits rfl
theorem doorbellSignalStore (a0 : Nat) (a1 : Nat) (a2 : DWord) : Statement (.doorbellSignalStore a0 a1 a2) := of_fields _ event_fits rfl
theorem teamMigrate (a0 : Nat) (a1 : Nat) (a2 : Nat) : Statement (.teamMigrate a0 a1 a2) := of_fields _ event_fits rfl
theorem viCtxctlStop (a0 : Nat) : Statement (.viCtxctlStop a0) := of_fields _ event_fits rfl
theorem viCtxctlResume (a0 : Nat) : Statement (.viCtxctlResume a0) := of_fields _ event_fits rfl
theorem viCtxctlReset (a0 : Nat) : Statement (.viCtxctlReset a0) := of_fields _ event_fits rfl
theorem viQtableWrite (a0 : Nat) (a1 : Nat) (a2 : DWord) : Statement (.viQtableWrite a0 a1 a2) := of_fields _ event_fits rfl
theorem viRootWrite (a0 : Nat) (a1 : DWord) : Statement (.viRootWrite a0 a1) := of_fields _ event_fits rfl
theorem viViolClear (a0 : Nat) : Statement (.viViolClear a0) := of_fields _ event_fits rfl
theorem hostWrite (a0 : Nat) (a1 : Nat) (a2 : List Byte) : Statement (.hostWrite a0 a1 a2) := of_fields _ event_fits rfl
theorem hostRead (a0 : Nat) (a1 : HostAddr) (a2 : Nat) : Statement (.hostRead a0 a1 a2) := of_fields _ event_fits rfl
theorem secKeydataWrite (a0 : Nat) (a1 : List Byte) : Statement (.secKeydataWrite a0 a1) := of_fields _ event_fits rfl
theorem viFlr (a0 : Nat) : Statement (.viFlr a0) := of_fields _ event_fits rfl
theorem attestRequest (a0 : Nat) (a1 : DWord) : Statement (.attestRequest a0 a1) := of_fields _ event_fits rfl
theorem debugUnlockRequest (a0 : DWord) : Statement (.debugUnlockRequest a0) := of_fields _ event_fits rfl
theorem flyCtlWrite (a0 : DWord) : Statement (.flyCtlWrite a0) := of_fields _ event_fits rfl
theorem flitDataReceive (a0 : Nat) (a1 : Flit) : Statement (.flitDataReceive a0 a1) := of_fields _ event_fits rfl
theorem flitAckReceive (a0 : Nat) (a1 : BitVec 12) : Statement (.flitAckReceive a0 a1) := of_fields _ event_fits rfl
theorem flitReplayRequestReceive (a0 : Nat) (a1 : BitVec 12) : Statement (.flitReplayRequestReceive a0 a1) := of_fields _ event_fits rfl
theorem clDvfsWrite (a0 : Nat) (a1 : DWord) : Statement (.clDvfsWrite a0 a1) := of_fields _ event_fits rfl
theorem clSlopeWrite (a0 : Nat) (a1 : DWord) : Statement (.clSlopeWrite a0 a1) := of_fields _ event_fits rfl
theorem drpThreshWrite (a0 : Nat) (a1 : DWord) : Statement (.drpThreshWrite a0 a1) := of_fields _ event_fits rfl
theorem scrubErrorFound (a0 : Nat) (a1 : Nat) (a2 : Bool) : Statement (.scrubErrorFound a0 a1 a2) := of_fields _ event_fits rfl
theorem triggerArm (a0 : Nat) (a1 : Nat) (a2 : DWord) : Statement (.triggerArm a0 a1 a2) := of_fields _ event_fits rfl
theorem dbgStopTickWrite (a0 : DWord) : Statement (.dbgStopTickWrite a0) := of_fields _ event_fits rfl
theorem registerWrite (a0 : Reg) (a1 : DWord) : Statement (.registerWrite a0 a1) := of_fields _ event_fits rfl
theorem hostCompletion (a0 : Nat) (a1 : Bool) (a2 : Nat) : Statement (.hostCompletion a0 a1 a2) := of_fields _ event_fits rfl
theorem laneControlFlitReceive (a0 : Nat) (a1 : Nat) : Statement (.laneControlFlitReceive a0 a1) := of_fields _ event_fits rfl
theorem attestReport : Statement (.attestReport) := of_fields _ event_fits rfl
theorem dbgchalRead : Statement (.dbgchalRead) := of_fields _ event_fits rfl
theorem debugUnlockDone : Statement (.debugUnlockDone) := of_fields _ event_fits rfl
theorem recoveryVerify : Statement (.recoveryVerify) := of_fields _ event_fits rfl
theorem recoveryVerifyDone : Statement (.recoveryVerifyDone) := of_fields _ event_fits rfl
theorem recoveryRun : Statement (.recoveryRun) := of_fields _ event_fits rfl
theorem recoveryCommit : Statement (.recoveryCommit) := of_fields _ event_fits rfl
theorem recoveryCommitDone : Statement (.recoveryCommitDone) := of_fields _ event_fits rfl
theorem recoveryRaise : Statement (.recoveryRaise) := of_fields _ event_fits rfl
theorem deviceReset : Statement (.deviceReset) := of_fields _ event_fits rfl
theorem powerLoss : Statement (.powerLoss) := of_fields _ event_fits rfl
theorem flyCtlApply : Statement (.flyCtlApply) := of_fields _ event_fits rfl
theorem deviceClockStop : Statement (.deviceClockStop) := of_fields _ event_fits rfl

end Sys2Proof.Laws.Encoding
end

