-- ==== Sys2Proof/Laws/Traps.lean ====
section
/-! SUPPORT. What taking a trap does, said once: the lanes, the record, the count of the grid, and what stays. -/
namespace Sys2Proof.Machine

open Sys2Proof.Safety

/-- Lanes that trap for one cause trap with its code. -/
theorem firstCode_const (ls : List Nat) (c : Cause) (h : ls ≠ []) : firstCode (ls.map fun l => ⟨l, c⟩) = some c.code := by
  induction ls with
  | nil => exact absurd rfl h
  | cons a ls ih =>
    cases ls with
    | nil => rfl
    | cons b ls =>
      have := ih (by simp)
      simp only [List.map_cons] at this ⊢
      rw [firstCode, this]; simp

theorem foldl_or_const (ls : List Nat) (c : Cause) (m : Nat) (h : ls ≠ []) :
    (ls.map fun l => (⟨l, c⟩ : LaneTrap)).foldl (fun m t => m ||| t.cause.detail) m = m ||| c.detail := by
  induction ls generalizing m with
  | nil => exact absurd rfl h
  | cons a ls ih =>
    cases ls with
    | nil => rfl
    | cons b ls =>
      simp only [List.map_cons, List.foldl_cons] at ih ⊢
      rw [ih _ (by simp), Nat.or_assoc, Nat.or_self]

/-- The record of one cause (R383). -/
theorem trapRecord_const (s : State) (k tx g pc : Nat) (ls : List Nat) (c : Cause) (h : ls ≠ []) :
    trapRecord s k tx g pc (ls.map fun l => ⟨l, c⟩) c.code =
      { tick := tick s, aux := c.aux, mask := maskOf ls, pc := pc, detail := c.detail, code := c.code, pslot := c.pslot, group := g,
        teamx := tx, core := k, qid := match teamGrid s (getTeam s k tx) with | some gr => gr.qid | none => 0,
        islot := (getGroup s k tx g).slot } := by
  have hf : (ls.map fun l => (⟨l, c⟩ : LaneTrap)).filter (fun t => t.cause.code == c.code) = ls.map fun l => ⟨l, c⟩ := by
    apply List.filter_eq_self.mpr; intro t ht
    obtain ⟨l, _, rfl⟩ := List.mem_map.mp ht; simp
  have hh : ((ls.map fun l => (⟨l, c⟩ : LaneTrap)).head?.getD ⟨0, ⟨c.code, 0, 0, 0⟩⟩).cause = c := by
    cases ls with
    | nil => exact absurd rfl h
    | cons a ls => rfl
  simp only [trapRecord, hf, hh, List.map_map, foldl_or_const ls c 0 h, Nat.zero_or, ite_self]
  congr 1
  simp [Function.comp_def]

theorem getCore_modGrid (s : State) (i : Nat) (f : Grid → Grid) (k : Nat) : getCore (modGrid s i f) k = getCore s k := by
  unfold modGrid; split <;> rfl

theorem getGrid_modGrid (s : State) (i : Nat) (f : Grid → Grid) (j : Nat) :
    getGrid (modGrid s i f) j = if i = j then (getGrid s i).map f else getGrid s j := by
  unfold modGrid
  split
  · next g e =>
    by_cases h : i = j
    · subst h; simp [getGrid]; simp [getGrid] at e; simp [e]
    · simp [getGrid, Tbl.get_set, h]
  · next e =>
    by_cases h : i = j
    · subst h; simp [e]
    · simp [h]

theorem modGrid_rest (s : State) (i : Nat) (f : Grid → Grid) : { modGrid s i f with grids := s.grids } = s := by
  unfold modGrid; split <;> rfl

/-- The record in its place, before its grid counts it. -/
def tabled (s : State) (k i : Nat) (r : TrapRec) : State := modCore s k fun c => { c with traps := Tbl.set c.traps i (some r) }

/-- Writing a record takes the lowest free place of its core's trap table (R384), and counts it for its grid (R349, R387). -/
theorem pushTrap_eq (s : State) (k i : Nat) (r : TrapRec) (h : freeTrap (getCore s k) = some i) :
    pushTrap s k r = if r.teamx = 2 then tabled s k i r
      else modGrid (tabled s k i r) (getTeam (tabled s k i r) k r.teamx).grid fun g =>
        { g with traps := g.traps ++ [r], tcount := g.tcount + 1, events := trapEvents (tabled s k i r) r.code g.descr.debug g.events } := by
  unfold pushTrap; rw [h]; rfl

theorem pushTrap_full (s : State) (k : Nat) (r : TrapRec) (h : freeTrap (getCore s k) = none) : pushTrap s k r = s := by
  unfold pushTrap; rw [h]

theorem getCore_pushTrap (s : State) (k i : Nat) (r : TrapRec) (h : freeTrap (getCore s k) = some i) (j : Nat) :
    getCore (pushTrap s k r) j =
      if k = j then { getCore s k with traps := Tbl.set (getCore s k).traps i (some r) } else getCore s j := by
  rw [pushTrap_eq s k i r h]
  split
  · exact getCore_modCore _ _ _ _
  · rw [getCore_modGrid]; exact getCore_modCore _ _ _ _

theorem pushTrap_rest (s : State) (k : Nat) (r : TrapRec) : { pushTrap s k r with cores := s.cores, grids := s.grids } = s := by
  cases h : freeTrap (getCore s k) with
  | none => rw [pushTrap_full s k r h]
  | some i =>
    rw [pushTrap_eq s k i r h]
    split
    · rfl
    · have := modGrid_rest (tabled s k i r) (getTeam (tabled s k i r) k r.teamx).grid fun g =>
        { g with traps := g.traps ++ [r], tcount := g.tcount + 1, events := trapEvents (tabled s k i r) r.code g.descr.debug g.events }
      exact congrArg (fun x : State => { x with cores := s.cores, grids := s.grids }) this

theorem teamAt_pushTrap (s : State) (k : Nat) (r : TrapRec) (j tx : Nat) :
    teamAt (getCore (pushTrap s k r) j) tx = teamAt (getCore s j) tx := by
  cases h : freeTrap (getCore s k) with
  | none => rw [pushTrap_full s k r h]
  | some i =>
    rw [getCore_pushTrap s k i r h]
    split
    · next e => subst e; rfl
    · rfl

theorem getTeam_pushTrap (s : State) (k : Nat) (r : TrapRec) (j tx : Nat) : getTeam (pushTrap s k r) j tx = getTeam s j tx := by
  simp only [getTeam, teamAt_pushTrap]

theorem getGroup_pushTrap (s : State) (k : Nat) (r : TrapRec) (j tx g : Nat) :
    getGroup (pushTrap s k r) j tx g = getGroup s j tx g := by simp [getGroup, getTeam_pushTrap]

/-- How a grid counts a record (R349, R387). -/
theorem getGrid_pushTrap (s : State) (k i : Nat) (r : TrapRec) (h : freeTrap (getCore s k) = some i) (ht : r.teamx ≠ 2) (j : Nat) :
    getGrid (pushTrap s k r) j = if (getTeam s k r.teamx).grid = j
      then (getGrid s j).map fun g => { g with traps := g.traps ++ [r], tcount := g.tcount + 1, events := trapEvents s r.code g.descr.debug g.events }
      else getGrid s j := by
  have hg : (getTeam (tabled s k i r) k r.teamx).grid = (getTeam s k r.teamx).grid := by
    simp only [getTeam, tabled, getCore_modCore_same]; rfl
  rw [pushTrap_eq s k i r h, if_neg ht, getGrid_modGrid, hg]
  split
  · next e => rw [e]; rfl
  · rfl

/-- `trapActive` for one cause: its three updates in order. -/
theorem trapActive_eq (s : State) (act : List Nat) (c : Cause) (h : act ≠ []) :
    trapActive s act c = pushTrap (onGroup (onGroup s fun grp => setPc grp ((subLanes s).filter fun l => !act.contains l) (curNext s))
        fun grp => modLanes grp act fun _ ln => { ln with st := .parked }) s.cur.core
      { tick := tick s, aux := c.aux, mask := maskOf act, pc := s.cur.pc, detail := c.detail, code := c.code, pslot := c.pslot,
        group := s.cur.group, teamx := s.cur.tx, core := s.cur.core,
        qid := match teamGrid s (curTeam s) with | some gr => gr.qid | none => 0, islot := (curGroup s).slot } := by
  have hm : (act.map fun l => (⟨l, c⟩ : LaneTrap)).map (·.lane) = act := by simp [Function.comp_def]
  simp only [trapActive, trapAll, trapLanes, trapAt, onGroup_cur, firstCode_const act c h, hm, trapRecord_const _ _ _ _ _ act c h]
  have e1 : ∀ f, (getTeam (onGroup s f) s.cur.core s.cur.tx).grid = (curTeam s).grid := by
    intro f; simp [onGroup, modGroup, modGroupIn, curTeam]
  have e2 : ∀ ls n, (getGroup (onGroup s fun grp => setPc grp ls n) s.cur.core s.cur.tx s.cur.group).slot = (curGroup s).slot := by
    intro ls n; simp [onGroup, setPc, modLanes, curGroup]
  simp only [teamGrid, e1, e2]
  rfl

end Sys2Proof.Machine
end

