-- ==== Sys2Proof/Laws/Vector.lean ====
section
/-! SUPPORT. What a vector value word does, said once: where no lane traps, and lane by lane where some do. -/
namespace Sys2Proof.Machine

open Sys2Proof.Safety

theorem cur_of_device {s t : State} (h : SameDevice s t) : t.cur = s.cur := by
  have := congrArg State.cur h; simpa [SameDevice] using this

theorem curGroup_of_device {s t : State} (h : SameDevice s t) :
    curGroup t = getGroup t s.cur.core s.cur.tx s.cur.group := by simp [curGroup, cur_of_device h]

/-- Everything a vector value word does where it raises no enabled flag and no FORMAT: active lanes receive their results, the other issuing lanes
idle, and all of them go on to the next PC. -/
theorem valueWord_spec (toPred : Bool) (g : Guard) (d : Spec) (f : Group → Nat → Option (LVal × Flags)) (s : State)
    (x : Nat → LVal) (fl : Nat → Flags)
    (hf : ∀ l ∈ active s g, f (curGroup s) l = some (x l, fl l))
    (he : ∀ l ∈ active s g, Flags.enabled (curFpen s) (fl l) = 0) :
    OnlyLanes s.cur.core s.cur.tx s.cur.group (subLanes s) s (valueWord toPred g d f s) ∧
      (∀ l ∈ active s g, laneAt (curGroup (valueWord toPred g d f s)) l =
        { deliver { laneAt (curGroup s) l with flags := Flags.accrue (laneAt (curGroup s) l).flags (fl l) } d (x l) with pc := curNext s }) ∧
      (∀ l ∈ subLanes s, l ∉ active s g → laneAt (curGroup (valueWord toPred g d f s)) l =
        { idleLane toPred d (laneAt (curGroup s) l) with pc := curNext s }) := by
  have step : ∀ l ∈ subLanes s, ∃ ln, valueLane toPred (guardIn g (laneAt (curGroup s) l)) d (curFpen s) (f (curGroup s) l)
      (laneAt (curGroup s) l) = .ok ln := by
    intro l hl
    by_cases h : guardIn g (laneAt (curGroup s) l) = true
    · have ha : l ∈ active s g := (mem_active s g l).mpr ⟨hl, h⟩
      simp only [valueLane, h, hf l ha, he l ha, ↓reduceIte]; exact ⟨_, rfl⟩
    · simp only [valueLane, h, Bool.false_eq_true, ↓reduceIte]; exact ⟨_, rfl⟩
  have hw := laneWord_spec s (fun grp l ln => valueLane toPred (guardIn g ln) d (curFpen s) (f grp l) ln) step
  have hc : curGroup (valueWord toPred g d f s) = getGroup (valueWord toPred g d f s) s.cur.core s.cur.tx s.cur.group :=
    curGroup_of_device hw.1.group.team.core.device
  refine ⟨hw.1, fun l ha => ?_, fun l hl ha => ?_⟩
  · obtain ⟨hl, h⟩ := (mem_active s g l).mp ha
    rw [hc]
    exact hw.2 l hl _ (by simp only [valueLane, h, hf l ha, he l ha, ↓reduceIte])
  · rw [mem_active] at ha
    rw [hc]
    refine hw.2 l hl _ ?_
    have h : guardIn g (laneAt (curGroup s) l) = false := by
      cases e : guardIn g (laneAt (curGroup s) l)
      · rfl
      · exact absurd ⟨hl, e⟩ ha
    simp only [valueLane, h, Bool.false_eq_true, ↓reduceIte]

end Sys2Proof.Machine
end

