-- ==== Sys2Proof/Tests/Slice0.lean ====
section
/-! SUPPORT. The model's own tests: ill-formed terms that WellFormed refuses, words written out from the encoding tables, single steps, and for the hypotheses of each
statement a state that meets them. -/
set_option Elab.async false

namespace Sys2Proof.Tests

open Sys2Proof.Machine Sys2Proof.Claims Sys2Proof.Safety

/-! ## Well-formedness: one ill-formed term for each check -/

/-- A word of three register fields under p0. -/
def ops (d a b c : Spec) : Ops := { g := Guard.always, d := d, a := .sp a, b := .sp b, c := c }

theorem test_wf_accepts : (Instr.iadd (ops (.v 8) (.v 9) (.imm 12) .zero)).wf = true := by decide
/-- Check 5: a BRA target that is no multiple of 4, and one beyond 24 bits (R77). -/
theorem test_wf_target : (Instr.bra Guard.always 62).wf = false ∧ (Instr.bra Guard.always 0x1000000).wf = false := by decide
/-- Check 5: CVTN with SAT needs F = 0 (R73). -/
theorem test_wf_cvtn : (Instr.cvtn (ops (.v 0) (.v 1) (.v 2) .zero) true true .rn).wf = false := by decide
/-- Check 5: OFF16 without .OB (R80). -/
theorem test_wf_copy_offset :
    (Instr.copy Guard.always (.g 2) (.g 1) 8 .zero { store := false, lk := false, cn := 1, sys := false, off16 := 1 }).wf = false := by decide
/-- Check 6: an unused field that is not the zero code, a c destination, an odd pair, and a v source of a uniform word (R61, R66, R119). -/
theorem test_wf_positions :
    (Instr.iadd (ops (.v 8) (.v 9) (.imm 12) (.v 0))).wf = false ∧ (Instr.iadd (ops (.c 0) (.v 9) (.imm 12) .zero)).wf = false ∧
    (Instr.iadd64 (ops (.v 3) (.v 4) (.v 6) .zero)).wf = false ∧ (Instr.gadd (ops (.g 0) (.v 4) (.g 6) .zero)).wf = false := by decide
/-- Check 7: the guard ¬p0, and a LOOP bound of 0 or above 16,777,216 (R62, R77). -/
theorem test_wf_values :
    (Instr.nop ⟨true, 0⟩).wf = false ∧ (Instr.loop Guard.always 0 0).wf = false ∧ (Instr.loop Guard.always 0 16777217).wf = false ∧
    (Instr.loop Guard.always 0 16777216).wf = true := by decide
/-- Check 8: two slots of a pair that write the same register (R83). -/
theorem test_wf_pair :
    (Instr.pairedWord ⟨.iadd, ops (.v 8) (.v 9) (.v 10) .zero⟩ ⟨.fmul .rn false, ops (.v 8) (.v 1) (.v 2) .zero⟩).wf = false := by decide
/-! ## Words written out from the encoding tables (R62 to R66, R69, R71 to R84): one for each instruction -/

abbrev g0 : Guard := Guard.always
def o (g : Guard) (d : Spec) (a b : Src) (c : Spec) : Ops := { g := g, d := d, a := a, b := b, c := c }

/-- Every word of a list decodes to its instruction. -/
def decodes (ws : List (Nat × Nat × Instr)) : Bool := ws.all fun e => decide (decodeTableWord e.1 e.2.1 = some e.2.2)

theorem test_words_control : decodes [
    (64, 0x07FFFFFFFFFF8000, .nop g0),
    (96, 0x0000004007FFFFFFFFFF9805, .bra ⟨false, 3⟩ 0x40),
    (64, 0x0FFFFFE00FFF8008, .brx g0 1 (.v 3)),
    (96, 0x00FFFFFC07FFFFFFFFFF800D, .call g0 0xFFFFFC),
    (64, 0x07FFFFFFFFFFC810, .ret ⟨true, 1⟩),
    (96, 0x0000000407FFFFFFFF848015, .loop g0 1 4),
    (96, 0x0000002C07FFFFFFFF848819, .next ⟨false, 1⟩ 1 0x2C),
    (96, 0x0000008007FFFFFFFFFF801D, .meet g0 0x80),
    (64, 0x07FFFFFFFFFF8020, .exit g0),
    (64, 0x07FFFFFFFFFF8024, .yield g0),
    (64, 0x07FFFFFA17810028, .elect g0 (.p 2) (.g 5)),
    (64, 0x07FFFFFE1FFF802C, .trap g0 (.imm 7)),
    (64, 0x07FFFFFFFFFF8030, .bkpt g0),
    (64, 0x07FFFFFBFFFF8034, .bbhint g0 (.g 127)),
    (64, 0x07FFFFFFFC030038, .time g0 (.v 6)),
    (64, 0x07FFFFFFFF44003C, .cyc g0 (.g 8))] = true := by decide +kernel

theorem test_words_integer : decodes [
    (64, 0x07FFF18024040100, .iadd (o g0 (.v 8) (.sp (.v 9)) (.sp (.imm 12)) .zero)),
    (64, 0x07FFDFF88EFF8104, .isub (o g0 (.v 1535) (.sp (.y 3)) (.sp (.g 127)) .zero)),
    (64, 0x0FFF00C014020108, .iadds (o g0 (.v 4) (.sp (.v 5)) (.sp (.v 6)) .zero) true),
    (96, 0x89ABCDEF07FFFFE00B0F810D, .imul (o g0 (.o 31) (.sp (.v 2)) (.imm32 0x89ABCDEF) .zero)),
    (64, 0x0FFF004004020110, .imulh (o g0 (.v 4) (.sp (.v 1)) (.sp (.v 2)) .zero) true),
    (64, 0x070F004004020114, .imad (o g0 (.v 4) (.sp (.v 1)) (.sp (.v 2)) (.c 7))),
    (64, 0x07FFF7E004020118, .imin (o g0 (.v 4) (.sp (.v 1)) (.sp (.imm 63)) .zero) false),
    (64, 0x0FFFF4000402011C, .imax (o g0 (.v 4) (.sp (.v 1)) (.sp (.imm 32)) .zero) true),
    (64, 0x07FFFFF804020120, .iabs (o g0 (.v 4) (.sp (.o 1)) (.sp .zero) .zero)),
    (64, 0x1003004004020124, .idot4 (o g0 (.v 4) (.sp (.v 1)) (.sp (.v 2)) (.v 3)) false true),
    (64, 0x07FF004004020128, .and (o g0 (.v 4) (.sp (.v 1)) (.sp (.v 2)) .zero)),
    (64, 0x07FF00400402012C, .or (o g0 (.v 4) (.sp (.v 1)) (.sp (.v 2)) .zero)),
    (64, 0x07FF004004020130, .xor (o g0 (.v 4) (.sp (.v 1)) (.sp (.v 2)) .zero)),
    (64, 0x07FF004004020134, .andn (o g0 (.v 4) (.sp (.v 1)) (.sp (.v 2)) .zero)),
    (64, 0x07FFFFE004020138, .not (o g0 (.v 4) (.sp (.v 1)) (.sp .zero) .zero)),
    (64, 0x07FFF0A00402013C, .shl (o g0 (.v 4) (.sp (.v 1)) (.sp (.imm 5)) .zero)),
    (64, 0x07FFF0A004020140, .shr (o g0 (.v 4) (.sp (.v 1)) (.sp (.imm 5)) .zero)),
    (64, 0x07FFF0A004020144, .sha (o g0 (.v 4) (.sp (.v 1)) (.sp (.imm 5)) .zero)),
    (64, 0x07FFF0A004020148, .rot (o g0 (.v 4) (.sp (.v 1)) (.sp (.imm 5)) .zero)),
    (96, 0x000008050FFFFFE00402014D, .bfx (o g0 (.v 4) (.sp (.v 1)) (.imm32 0x805) .zero) true),
    (64, 0x0003004004020150, .bfi (o g0 (.v 4) (.sp (.v 1)) (.sp (.v 2)) (.v 3))),
    (64, 0x07FFFFE004020154, .popc (o g0 (.v 4) (.sp (.v 1)) (.sp .zero) .zero)),
    (64, 0x07FFFFE004020158, .clz (o g0 (.v 4) (.sp (.v 1)) (.sp .zero) .zero)),
    (64, 0x07FFFFE00402015C, .brev (o g0 (.v 4) (.sp (.v 1)) (.sp .zero) .zero)),
    (64, 0x07FFFFE004020168, .mov (o g0 (.v 4) (.sp (.v 1)) (.sp .zero) .zero)),
    (96, 0x0000006427FFFFE017810161, .iset (o g0 (.p 2) (.sp (.v 5)) (.imm32 100) .zero) .lt false),
    (64, 0x0706004004020164, .sel (o g0 (.v 4) (.sp (.v 1)) (.sp (.v 2)) (.p 6))),
    (96, 0xDEADBEEF07FFFFFFFC02016D, .movi g0 (.v 4) 0xDEADBEEF),
    (64, 0x078EE07C0B808170, .pset (o g0 (.p 1) (.sp (.p 2)) (.sp (.p 3)) (.imm 14))),
    (64, 0x0782004004020174, .lea (o g0 (.v 4) (.sp (.v 1)) (.sp (.v 2)) (.imm 2))),
    (64, 0x07FFD04018020178, .iadd64 (o g0 (.v 4) (.sp (.v 6)) (.sp (.g 2)) .zero)),
    (64, 0x07FFF7E01802017C, .isub64 (o g0 (.v 4) (.sp (.v 6)) (.sp (.imm 63)) .zero)),
    (64, 0x000A01001B020180, .imad64 (o g0 (.o 4) (.sp (.v 6)) (.sp (.v 8)) (.v 10))),
    (64, 0x07FF00E018020184, .shl64 (o g0 (.v 4) (.sp (.v 6)) (.sp (.v 7)) .zero)),
    (64, 0x0FFFC42018020188, .shr64 (o g0 (.v 4) (.sp (.v 6)) (.sp (.y 1)) .zero) true),
    (64, 0x5FFF01001B83818C, .iset64 (o g0 (.p 7) (.sp (.v 6)) (.sp (.v 8)) .zero) .ge true)] = true := by decide +kernel

theorem test_words_uniform : decodes [
    (64, 0x07FFF07A07420200, .gadd (o g0 (.g 4) (.sp (.g 1)) (.sp (.imm 3)) .zero)),
    (64, 0x07FFF07A07420204, .gsub (o g0 (.g 4) (.sp (.g 1)) (.sp (.imm 3)) .zero)),
    (64, 0x07FFF07A07420208, .gmul (o g0 (.g 4) (.sp (.g 1)) (.sp (.imm 3)) .zero)),
    (64, 0x07FFF07A07420210, .gand (o g0 (.g 4) (.sp (.g 1)) (.sp (.imm 3)) .zero)),
    (64, 0x07FFF07A07420214, .gor (o g0 (.g 4) (.sp (.g 1)) (.sp (.imm 3)) .zero)),
    (64, 0x07FFF07A07420218, .gxor (o g0 (.g 4) (.sp (.g 1)) (.sp (.imm 3)) .zero)),
    (64, 0x07FFF07A0742021C, .gshl (o g0 (.g 4) (.sp (.g 1)) (.sp (.imm 3)) .zero)),
    (64, 0x0683D05A0742020C, .gmad (o g0 (.g 4) (.sp (.g 1)) (.sp (.g 2)) (.g 3))),
    (64, 0x0FFFD05A07420220, .gshr (o g0 (.g 4) (.sp (.g 1)) (.sp (.g 2)) .zero) true),
    (96, 0x7FFFFFFF07FFFFFA07420225, .gmin (o g0 (.g 4) (.sp (.g 1)) (.imm32 0x7FFFFFFF) .zero) false),
    (64, 0x0FFFD05A07420228, .gmax (o g0 (.g 4) (.sp (.g 1)) (.sp (.g 2)) .zero) true),
    (64, 0x17FFD05A0742022C, .gset (o g0 (.g 4) (.sp (.g 1)) (.sp (.g 2)) .zero) .ne false),
    (64, 0x0683D05A07420230, .gsel (o g0 (.g 4) (.sp (.g 1)) (.sp (.g 2)) (.g 3))),
    (64, 0x07FFFFFBFF420234, .gmov (o g0 (.g 4) (.sp (.g 127)) (.sp .zero) .zero)),
    (96, 0x0000010007FFFFFFFF420239, .gmovi g0 (.g 4) 0x100),
    (64, 0x07FFF09A0742023C, .gld (o g0 (.g 4) (.sp (.g 1)) (.sp (.imm 4)) .zero)),
    (96, 0x000000400683FFFFFFFF8241, .gst (o g0 .zero (.sp .zero) (.imm32 0x40) (.g 3))),
    (64, 0x07FFD0580F420244, .grd (o g0 (.g 4) (.sp (.o 3)) (.sp (.g 2)) .zero))] = true := by decide +kernel

theorem test_words_float : decodes [
    (64, 0x37FF014024040300, .fadd (o g0 (.v 8) (.sp (.v 9)) (.sp (.v 10)) .zero) .rd true),
    (64, 0x1FFF014024040304, .fsub (o g0 (.v 8) (.sp (.v 9)) (.sp (.v 10)) .zero) .ru false),
    (96, 0x3FC0000007FFFFE00C020309, .fmul (o g0 (.v 4) (.sp (.v 3)) (.imm32 0x3FC00000) .zero) .rn false),
    (64, 0x0E20D08024045B0C, .ffma (o ⟨true, 3⟩ (.v 8) (.sp (.v 9)) (.sp (.g 4)) (.y 0)) .rz false),
    (64, 0x0FFF014024040310, .fmin (o g0 (.v 8) (.sp (.v 9)) (.sp (.v 10)) .zero) true false),
    (64, 0x27FF014024040314, .fmax (o g0 (.v 8) (.sp (.v 9)) (.sp (.v 10)) .zero) false true),
    (96, 0x3F00000017FFFFE017810319, .fset (o g0 (.p 2) (.sp (.v 5)) (.imm32 0x3F000000) .zero) .lt false),
    (64, 0x07FFFFE02404031C, .fclass (o g0 (.v 8) (.sp (.v 9)) (.sp .zero) .zero)),
    (64, 0x0FFFFFE024040320, .frnd (o g0 (.v 8) (.sp (.v 9)) (.sp .zero) .zero) .rz false),
    (64, 0x07FF014024040324, .fscale (o g0 (.v 8) (.sp (.v 9)) (.sp (.v 10)) .zero) .rn false),
    (64, 0x17FF018028040328, .dadd (o g0 (.v 8) (.sp (.v 10)) (.sp (.v 12)) .zero) .rd false),
    (64, 0x17FF01802804032C, .dmul (o g0 (.v 8) (.sp (.v 10)) (.sp (.v 12)) .zero) .rd false),
    (64, 0x100E018028040330, .dfma (o g0 (.v 8) (.sp (.v 10)) (.sp (.v 12)) (.v 14)) .rd false),
    (64, 0x0FFF018028040334, .dmin (o g0 (.v 8) (.sp (.v 10)) (.sp (.v 12)) .zero) true false),
    (64, 0x27FF018028040338, .dmax (o g0 (.v 8) (.sp (.v 10)) (.sp (.v 12)) .zero) false true),
    (64, 0x77FF01802B80833C, .dset (o g0 (.p 1) (.sp (.v 10)) (.sp (.v 12)) .zero) .num true),
    (64, 0x4FFF014024040400, .hadd2 (o g0 (.v 8) (.sp (.v 9)) (.sp (.v 10)) .zero) true .rz false),
    (64, 0x4FFF014024040404, .hmul2 (o g0 (.v 8) (.sp (.v 9)) (.sp (.v 10)) .zero) true .rz false),
    (64, 0x480B014024040408, .hfma2 (o g0 (.v 8) (.sp (.v 9)) (.sp (.v 10)) (.v 11)) true .rz false),
    (64, 0x480B014024040414, .fdot2 (o g0 (.v 8) (.sp (.v 9)) (.sp (.v 10)) (.v 11)) true .rz false),
    (64, 0x4FFF01402404040C, .hmin2 (o g0 (.v 8) (.sp (.v 9)) (.sp (.v 10)) .zero) true true false),
    (64, 0x27FF014024040410, .hmax2 (o g0 (.v 8) (.sp (.v 9)) (.sp (.v 10)) .zero) false false true),
    (96, 0x12345678080B014024040419, .ndot4 g0 (.v 8) (.v 9) (.v 10) (.v 11) 0x12345678 .rz false),
    (64, 0x4881FFE02404041C, .cvt (o g0 (.v 8) (.sp (.v 9)) (.sp .zero) .zero) .i16 .f32 true false .rz),
    (64, 0x2FFFD06024040420, .cvtn (o g0 (.v 8) (.sp (.v 9)) (.sp (.g 3)) .zero) true false .rz),
    (64, 0x2086014024040424, .cvtw (o g0 (.v 8) (.sp (.v 9)) (.sp (.v 10)) .zero) .f16 .f32 false true .rn),
    (64, 0x480B014024040428, .pack (o g0 (.v 8) (.sp (.v 9)) (.sp (.v 10)) (.v 11)) .w8 true),
    (64, 0x17FFF0202404042C, .unpack (o g0 (.v 8) (.sp (.v 9)) (.sp (.imm 1)) .zero) .w16),
    (64, 0x27FFFFE024040480, .rcp (o g0 (.v 8) (.sp (.v 9)) (.sp .zero) .zero) true),
    (64, 0x27FFFFE024040484, .rsq (o g0 (.v 8) (.sp (.v 9)) (.sp .zero) .zero) true),
    (64, 0x27FFFFE024040488, .sqrt (o g0 (.v 8) (.sp (.v 9)) (.sp .zero) .zero) true),
    (64, 0x27FFFFE02404048C, .exp2 (o g0 (.v 8) (.sp (.v 9)) (.sp .zero) .zero) true),
    (64, 0x27FFFFE024040490, .log2 (o g0 (.v 8) (.sp (.v 9)) (.sp .zero) .zero) true),
    (64, 0x27FFFFE024040494, .sin (o g0 (.v 8) (.sp (.v 9)) (.sp .zero) .zero) true),
    (64, 0x27FFFFE024040498, .cos (o g0 (.v 8) (.sp (.v 9)) (.sp .zero) .zero) true),
    (64, 0x27FFFFE02404049C, .tanh (o g0 (.v 8) (.sp (.v 9)) (.sp .zero) .zero) true)] = true := by decide +kernel

theorem test_words_group : decodes [
    (64, 0x100B014024040500, .shfl (o g0 (.v 8) (.sp (.v 9)) (.sp (.v 10)) (.v 11)) .rotate),
    (64, 0x2FFFFFFC0F420504, .vote g0 (.g 4) 3 .tally),
    (64, 0x1FFFFFE024040508, .match_ (o g0 (.v 8) (.sp (.v 9)) (.sp .zero) .zero) .whole),
    (64, 0x47FFFFE02742050C, .reduce (o g0 (.g 4) (.sp (.v 9)) (.sp .zero) .zero) .fadd),
    (64, 0x87FFFFFE04018D10, .scan (o ⟨false, 1⟩ (.v 3) (.sp (.imm 1)) (.sp .zero) .zero) .iadd true),
    (64, 0x000B014024040514, .hist (o g0 (.v 8) (.sp (.v 9)) (.sp (.v 10)) (.v 11))),
    (64, 0x07FF014024040518, .merge (o g0 (.v 8) (.sp (.v 9)) (.sp (.v 10)) .zero)),
    (64, 0x1FFFFFFE13FF851C, .bar g0 3 (.imm 4)),
    (64, 0x7FFFFFFA13FF8520, .arrive g0 15 (.g 4)),
    (64, 0x0FFFFFFFFFFF8524, .waitbar g0 1)] = true := by decide +kernel

theorem test_words_memory : decodes [
    (64, 0x97FFF20008020580, .ld (o g0 (.v 4) (.sp (.v 2)) (.sp (.imm 16)) .zero) .w32 .c4),
    (96, 0x00010000B808FFE01BFF8585, .st (o g0 .zero (.sp (.v 6)) (.imm32 0x10000) (.v 8)) .w64 .c32),
    (96, 0x000000382006FFFFFFFF9D89, .atom (o ⟨false, 3⟩ .zero (.sp .zero) (.imm32 0x38) (.v 6)) .min .c1),
    (64, 0x0803F0800802058C, .acas (o g0 (.v 4) (.sp (.v 2)) (.sp (.imm 4)) (.v 3)) .c2),
    (64, 0xC7FFF08008020590, .rld (o g0 (.v 4) (.sp (.v 2)) (.sp (.imm 4)) .zero) .w128),
    (64, 0x0003F0800BFF8594, .rst (o g0 .zero (.sp (.v 2)) (.sp (.imm 4)) (.v 3)) .i8),
    (64, 0xE003FFE008020598, .ratom (o g0 (.v 4) (.sp (.v 2)) (.sp .zero) (.v 3)) .exch),
    (64, 0x67FFFFE00802059C, .old (o g0 (.v 4) (.sp (.v 2)) (.sp .zero) .zero) .n16),
    (64, 0x4003FFE00BFF85A0, .ost (o g0 .zero (.sp (.v 2)) (.sp .zero) (.v 3)) .i16),
    (64, 0x2FFFFFFFFFFF85A4, .fence g0 .dev)] = true := by decide +kernel

theorem test_words_matrix : decodes [
    (64, 0x07FFD05E0FFF8600, .rsv g0 (.imm 3) (.g 2)),
    (64, 0x07FFFFFA0BFF8604, .rls g0 (.g 2)),
    (64, 0x07FFFFFFFFFF8608, .opfence g0),
    (128, 0x00000100400040450014F03E0388860E, .mma g0 (.t 1) (.imm 0) (.imm 1) 20 { bcol := 1, bk := 64, ak := 64, new := true, dprog := some 5 }),
    (64, 0x07FFFFFFFFFF8610, .mmaw g0),
    (64, 0x1FFFFFFC44040614, .tmov g0 (.v 8) (.t 1) 3),
    (64, 0xFFFFFFE027890618, .tset g0 (.t 2) (.v 9) 31),
    (64, 0x07FFFFFFFF41061C, .tzero g0 (.g 2)),
    (128, 0x000000001000200507FFD15C47FF8622, .drain g0 (.t 1) (.g 10) .zero { cpitch := 1, rpitch := 32, keep := false, dprog := 5 }),
    (64, 0x07FFFFFFFFFF8624, .drainw g0),
    (64, 0x07FFD17E17FF8628, .dpld g0 (.imm 5) (.g 11))] = true := by decide +kernel

theorem test_words_engine : decodes [
    (128, 0x00000000000000540683D11A07410682, .copy g0 (.g 2) (.g 1) 8 (.g 3) { store := false, lk := false, cn := 1, sys := false, off16 := 0 }),
    (96, 0x000007D007FFD09A0FFF8685, .waitc g0 (.g 3) (.g 4) 2000),
    (64, 0x07FFF7FA0FFF8688, .cntset g0 (.g 3) (.imm 63)),
    (64, 0x07FFFFFFFF44068C, .fetch g0 8),
    (128, 0x00000000000688D90683D0DA13410692, .fatom g0 (.g 2) 4 (.g 6) (.g 3) { op := .cas, w64 := true, sys := true, cmp := .g 8 }),
    (64, 0x07FFFFE00C020700, .sread g0 (.v 4) 3),
    (64, 0x07FF00A02BFF8704, .swrite g0 10 (.v 5)),
    (64, 0x07FFF01A0BFF8708, .rett g0 (.g 2) .replay)] = true := by decide +kernel

theorem test_words_pair : decodes [
    (128, 0x07FFD0802C0603C1FFC050090100E7C2, .pairedWord ⟨.fadd .rn false, o g0 (.v 8) (.sp (.v 9)) (.sp (.v 10)) .zero⟩ ⟨.fmul .rn false, o g0 (.v 12) (.sp (.v 11)) (.sp (.g 4)) .zero⟩)] = true := by decide +kernel

/-! ## States for the hypotheses of the statements -/

/-- A group whose lanes 0 to 2 hold `x`, `y` and `z` in v1. -/
def grp (x y z : Word) : Group := { lanes := [(0, { v := [(1, x)] }), (1, { v := [(1, y)] }), (2, { v := [(1, z)] })] }

/-- A grid of two groups with a launch of its own choice. -/
def grid (f : Descr → Descr) : Grid :=
  let g := loadedGrid (loadedText 0x07FFFFFFFFFF8000) 0
  { g with descr := f g.descr }

/-- Group 0 of place 0 of core 0 issues a word for lanes 0 to 2. -/
def issue (gr : Group) (tm : Team → Team) (f : Descr → Descr) : State :=
  { cores := [(0, { teams := [(0, some (tm { ngroups := 2, groups := [(0, gr), (1, {})] }))] })], grids := [(0, some (grid f))], cur := { lanes := 7 } }

/-- A plain issue, and one of a launch that enables NV and NX. -/
def plain : State := issue (grp 0 0 0) id id
def enabled (x y z : Word) : State := issue (grp x y z) id fun d => { d with fpen := 0x11 }

/-- A word `op d, v1, b`. -/
def w1 (d b : Spec) : Ops := ops d (.v 1) b .zero

theorem test_hyp_uniform : debugging plain = false ∧ (freeTrap (curCore plain)).isSome ∧ active plain g0 ≠ [] ∧ active plain ⟨false, 1⟩ = [] ∧
    accessCause 4 (curWS plain) 2 = some .misalign ∧ accessCause 4 (curWS plain) (2 ^ 21) = some .bounds ∧
    accessCause 4 (curWS plain) (2 ^ 21 - 4) = none := by decide +kernel

theorem test_hyp_trap : let s := issue (grp 0 0 0) id fun d => { d with debug := true }
    (freeTrap (curCore s)).isSome ∧ debugging s = true ∧ debugging plain = false := by decide +kernel

/-- 1 + 1 and 1 × 1 raise no enabled flag; neither do the F64 and 16-bit zeros nor a conversion of 1. -/
theorem test_hyp_float : let s := enabled 0x3F800000 0x3F800000 0x3F800000
    curFpen s ≠ 0 ∧ (∀ l ∈ active s g0, (FFmt.f32.add .rn false (src s (.sp (.v 1)) l).toNat 0x3F800000).2 &&& (curFpen s).setWidth 6 = 0) ∧
    (∀ l ∈ active s g0, (FFmt.f64.add .rn false (src64 s (.sp (.v 2)) l).toNat 0).2 &&& (curFpen s).setWidth 6 = 0) ∧
    (∀ l ∈ active s g0, (FFmt.bf16.mul .rn false 0x3F80 0x3F80).2 &&& (curFpen s).setWidth 6 = 0) ∧
    (∀ l ∈ active s g0, (cvtBits .f64 .f32 false false .rn (src s (.sp (.v 1)) l).toNat).2 &&& (curFpen s).setWidth 6 = 0) ∧
    (∀ l ∈ active s g0, (sfun .rcp false (src s (.sp (.v 1)) l).toNat).2 &&& (curFpen s).setWidth 6 = 0) := by decide +kernel

theorem test_hyp_finite : isFin32 0x7F7FFFFF ∧ isFin32 0x00000001 ∧ isFin32 0x80000000 := by decide

theorem test_hyp_nan : isNan32 0x7F800001 ∧ isNan32 0xFFFFFFFF ∧ (!isFin32 0x7F800000 && !isNan32 0x7F800000) ∧ value32 (flush32 true 0x807FFFFF) = 0 ∧
    isSig32 0x7FBFFFFF ∧ ¬isSig32 0x7FC00000 := by decide

theorem test_hyp_minmax : let s := enabled 0x7FC00000 0x80000000 0
    ∀ l ∈ active s g0, (if isSig32 (flush32 true (src s (.sp (.v 1)) l)) || isSig32 (flush32 true (src s (.sp .zero) l)) then (16 : Flags) else 0) &&&
      (curFpen s).setWidth 6 = 0 := by decide +kernel

/-- The descriptors of E4M3 and of the 4-bit integer are legal, an exponent width of 7 bits in 4 is not; 448 and −8 are their ends, and 0x7F is the NaN of the
first (R98 to R101). -/
theorem test_hyp_narrow : legalFmt 0x483B9 = true ∧ legalFmt 0x00031 = true ∧ legalFmt 0x0009F = false ∧ narrowVal 0x483B9 0x7E = some (448 * 2 ^ 298) ∧
    narrowVal 0x483B9 0x7F = none ∧ expOf 0x00031 = 0 ∧ (∀ j < 4, narrowVal 0x00031 (elemAt 0x00031 0x8888 j) = some (-8 * 2 ^ 298)) ∧
    active plain g0 = [0, 1, 2] ∧ ((active plain g0).filter fun l => !legalFmt (src plain (.sp (.v 1)) l)) = [0, 1, 2] ∧ (freeTrap (curCore plain)).isSome := by decide +kernel

/-- 1.5 rounds to 2 and to 1, and its negative toward −∞ to −2; infinity and a NaN are no numbers to round (R97). -/
theorem test_hyp_rounds : RoundsTo .rn (value32 0x3FC00000) 149 2 ∧ RoundsTo .rz (value32 0x3FC00000) 149 1 ∧ RoundsTo .rd (value32 0xBFC00000) 149 (-2) ∧
    RoundsTo .ru (value32 0xBFC00000) 149 (-1) ∧ isFin32 (flush32 false 0x3FC00000) ∧ (!isFin32 (flush32 false 0xFF800000) && !isNan32 (flush32 false 0xFF800000)) ∧
    isNan32 (flush32 true 0x7FC00001) ∧ isInt .n16 = true ∧ isInt .f16 = false := by
  simp only [RoundsTo]
  decide +kernel

theorem test_hyp_special : (0x80800000 : Word).msb ∧ !isNan32 0x80800000 ∧ value32 (flush32 true 0x80800000) ≠ 0 ∧ isSub32 0x007FFFFF ∧ isNan32 0x7FC00000 := by decide

/-- Lane 1 adds a signalling NaN, lane 2 adds inexactly. -/
theorem test_hyp_fp : let s := enabled 0 0x7F800001 0x33000000
    (freeTrap (curCore s)).isSome ∧ ((active s g0).filter fun l =>
      (FFmt.f32.add .rn false (src s (.sp (.v 1)) l).toNat 0x3F800000).2 &&& (curFpen s).setWidth 6 != 0) = [1, 2] := by decide +kernel

/-- A sum of lanes that raises no enabled flag, and one that raises NX. -/
theorem test_hyp_reduce : let s := enabled 0x3F800000 0 0x3F800000
    let t := enabled 0x3F800000 0 0x33000000
    (combine .fadd ((active s g0).map fun l => src s (.sp (.v 1)) l)).2 &&& (curFpen s).setWidth 6 = 0 ∧
    (combine .fadd ((active t g0).map fun l => src t (.sp (.v 1)) l)).2 &&& (curFpen t).setWidth 6 ≠ 0 ∧ (freeTrap (curCore t)).isSome := by decide +kernel

/-- The first and the last word of the text are targets; its pad and its end are not. -/
theorem test_hyp_transfer : (freeTrap (curCore plain)).isSome ∧ (let len := 4 * (curText plain).length
    0 < len ∧ ((curText plain).getD 0 0) % 4 ≠ 3 ∧ ((curText plain).getD ((len - 4) / 4) 0) % 4 = 3) ∧
    (∀ x ∈ ((grid id).kernel.tables.getD 31 []), x < 4 * (curText plain).length ∧ ((curText plain).getD (x / 4) 0) % 4 ≠ 3) := by decide +kernel

theorem test_hyp_counter_array : let s := issue (grp 0 0 0) id fun d => { d with bblen := 4096 }
    (freeTrap (curCore s)).isSome ∧ (match curGrid s with | some gr => gr.descr.bblen | none => 0) = 4096 ∧ (curCore s).bbcache.length < 256 := by decide +kernel

/-- One aligned word is one word of one bank; words 0 and 128 are two words of bank 0. -/
theorem test_hyp_conflicts : ConflictWithin 4 1 [64] ∧ ¬ConflictWithin 4 1 [0, 128] := by
  constructor
  · intro ws hn h _
    have : ∀ w ∈ ws, w = 16 := by
      intro w hw
      obtain ⟨a, ha, b, h1, h2, h3⟩ := h w hw
      simp only [List.mem_singleton] at ha
      omega
    match ws, hn, this with
    | [], _, _ => decide
    | [_], _, _ => simp
    | x :: y :: _, hn, this =>
      have h1 := this x (by simp)
      have h2 := this y (by simp)
      subst h1; subst h2
      simp at hn
  · intro h
    have := h [0, 32] (by decide) (by
      intro w hw
      simp only [List.mem_cons, List.not_mem_nil, or_false] at hw
      rcases hw with rfl | rfl
      · exact ⟨0, by decide, 0, by decide, by decide, by decide⟩
      · exact ⟨128, by decide, 128, by decide, by decide, by decide⟩) (by decide)
    exact absurd this (by decide)

theorem test_hyp_scratchpad : debugging plain = false ∧ (freeTrap (curCore plain)).isSome ∧ accessCause 16 (curWS plain) (2 ^ 21 - 16) = none ∧
    accessCause 16 (curWS plain) (2 ^ 21) = some .bounds ∧ accessCause 4 (curWS plain) 2 = some .misalign := by decide +kernel

/-- Lane 0 addresses the last word of the window of the team on core 0 of the cluster; the cluster's core 1 has no team of the grid. -/
theorem test_hyp_remote : let s := issue { lanes := [(0, { v := [(1, 0x1FFFFC)], p := 3 })] } id id
    active s ⟨false, 1⟩ = [0] ∧ (placeOf s (coreInCluster s.cur.core 0) (curTeam s).grid).isSome ∧ (placeOf s (coreInCluster s.cur.core 1) (curTeam s).grid).isNone ∧
    (src s (.sp (.v 1)) 0).extractLsb' 25 7 = 0 ∧ ((src s (.sp (.v 1)) 0).extractLsb' 21 4).toNat = 0 ∧
    ((src s (.sp (.v 1)) 0).extractLsb' 0 21).toNat + 4 = curWS s := by decide +kernel

/-- Lane 0 addresses a core above 11, lane 1 the window of core 0; and both lanes address words of one bank of core 0. -/
def sending (a b : Nat) : State := issue { lanes := [(0, { v := [(1, BitVec.ofNat 32 a)], p := 3 }), (1, { v := [(1, BitVec.ofNat 32 b)], p := 3 })] } id id

theorem test_hyp_remote_fails : let s := sending 0x1800000 128
    let t := sending 0 128
    (freeTrap (curCore s)).isSome ∧ active s ⟨false, 1⟩ = [0, 1] ∧ 11 < ((src s (.sp (.v 1)) 0).extractLsb' 21 4).toNat ∧ ((src s (.sp (.v 1)) 1).extractLsb' 21 4).toNat = 0 ∧
    active t ⟨false, 1⟩ = [0, 1] ∧ (active t ⟨false, 1⟩).map (fun l => ((src t (.sp (.v 1)) l).extractLsb' 0 25).toNat) = [0, 128] := by decide +kernel

/-- A raw reservation of 32 bytes in entry 15. -/
def raw : RsvRec := { fmt := 0, base16 := 4, pitch16 := 0, scl := false, lblk := 0, kind := 3, size16 := 2, doff16 := 0, soff16 := 0, poff16 := 0 }
def reserved : State := issue { lanes := [(0, { v := [(1, 0xF00010)], p := 3 }), (1, { v := [(1, 0xF00014)], p := 3 }), (2, { v := [(1, 0x1000000)] })] }
    (fun t => { t with rsv := [(15, some raw)] }) id

theorem test_hyp_operand_buffer : (freeTrap (curCore reserved)).isSome ∧ 15 < curNR reserved ∧ (curTeam reserved).ctx = none ∧
    Tbl.get none (curTeam reserved).rsv 15 = some raw ∧ raw.check 524288 = none ∧ (active reserved ⟨false, 1⟩ = [0, 1]) := by decide +kernel

/-! ## Barriers, waits and the matrix unit -/

/-- A barrier with one arrival of two, one whose next arrival opens it, and one whose phase has passed. -/
def atBar (a e ph w : Nat) : State := issue { grp 0 0 0 with w := [(15, w)] } (fun t => { t with bars := [(15, ⟨a, e, ph⟩)] }) id

theorem test_hyp_barrier : let s := atBar 1 2 5 0
    let t := atBar 1 3 5 3
    (freeTrap (curCore s)).isSome ∧ s.cur.group < (curTeam s).ngroups ∧ (curGroup s).ended = false ∧ (curGroup s).wait = none ∧ active s g0 ≠ [] ∧
    (usp s (.imm 2)).toNat = 2 ∧ (curTeam s).ngroups = 2 ∧ (bar s 15).e = 2 ∧ (bar s 15).a + 1 = 2 ∧
    (bar plain 15).a + 1 < 2 ∧ (bar t 15).a ≠ 0 ∧ (bar t 15).e ≠ 2 ∧ barRecord t 15 - 1 ≠ (bar t 15).ph ∧ barRecord s 15 = 0 := by decide +kernel

/-- A command that still owes the counter at 64, and one that the group's fence covers. -/
def owed : Issued :=
  { serial := 3, group := 0, mask := 1, wback := false, store := true, done := false, incremented := false, ctr := some 64, owed := 0, writes := [],
    pendingHost := 0, pendingPeer := 0 }

theorem test_hyp_counter : let s := issue (grp 0 0 0) (fun t => { t with issued := [owed], sp := [(64, 1)] }) id
    (freeTrap (curCore s)).isSome ∧ active s g0 ≠ [] ∧ accessCause 4 (curWS s) 64 = none ∧ (spWord s 64).toNat = 1 ∧
    (((curTeam s).issued.filter fun i => i.ctr == some 64 && !i.incremented).map (·.serial) = [3]) ∧
    (((curTeam plain).issued.filter fun i => i.ctr == some 64 && !i.incremented).map (·.serial) = []) ∧
    (∃ i ∈ (curTeam s).issued, i.mask &&& maskOf (active s g0) ≠ 0 ∧ fenceMeets s 0 0 .die i = false) := by decide +kernel

/-- A remote store in flight for lane 0. -/
def sent (target : Nat) (op : RemoteOp) : Remote :=
  { tag := 1, grid := 0, tx := 0, group := 0, target := target, op := op, dst := .zero, lanes := [⟨0, 64, 7, 0⟩], entry := 0, ready := 0, entered := false, results := [] }

theorem test_hyp_fence : let s := { plain with cores := plain.cores.map fun c => (c.1, { c.2 with remotes := [sent 1 (.st .w32)] }) }
    (∃ r ∈ (curCore s).remotes, r.tx = s.cur.tx ∧ r.group = s.cur.group ∧ r.op = .st .w32 ∧ ∃ e ∈ r.lanes, e.lane ∈ active s g0) ∧
    ((curCore plain).remotes = []) ∧ ((curTeam plain).issued = []) := by decide +kernel

/-! ## Reservations, the matrix unit and the engines -/

/-- An issue beside a matrix context. -/
def unit (c : Ctx) (tm : Team → Team) : State := { issue (grp 0 0 0) tm id with pairs := [(0, { c0 := c })] }

/-- An F16 record of 4,096 bytes, whose 64 lines of 32 elements fill it. -/
def half16 : RsvRec := { raw with pitch16 := 4, kind := 1, size16 := 256 }

/-- An MMA on pair 0 and the entry 0, at a stage. -/
def mmaAt (st : MmaSt) : Mma :=
  { seq := 1, group := 0, pair := 0, ridA := 0, ridB := 0, recA := half16, recB := half16, rows := List.replicate 64 0, ak := 0, bk := 0, bcol := 0, k := 32,
    fence := 0, obNo := 0, st := st }

/-- A drain of program 2 on pair 0 that has not started. -/
def drainOf (im : Option DrainImage) : Drain :=
  { seq := 1, group := 0, pc := 0, pair := 0, prog := 2, sb := 0, sc := none, rpitch := 1, cpitch := 1, keep := false, copies := [], image := im }

theorem test_hyp_reservation : let s := unit { mmas := [mmaAt (.gathering 8)], drains := [drainOf none], seq := 1 } fun t => { t with slots := [(2, 1)] }
    (freeTrap (curCore s)).isSome ∧ (∃ d, teamDescr s (curTeam s) = some d ∧ descrNR d = 16 ∧ rangeCause 16 16 (descrWS d) 0 = none ∧
      rangeCause 16 16 (descrWS d) (2 ^ 21) = some .bounds ∧ rangeCause 16 128 (descrWS d) 8 = some .misalign ∧ raw.check (descrWO d) = none ∧
      { raw with size16 := 0 }.check (descrWO d) = some .bounds) ∧ s.cur.tx ≠ 2 ∧
    (∃ m ∈ (curCtx s).mmas, (m.ridA = 0 ∨ m.ridB = 0) ∧ m.captured = false) ∧ ¬(∃ m ∈ (curCtx s).mmas, (m.ridA = 15 ∨ m.ridB = 15) ∧ m.captured = false) ∧
    (∃ e ∈ (curCtx s).drains, e.prog = 2 ∧ e.seq ≤ (curCtx s).seq ∧ e.image = none) ∧ Tbl.get 0 (curTeam s).slots 2 = 1 ∧ Tbl.get 0 (curTeam s).slots 3 = 0 := by
  refine ⟨by decide +kernel, ⟨(grid id).descr, by decide +kernel⟩, by decide +kernel⟩

/-- All pairs are mapped by drains; all are free. -/
def allTaken : Ctx := { drains := (List.range 12).map fun p => { drainOf none with pair := p } }

theorem test_hyp_tile : nameOf plain (.t 7) = some 7 ∧ nameOf plain (.imm 7) = some 7 ∧ nameOf plain (.imm 8) = none := by decide +kernel

theorem test_hyp_pairs : ¬Needs {} 7 true ∧ Needs allTaken 7 false := by
  refine ⟨fun h => h.2 0 (by decide) ⟨by simp only [pairFor]; decide, by simp, by simp, by simp⟩, .inr (by simp only [pairFor]; decide), fun p hp h => ?_⟩
  exact h.2.2.2 { drainOf none with pair := p } (List.mem_map.2 ⟨p, List.mem_range.2 hp, rfl⟩) rfl

/-- A launch whose kernel has charged the dearest pairing (R458). -/
def charged (c : Ctx) : State :=
  let s := unit c fun t => { t with rsv := [(0, some half16), (1, some raw)] }
  { s with grids := [(0, some { grid id with kernel := { (grid id).kernel with mmaCharge := 8200 } })] }

theorem test_hyp_mma : let s := charged {}
    nameOf s (.t 0) = some 0 ∧ (∃ gr, curGrid s = some gr ∧ pairingPj half16 half16 ≤ gr.kernel.mmaCharge) ∧ 1 < curNR s ∧ Tbl.get none (curTeam s).rsv 0 = some half16 ∧
    pairingK half16 half16 = some 32 ∧ 0 % 32 = 0 ∧ (∀ q ∈ (List.range 32).map fun l => (Claims.spec s (.v 1) l).toNat, half16.lineOk q 0 32) ∧
    (∀ q ∈ (List.range 32).map fun j => 32 * 0 + j, half16.lineOk q 0 32) ∧ ((curCtx s).mmas.filter fun m => !m.captured).length < 2 := by
  refine ⟨by decide +kernel, ⟨_, rfl, by decide +kernel⟩, by decide +kernel⟩

theorem test_hyp_mma_checks : let s := charged { mmas := [mmaAt .gathered, mmaAt .gathered] }
    2 ≤ ((curCtx s).mmas.filter fun m => !m.captured).length ∧ raw.kind = 3 ∧ pairingPj half16 half16 = 8200 ∧ 16 % 32 ≠ 0 ∧ half16.lineOk 63 0 32 = true ∧
    half16.lineOk 64 0 32 = false ∧ pairingK half16 { half16 with kind := 2 } = some 32 ∧ pairingK half16 { half16 with kind := 0, fmt := 0x483B9 } = none := by
  decide +kernel

theorem test_hyp_drain : let s := unit { names := [(0, some 3)], mmas := [mmaAt .gathered, { mmaAt (.captured 9) with group := 1 }], drains := [drainOf none], seq := 1 } fun t => { t with slots := [(2, 1)] }
    (freeTrap (curCore s)).isSome ∧ debugging s = false ∧ s.cur.tx ≠ 2 ∧ nameOf s (.t 0) = some 0 ∧ pairFor (curCtx s) 0 = some 3 ∧ pairFor (curCtx s) 1 = none ∧
    entryCopies (curCore s) (curTeam s) (curNR s) 2 none = some [] ∧ entryCopies (curCore s) (curTeam s) (curNR s) 3 none = none ∧
    ¬(∀ m ∈ (curCtx s).mmas, m.group = s.cur.group → m.captured = true) ∧ ¬(∀ d ∈ (curCtx s).drains, (curCtx s).seq < d.seq) ∧
    (∀ m ∈ (curCtx plain).mmas, m.group = 0 → m.captured = true) ∧ (∀ d ∈ (curCtx plain).drains, (curCtx plain).seq < d.seq) ∧
    (usp s (.imm 0)).toNat < 2 ^ 21 ∧ 2 ^ 21 ≤ (usp s (.imm 63)).toNat ∧ (usp s (.imm 15)).toNat ≤ 15 ∧ 15 < (usp s (.imm 16)).toNat := by decide +kernel

/-- A one-dimensional box of 4 words at address 0, as the bytes of its record. -/
def boxBytes4 : List (Nat × Byte) := [(8, 2), (16, 4), (32, 4), (56, 4)]

/-- A FATOM that has just been issued. -/
def anyCmd : Cmd :=
  { serial := 0, tx := 0, group := 0, mask := 1, kind := .fatom .add false 0 0 0 none, ctr := none, sys := false, issued := 0, owed := 0 }

theorem test_hyp_copy : let s := issue (grp 0 0 0) (fun t => { t with sp := boxBytes4 }) id
    let shape := shapeRec (readBytes (curTeam s).sp 0 128)
    let e : CopyExt := { store := false, lk := false, cn := 0, sys := false, off16 := 0 }
    let full : State := { s with cores := s.cores.map fun c => (c.1, { c.2 with copyq := List.replicate 32 anyCmd }) }
    (curGrid s).isSome ∧ copyCheck1 (curWS s) 0 (some 64) = none ∧ copyCheck1 (curWS s) (2 ^ 21) none ≠ none ∧ shape.bs = [4] ∧
    copyCheck2 shape e 64 [0] (some 16) = none ∧ copyCheck2 shape e 64 [0] (some 15) ≠ none ∧ overCharge (grid id) 0 shape = false ∧
    fatomCheck (curWS s) 8 (2 ^ 57 - 8) (some 8) (some 4) = none ∧ fatomCheck (curWS s) 4 (2 ^ 57) none none ≠ none ∧ (curCore s).copyq = [] ∧
    32 ≤ (curCore full).copyq.length := by decide +kernel

/-! ## System words and the paired word -/

/-- The agent of core 0 issues, before a record of a kernel's group. -/
def inTheAgent (r : Option TrapRec) : State :=
  { plain with
    cores := [(0, { teams := [(0, some { ngroups := 1, groups := [(0, grp 0 0 0)] }), (2, some { ngroups := 1, groups := [(0, grp 0 0 0)] })], traps := [(511, r)] })]
    cur := { tx := 2, lanes := 7 } }

/-- A record of lane 1 of the group of place 0. -/
def anyRec : TrapRec :=
  { tick := 0, aux := 0, mask := 2, pc := 0, detail := 0, code := .illegal, pslot := 0, group := 0, teamx := 0, core := 0, qid := 0 }

theorem test_hyp_system : let s := inTheAgent (some anyRec)
    let u := issue { grp 0 0 0 with g := [(3, 511), (4, 512)] } id id
    (freeTrap (curCore s)).isSome ∧ inAgent s = true ∧ Tbl.get none (curCore s).traps 511 = some anyRec ∧ Tbl.get none (curCore s).traps 0 = none ∧
    inAgent plain = false ∧ active s g0 = [0, 1, 2] ∧ (freeTrap (curCore plain)).isSome ∧ anyRec.drain = none ∧ anyRec.teamx ≠ 2 ∧ (usp u (.g 3)).toNat = 511 ∧
    511 < (usp u (.g 4)).toNat := by decide +kernel

/-- The numbers and the destinations of the clauses on SREAD and SWRITE. -/
theorem test_hyp_numbers : IsVector (.v 8) ∧ ¬NotG (.g 3) ∧ (0x100 ≤ 0x3FF ∧ ¬(0x100 ≤ 12)) ∧ (∃ n : BitVec 11, n.toNat = 11 ∧ n.toNat ≠ 10) ∧ ∃ n : BitVec 11, 11 < n.toNat ∧ n.toNat < 0x100 :=
  ⟨by simp [IsVector], by simp [NotG], by decide, ⟨11, by decide⟩, ⟨12, by decide⟩⟩

/-- A launch that enables no flag, and a CVTN whose descriptor is legal in every active lane. -/
theorem test_hyp_pair_legal : curFpen plain = 0 ∧ SlotLegal plain ⟨.iadd, ops (.v 8) (.v 1) (.v 2) .zero⟩ ∧
    SlotLegal (issue (grp 0x483B9 0x31 0x483B9) id id) ⟨.cvtn true false .rn, ops (.v 9) (.v 2) (.v 1) .zero⟩ := by
  refine ⟨by decide +kernel, fun ⟨_, _, _, h⟩ => by simp at h, fun _ => by decide +kernel⟩

/-- The values of the clauses on FRND and FSCALE: NaNs, an infinity, a finite value, and a scaled one that FTZ flushes. -/
theorem test_hyp_single : isNan32 0x7F800001 = true ∧ isSig32 0x7F800001 = true ∧ isSig32 0x7FC00000 = false ∧ (!isFin32 0xFF800000 && !isNan32 0xFF800000) = true ∧ isFin32 1 = true ∧
    isSub32 (bits32 (FFmt.f32.scale .rn false 1 0)) = true ∧ isSub32 (bits32 (FFmt.f32.scale .rn false 0x3F800000 0)) = false := by decide +kernel

/-- A slot none of whose three lanes traps is calm. -/
theorem calm_of_lanes {s : State} {x : PairSlot} (h : active s x.o.g = [0, 1, 2])
    (h0 : ∀ l ∈ [0, 1, 2], (popLane x.op x.o (curGroup s) l).any (fun r => r.2 &&& (curFpen s).setWidth 6 == 0) = true) : SlotCalm s x := by
  intro l
  unfold slotCause
  split
  · rename_i hl
    rw [h] at hl
    have := h0 l hl
    cases hr : popLane x.op x.o (curGroup s) l with
    | none => simp [hr] at this
    | some r => simpa [hr] using this
  · rfl

theorem test_hyp_paired : SlotCalm plain ⟨.iadd, ops (.v 8) (.v 1) (.v 2) .zero⟩ ∧ SlotCalm (enabled 0x3F800000 0 0) ⟨.fmul .rn false, ops (.v 9) (.v 1) (.v 2) .zero⟩ :=
  ⟨calm_of_lanes (by decide +kernel) (by decide +kernel), calm_of_lanes (by decide +kernel) (by decide +kernel)⟩

/-- A launch that enables NX, and FMUL of a value whose square is inexact in lane 0. -/
theorem test_hyp_paired_traps : let s := enabled 0x3F800001 0 0
    (freeTrap (curCore s)).isSome ∧ ((subLanes s).filter fun l => (ownCause s ⟨.iadd, ops (.v 8) (.v 1) (.v 2) .zero⟩ ⟨.fmul .rn false, ops (.v 9) (.v 1) (.v 1) .zero⟩ l).isSome) ≠ [] := by
  decide +kernel

/-! ## Events of groups, teams and the matrix unit -/

/-- A wait of lanes 0 to 2, of which 0 and 1 are active, for a kind of end. -/
def waitFor (k : WaitKind) : Wait := ⟨k, 0, 7, 3, 0, 8⟩

/-- Group 0 of the team of core 0 waits, beside a matrix context, at a time. -/
def waiting (k : WaitKind) (time : Nat) (c : Ctx) (tm : Team → Team) : State :=
  { issue { grp 0 0 0 with wait := some (waitFor k) } tm id with time := time, pairs := [(0, { c0 := c })] }

theorem test_hyp_counter_waits : let s := waiting (.waitc 64 1 10 0 0) 25200 {} fun t => { t with sp := [(64, 1)] }
    let t := waiting (.waitc 64 2 10 0 0) 25200 {} fun t => { t with sp := [(64, 1)] }
    let u := waiting (.cntset 64 2 [3]) 0 {} fun t => { t with issued := [{ owed with incremented := true }] }
    (getGroup s 0 0 0).wait = some (waitFor (.waitc 64 1 10 0 0)) ∧ (1 : Word).toNat ≤ (wordAt s 0 0 64).toNat ∧
    (getGroup t 0 0 0).wait = some (waitFor (.waitc 64 2 10 0 0)) ∧ (wordAt t 0 0 64).toNat < (2 : Word).toNat ∧ 0 / 2520 + 10 ≤ tick t + 0 ∧
    trapRoom t 0 0 0 = true ∧ ending t (getTeam t 0 0).grid = false ∧ (waitFor (.waitc 64 2 10 0 0)).mask ≠ 0 ∧ (getGroup u 0 0 0).wait = some (waitFor (.cntset 64 2 [3])) ∧
    ∀ i ∈ (getTeam u 0 0).issued, i.serial ∈ [3] → i.incremented = true := by decide +kernel

theorem test_hyp_other_waits :
    let f := waiting (.fence .die [3]) 0 {} fun t => { t with issued := [{ owed with done := true, incremented := true }] }
    let r := waiting (.rsv 15 16) 0 {} fun t => { t with sp := [(20, 4), (23, 0xC0), (24, 2)] }
    let l := waiting (.rls 15) 0 {} id
    let m := waiting .mmaw 0 { mmas := [mmaAt (.captured 9)] } id
    let d := waiting (.drainw 0) 0 { drains := [drainOf none] } id
    let p := waiting (.dpld 2 0 1) 0 { drains := [drainOf (some ⟨[], [], []⟩)] } fun t => { t with slots := [(2, 1)] }
    (getGroup f 0 0 0).wait = some (waitFor (.fence .die [3])) ∧ (teamDescr f (getTeam f 0 0)).isSome ∧ fenceDone f 0 0 0 3 .die [3] = true ∧
    (getGroup r 0 0 0).wait = some (waitFor (.rsv 15 16)) ∧ (∀ m ∈ (ctxOf r 0 0).mmas, m.captured = true) ∧ Tbl.get 0 (getTeam r 0 0).rsvReady 15 ≤ cyc r 0 ∧
    slotFree r 0 (getGroup r 0 0 0).slot = true ∧ (∀ m ∈ (ctxOf l 0 0).mmas, m.captured = true) ∧ Tbl.get 0 (getTeam l 0 0).rsvReady 15 ≤ cyc l 0 ∧
    slotFree l 0 (getGroup l 0 0 0).slot = true ∧
    ((teamDescr r (getTeam r 0 0)).any fun d => decide (15 < descrNR d) && decide (16 + 16 ≤ descrWS d) &&
      (rsvRec (readBytes (getTeam r 0 0).sp 16 16)).check (descrWO d) == none) = true ∧
    (getGroup l 0 0 0).wait = some (waitFor (.rls 15)) ∧ (getGroup m 0 0 0).wait = some (waitFor .mmaw) ∧
    (∀ x ∈ (ctxOf m 0 0).mmas, x.group = 0 → x.captured = true) ∧ (getGroup d 0 0 0).wait = some (waitFor (.drainw 0)) ∧ (∀ e ∈ (ctxOf d 0 0).drains, 0 < e.seq) ∧
    (getGroup p 0 0 0).wait = some (waitFor (.dpld 2 0 1)) ∧ ∀ e ∈ (ctxOf p 0 0).drains, e.prog = 2 → e.seq ≤ 1 → e.image ≠ none := by decide +kernel

/-- Core 0 with a part of a remote access. -/
def remoteAt (e : Bool) (rs : List (Nat × BitVec 128)) : State :=
  { plain with cores := plain.cores.map fun c => (c.1, { c.2 with remotes := [{ sent 0 (.ld .w32) with entered := e, results := rs }] }) }

theorem test_hyp_waves : let s := issue { grp 0 0 0 with wait := some (waitFor .wave) } (fun t => { t with waves := [⟨0, [0]⟩] }) id
    let d := issue { grp 0 0 0 with wait := some (waitFor (.barrier 1 0)) } (fun t => { t with ngroups := 1 }) id
    let live := (List.range (getTeam d 0 0).ngroups).filter fun j => !(groupAt (getTeam d 0 0) j).ended
    ((getTeam s 0 0).waves.filter fun w => decide (w.due ≤ s.time)).flatMap (·.groups) = [0] ∧ (getTeam d 0 0).waves = [] ∧ issuedNow d 0 0 = false ∧
    ending d (getTeam d 0 0).grid = false ∧ (∀ j ∈ live, trapRoom d 0 0 j = true) ∧ (∃ j ∈ live, atBarrier (groupAt (getTeam d 0 0) j) = true) ∧
    (∀ j ∈ live, atBarrier (groupAt (getTeam d 0 0) j) = true ∨ atFetch (groupAt (getTeam d 0 0) j) = true) ∧
    live.length ≤ ((List.range 512).filter fun n => (Tbl.get none (getCore d 0).traps n).isNone).length ∧
    ((List.range 32).filter fun l => (Claims.laneOf d 0 0 0 l).st == .free) ≠ [] := by decide +kernel

theorem test_hyp_remote_events : let s := remoteAt false []
    let t := remoteAt true [(0, 5)]
    (getCore s 0).remotes[0]? = some (sent 0 (.ld .w32)) ∧ (sent 0 (.ld .w32)).entry ≤ cyc s 0 ∧ placeOf s 0 0 = some 0 ∧
    (getCore t 0).remotes[0]? = some { sent 0 (.ld .w32) with entered := true, results := [(0, 5)] } ∧ (sent 0 (.ld .w32)).ready ≤ cyc t 0 ∧
    (([⟨0, 64, 7, 0⟩, ⟨3, 68, 7, 0⟩] : List RemoteLane).map (·.lane)).Nodup ∧ ([(0, 5), (3, 6)] : List (Nat × BitVec 128)).find? (fun y => y.1 == 3) = some (3, 6) := by decide +kernel

/-- The grid's one team, in a place before or after its start. -/
def teamIn (tm : Team) : State := { cores := [(0, { teams := [(0, some tm)] })], grids := [(0, some (grid id))] }

/-- A team whose one group has arrived at its FETCH. -/
def atStep : Team := { ngroups := 1, groups := [(0, { grp 0 0 0 with wait := some (waitFor (.fetch 0)), arrived := true })], stepping := true }

theorem test_hyp_teams : let s := teamIn { groups := startGroups (grid id).kernel [0] }
    let e := teamIn atStep
    let h := teamIn { atStep with next := some (⟨0, 0, 0, 0⟩, 1) }
    let r := teamIn { ngroups := 1, groups := [(0, { ended := true })], done := true, first := false }
    getGrid s 0 = some (grid id) ∧ teamNo s 0 0 = some (0, 0) ∧ (getTeam s 0 0).groups = startGroups (grid id).kernel [0] ∧ (grid id).kernel.pgroups + (grid id).kernel.cgroups = 1 ∧ (getTeam s 0 0).ngroups = 0 ∧ (grid id).st = .running ∧
    (getTeam e 0 0).saving = none ∧ (getTeam e 0 0).retiring = false ∧ (getTeam e 0 0).preempt = none ∧ (getTeam e 0 0).claim = none ∧ (getTeam e 0 0).next = none ∧ teamNo e 0 0 = some (0, 0) ∧ (getTeam h 0 0).claim = none ∧
    (groupAt (getTeam e 0 0) 0).wait = some (waitFor (.fetch 0)) ∧ (getTeam h 0 0).next = some (⟨0, 0, 0, 0⟩, 1) ∧ halfFree h 0 0 1 = true ∧ staged h 0 0 1 = true ∧
    (getTeam r 0 0).grid = 0 ∧ canRetireTeam r 0 0 = true := by decide +kernel

/-- Pair 0 with a context. -/
def onCore0Ctx (c : Ctx) : State := { pairs := [(0, { c0 := c })] }

/-- Pair 0 with an MMA at a stage. -/
def stageAt (st : MmaSt) : State := { pairs := [(0, { c0 := { mmas := [mmaAt st] } })] }

theorem test_hyp_mma_stages : gatherEnded (cyc (stageAt (.gathering 0)) 0) (getCtx (stageAt (.gathering 0)) 0 0) = some (mmaAt (.gathering 0)) ∧
    canCapture 0 (getPair (stageAt .gathered) 0) 0 = some (mmaAt .gathered) ∧ mmaAt .gathered ∈ (getCtx (stageAt .gathered) 0 0).mmas ∧
    captureEnded 0 (getCtx (stageAt (.capturing 0 16)) 0 0) = some (mmaAt (.capturing 0 16), 16) ∧
    canRetire 0 (getCtx (stageAt (.captured 0)) 0 0) = some (mmaAt (.captured 0)) ∧ (mmaAt (.captured 0)).dirty = [] ∧ (mmaAt (.captured 0)).rows.length = 64 ∧
    cyc (stageAt .gathered) 0 = 0 := by decide +kernel

/-- A gather in a context with a home team, and a format that an MMA in issue has been checked to have. -/
theorem test_hyp_gather : let s := onCore0Ctx { mmas := [mmaAt (.gathering 0)], home := some (0, 0) }
    gatherEnded (cyc s 0) (getCtx s 0 0) = some (mmaAt (.gathering 0)) ∧ (getCtx s 0 0).home = some (0, 0) ∧ half16.kind ≠ 0 ∧ legalFmt 0x483B9 = true ∧
    Claims.Reads (mmaAt (.gathering 0)) 0x40 := by
  refine ⟨by decide +kernel, by decide +kernel, by decide, by decide +kernel, ⟨0, by decide, .inl ⟨0, by simp [mmaAt], by decide +kernel⟩⟩⟩

/-- A TMOV or TSET of row 63 for lane 31. -/
def tileOp (set : Option (List (Nat × Word))) : TileOp := ⟨1, 0, 0, 63, set, .v 1, [(31, 0)], 0⟩

/-- Core 0 with a team, and pair 0 with its context. -/
def onCore0 (c : Ctx) (tm : Team → Team) : State := { unit { c with home := some (0, 0) } tm with cur := {} }

theorem test_hyp_tile_ops : let s := onCore0 { ops := [tileOp none] } id
    let t := onCore0 { ops := [tileOp (some [(31, 5)])] } id
    (getCtx s 0 0).ops[0]? = some (tileOp none) ∧ (getCtx s 0 0).home = some (0, 0) ∧ opReady (cyc s 0) (getCtx s 0 0) (tileOp none) = true ∧
    (getCtx t 0 0).ops[0]? = some (tileOp (some [(31, 5)])) ∧ opReady (cyc t 0) (getCtx t 0 0) (tileOp (some [(31, 5)])) = true ∧ ∀ e ∈ [((31 : Nat), (5 : Word))], e.1 < 32 := by
  decide +kernel

/-- A program of one MSTS of words, then MEND. -/
def storeProgram : List Word := 0x000C0011 :: List.replicate 31 0

/-- A drain whose first half is streaming, with its scratchpad base. -/
def streaming (sb : Nat) : Drain := { drainOf (some ⟨storeProgram, [], []⟩) with sb := sb, rpitch := 128, cpitch := 4, half0 := .running 0 }

theorem test_hyp_drains : let s := onCore0 { drains := [drainOf none] } fun t => { t with slots := [(2, 1)] }
    let t := { onCore0 { drains := [streaming 0] } id with time := 2520 * 40 }
    let u := { onCore0 { drains := [streaming (2 ^ 21)] } id with time := 2520 * 40 }
    let out := fun (s : State) (d : Drain) => rowStores (rowEnv s (getCtx s 0 0) d ⟨storeProgram, [], []⟩ 0) (List.replicate 32 0)
    canStart s 0 0 0 = some (drainOf none) ∧ (∀ e ∈ (getCtx s 0 0).drains, e.seq = (drainOf none).seq → e = drainOf none) ∧
    (getCtx t 0 0).drains[0]? = some (streaming 0) ∧ commitDue (cyc t 0) (getCtx t 0 0) (streaming 0) 0 = some ⟨storeProgram, [], []⟩ ∧
    (out t (streaming 0)).toOption.isSome ∧ (getCtx u 0 0).drains[0]? = some (streaming (2 ^ 21)) ∧
    commitDue (cyc u 0) (getCtx u 0 0) (streaming (2 ^ 21)) 0 = some ⟨storeProgram, [], []⟩ ∧ (out u (streaming (2 ^ 21))).toOption.isNone ∧
    trapRoom u 0 0 (streaming (2 ^ 21)).group = true ∧
    (∀ o, out t (streaming 0) = .ok o → taintedStores (madeEnv { streaming 0 with image := some ⟨storeProgram, [], []⟩ } 0) (obBytes o) o = []) := by
  refine ⟨by decide +kernel, by decide +kernel, by decide +kernel, by decide +kernel, by decide +kernel, by decide +kernel, by decide +kernel, by decide +kernel, by decide +kernel, fun o h => ?_⟩
  have hs : ((rowStores (rowEnv { onCore0 { drains := [streaming 0] } id with time := 2520 * 40 } (getCtx { onCore0 { drains := [streaming 0] } id with time := 2520 * 40 } 0 0) (streaming 0)
      ⟨storeProgram, [], []⟩ 0) (List.replicate 32 0)).toOption.all fun o =>
        (taintedStores (madeEnv { streaming 0 with image := some ⟨storeProgram, [], []⟩ } 0) (obBytes o) o).isEmpty) = true := by decide +kernel
  simp only at h
  rw [h] at hs
  exact List.isEmpty_iff.1 hs

/-! ## Events of the engines and of global memory -/

/-- What a table's default and all its entries satisfy, every read of it satisfies. -/
theorem get_of_all {α : Type} {P : α → Prop} {d : α} (hd : P d) : ∀ {t : Tbl α}, (∀ e ∈ t, P e.2) → ∀ k, P (Tbl.get d t k)
  | [], _, _ => hd
  | (k', v) :: t, h, k => by
    simp only [Tbl.get]
    split
    · exact h (k', v) (by simp)
    · exact get_of_all hd (fun e he => h e (by simp [he])) k

/-- A page of 1 GiB at address 0, its tables in frames 1 to 3, and the translation that a die holds. -/
def treeBytes : List (Nat × Byte) := cellsAt 0x10000 0x8000000000020000 8 ++ cellsAt 0x20000 0x8000000000030000 8 ++ cellsAt 0x30000 0x801E000040000002 8
def page : Pte := pteOf 0x801E000040000002
def leaf : Leaf := ⟨page, 2, 0x30000⟩

/-- A machine whose interface 0 maps that page, with one team of a grid that has admitted it, and commands in its engines. -/
def withPage (q jobs : List Cmd) : State :=
  { cores := [(0, { teams := [(0, some { ngroups := 1, groups := [(0, grp 0 0 0)], jobs := jobs })], copyq := q })]
    grids := [(0, some { grid id with admitted := [0], kernel := { (grid id).kernel with regions := [⟨1, 0, 2, false, 0, 256, 0, 0, [4, 1, 1], [4, 0, 0], [[0, 0, 0, 0]], false⟩] } })]
    vis := [(0, { root := 0x10000 })], views := [(8, { bytes := treeBytes })], dies := [(0, { tlb := [⟨0, 0, page, 2⟩] })] }

/-- The grid of that machine. -/
def pageGrid : Grid := ((getGrid (withPage [] []) 0).getD (grid id))

theorem get_append {α : Type} (d : α) (m : Tbl α) (k : Nat) : ∀ t : Tbl α, (t.any fun e => e.1 == k) = true → Tbl.get d (t ++ m) k = Tbl.get d t k
  | [], h => by simp at h
  | (k', v) :: t, h => by
    by_cases e : k' = k
    · simp [Tbl.get, e]
    · simp only [List.cons_append, Tbl.get, e, if_false]
      exact get_append d m k t (by simpa [e] using h)

/-- The tables alone, as hub 0 sees them. -/
def treeOnly : State := { views := [(8, { bytes := treeBytes })] }

theorem viewNat_tree {s : State} {more : List (Nat × Byte)} (hv : (getView s hub0).bytes = treeBytes ++ more) (n : Nat) :
    ∀ key, (∀ i < n, (treeBytes.any fun e => e.1 == key + i) = true) → viewNat s hub0 key n = viewNat treeOnly hub0 key n := by
  induction n with
  | zero => intro _ _; rfl
  | succ n ih =>
    intro key h
    have h0 : viewByte s hub0 key = viewByte treeOnly hub0 key := by
      simp only [viewByte, hv]
      exact get_append 0 more key treeBytes (h 0 (by omega))
    simp only [viewNat, h0, ih (key + 1) fun i hi => by rw [Nat.add_assoc, Nat.add_comm 1 i]; exact h (i + 1) (by omega)]

/-- Any machine with that root and those tables maps every address of the page. -/
theorem walk_low {s : State} {more : List (Nat × Byte)} (hr : (getVi s 0).root = 0x10000) (hv : (getView s hub0).bytes = treeBytes ++ more) {va : Nat} (h : va < 2 ^ 30) :
    walkTree s 0 va = some leaf := by
  have k4 : viewNat s hub0 0x10000 8 = 0x8000000000020000 := by rw [viewNat_tree hv 8 _ (by decide +kernel)]; decide +kernel
  have k3 : viewNat s hub0 0x20000 8 = 0x8000000000030000 := by rw [viewNat_tree hv 8 _ (by decide +kernel)]; decide +kernel
  have k2 : viewNat s hub0 0x30000 8 = 0x801E000040000002 := by rw [viewNat_tree hv 8 _ (by decide +kernel)]; decide +kernel
  have d4 : va / 2 ^ 48 = 0 := by omega
  have d3 : va / 2 ^ 39 = 0 := by omega
  have d2 : va / 2 ^ 30 = 0 := by omega
  have n : ¬2 ^ 57 ≤ va := by omega
  have e4 : entryAt s va 1 4 = ⟨pteOf 0x8000000000020000, 4, 0x10000⟩ := by
    have : entryKey 1 4 va = 0x10000 := by simp [entryKey, levelIndex, levelShift, physKey, d4] <;> omega
    simp only [entryAt, this, k4]
  have e3 : entryAt s va 2 3 = ⟨pteOf 0x8000000000030000, 3, 0x20000⟩ := by
    have : entryKey 2 3 va = 0x20000 := by simp [entryKey, levelIndex, levelShift, physKey, d3] <;> omega
    simp only [entryAt, this, k3]
  have e2 : entryAt s va 3 2 = leaf := by
    have : entryKey 3 2 va = 0x30000 := by simp [entryKey, levelIndex, levelShift, physKey, d2] <;> omega
    simp only [entryAt, this, k2, leaf, page]
  have f4 : (pteOf 0x8000000000020000).frame = 2 ∧ pteValid (pteOf 0x8000000000020000) 4 = true ∧ (pteOf 0x8000000000020000).leaf = false := by decide +kernel
  have f3 : (pteOf 0x8000000000030000).frame = 3 ∧ pteValid (pteOf 0x8000000000030000) 3 = true ∧ (pteOf 0x8000000000030000).leaf = false := by decide +kernel
  have f2 : pteValid leaf.pte 2 = true ∧ leaf.pte.leaf = true := by decide +kernel
  have r : (0x10000 : DWord).toNat / 2 ^ 16 % 2 ^ 32 = 1 := by decide
  simp only [walkTree, n, hr, r]
  simp only [walkFrom, e4, f4, e3, f3, e2, f2]
  rfl

theorem key_low {s : State} {more : List (Nat × Byte)} (hr : (getVi s 0).root = 0x10000) (hv : (getView s hub0).bytes = treeBytes ++ more) {va : Nat} (h : va < 2 ^ 30) :
    vaKey s 0 va = some (0x40000000 + va) := by
  have hf : leaf.pte.tgt = 0 ∧ leaf.pte.frame = 0x4000 := by decide +kernel
  have hm : va % 2 ^ 30 = va := Nat.mod_eq_of_lt h
  simp only [vaKey, walk_low hr hv h, Option.map_some, leafKey, hf, physKey, pageSize]
  show some (0 * 2 ^ 48 + (0x4000 * 65536 + va % 2 ^ 30)) = _
  rw [hm]
  simp

/-- What a hub reads there. -/
theorem read_low {s : State} {more : List (Nat × Byte)} (hr : (getVi s 0).root = 0x10000) (hs : s.seals = []) (hv : (getView s hub0).bytes = treeBytes ++ more) {va n : Nat}
    (h : va + n ≤ 2 ^ 30) : (hubRead s hub0 0 va n).1 = (List.range n).map fun i => viewByte s hub0 (0x40000000 + (va + i)) := by
  simp only [hubRead]
  refine List.map_congr_left fun i hi => ?_
  have hi := List.mem_range.1 hi
  have ht : keyTgt (0x40000000 + (va + i)) < 2 := by simp only [keyTgt]; omega
  have ho : readSealed s hub0 (vaSeal s 0 (va + i)) (0x40000000 + (va + i)) = some (viewByte s hub0 (0x40000000 + (va + i))) := by
    have : leaf.pte.key = 0 := by decide +kernel
    simp [vaSeal, walk_low hr hv (by omega : va + i < 2 ^ 30), sealOf, this, readSealed, hs, Tbl.get, (by decide +kernel : (0 : Nat) = lostSeal ↔ False)]
  simp only [hubByte, key_low hr hv (by omega : va + i < 2 ^ 30), ht, ho, if_true, Option.getD_some]

theorem walk_page (q jobs : List Cmd) : walkTree (withPage q jobs) 0 0 = some leaf := walk_low (more := []) rfl (by simp [withPage, getView, Tbl.get, hub0]) (by decide)

/-- The page answers every use. -/
theorem meets_page (q jobs : List Cmd) (u : Use) : meets (withPage q jobs) 0 pageGrid 0 u = .at_ 0x40000000 leaf := by
  have hd : ∀ k, (getDie (withPage q jobs) k).hbmStacks = [] := get_of_all (P := fun d : Die => d.hbmStacks = []) rfl (by simp [withPage])
  have ht : tlbHolds (withPage q jobs) 0 pageGrid.vi 0 leaf = true := by
    show tlbHolds (withPage [] []) 0 pageGrid.vi 0 leaf = true
    decide +kernel
  have hp : pageFault (withPage q jobs) pageGrid 0 u leaf = none := by
    show pageFault (withPage [] []) pageGrid 0 u leaf = none
    cases u <;> decide +kernel
  have hw : wayHeld (withPage q jobs) (leafKey leaf 0) = false := by
    have : keyTgt (leafKey leaf 0) = 0 := by decide +kernel
    simp [wayHeld, stackHeld, this, hd, Tbl.get]
  have hv : pageGrid.vi = 0 := by decide +kernel
  have hk : leafKey leaf 0 = 0x40000000 := by decide +kernel
  rw [hk] at hw
  simp [meets, hv, walk_page, hv ▸ ht, hp, hw, hk]

theorem test_hyp_page (q jobs : List Cmd) : poisoned (withPage q jobs) 0x40000000 = false := by
  have hd : ∀ k, (getDie (withPage q jobs) k).poison = [] := get_of_all (P := fun d : Die => d.poison = []) rfl (by simp [withPage])
  simp [poisoned, hd, Tbl.get]

/-- A COPY of 4 words at address 0, of which it begins the first, and a FATOM there. -/
def copyBox : ShapeRec := { base := 0, elog := 2, ndim := 0, fill := true, n := [4, 0, 0], s := [4, 0, 0], b := [4, 0, 0], lp := [0, 0], mbz := false }
def copyOf4 (coord : Int) (store : Bool) : Cmd := { anyCmd with kind := .copy copyBox [coord] store false 64 }
def fatom0 (st : CmdSt) (old : Option Nat) : Cmd := { anyCmd with kind := .fatom .add false 0 1 0 old, st := st }

/-- An element whose parts the pages answer goes on, where the run is no prediction and no read of the tick comes first. -/
theorem move_goes {s : State} {k gid : Nat} {gr : Grid} {c : Cmd} {store ob : Bool} {va : Int} {la n : Nat} {ps : List Part}
    (h : reach s (dieOf k) gr (if store then .write else .read) (partsOf va n) = .inr ps) (hg : gr.pred = none)
    (hr : ∀ key n, readNow s (dieOf k) key n = false) : moveElem s k gid gr c store ob va la n ≠ .hold := by
  simp only [moveElem, h, hg, shadowHeld, hr, Option.bind_none, Bool.false_eq_true, if_false]
  split
  · simp
  · split
    · simp
    · split <;> rename_i hx
      · simp at hx
      · split <;> simp

/-- A word at the start of the page is one part. -/
def part0 : Part := ⟨0, 0x40000000, 4, leaf⟩
theorem parts_word : partsOf 0 4 = [(0, 4)] := by simp [partsOf]
theorem reach_one {s : State} {g : Grid} {u : Use} {l : Leaf} (h : meets s 0 g 0 u = .at_ 0x40000000 l) : reach s 0 g u [(0, 4)] = .inr [⟨0, 0x40000000, 4, l⟩] := by
  simp [reach, h]
theorem reach_page (q jobs : List Cmd) (u : Use) : reach (withPage q jobs) 0 pageGrid u (partsOf 0 4) = .inr [part0] :=
  parts_word ▸ reach_one (meets_page q jobs u)

/-- A command whose step does not wait can take it. -/
theorem steppable {s : State} {k : Nat} {c : Cmd} {gr : Grid} (he : (elemNo c).isSome = true) (hw : awaitsWalk s k c.serial = false)
    (ht : teamGrid s (getTeam s k c.tx) = some gr) (hc : clockReady s k gr = true) (hs : (getTeam s k c.tx).stopped = false)
    (hst : stepCopy s k (getTeam s k c.tx).grid gr c ≠ .hold) : copySteppable s k c = true := by
  simp only [copySteppable, he, hw, ht, hc, hs]
  rfl

theorem test_hyp_elements (store : Bool) : let s := withPage [copyOf4 0 store] []
    pageGrid.pred = none ∧ elemNo (copyOf4 0 store) = some 0 ∧ teamGrid s (getTeam s 0 0) = some pageGrid ∧ (getCore s 0).copyq.any isBlocked = false ∧
    (getCore s 0).copyq.filter (copySteppable s 0) = [copyOf4 0 store] := by
  refine ⟨by decide +kernel, by cases store <;> decide, by cases store <;> decide +kernel, by cases store <;> decide, ?_⟩
  have hst : stepCopy (withPage [copyOf4 0 store] []) 0 0 pageGrid (copyOf4 0 store) =
      moveElem (withPage [copyOf4 0 store] []) 0 0 pageGrid { copyOf4 0 store with st := .elem 1 } store false 0 64 4 := by
    have he : elemNo (copyOf4 0 store) = some 0 := by cases store <;> decide
    have hk : (copyOf4 0 store).kind = .copy copyBox [0] store false 64 := rfl
    have h1 : ¬prod copyBox.bs ≤ 0 ∧ (copyElem copyBox [0] 64 0).inb = true ∧ (copyElem copyBox [0] 64 0).va = 0 ∧ (copyElem copyBox [0] 64 0).la = 64 ∧
      copyBox.elem = 4 ∧ afterElem 0 (prod copyBox.bs) = .elem 1 := by decide
    simp only [stepCopy, he, hk, h1, if_false, if_true]
  have : copySteppable (withPage [copyOf4 0 store] []) 0 (copyOf4 0 store) = true :=
    steppable (gr := pageGrid) (by cases store <;> decide) (by cases store <;> decide) rfl (by cases store <;> decide +kernel) (by cases store <;> decide)
      (hst ▸ move_goes (reach_page _ [] (if store then .write else .read)) (by decide +kernel) fun _ _ => rfl)
  show List.filter _ [copyOf4 0 store] = _
  simp [this]

/-- The element of a box that starts past the tensor lies outside; a region's first element lies in the page. -/
theorem test_hyp_outside : let s := withPage [copyOf4 4 false] []
    let t := withPage [] [{ anyCmd with kind := .stage 0 1 ⟨0, 0, 0, 0⟩ 128 }]
    let u := withPage [] [{ anyCmd with kind := .wback 0 1 ⟨0, 0, 0, 0⟩ 128 }]
    (∀ r cs ob la, (copyOf4 4 false).kind = .copy r cs false ob la → (copyElem r cs la 0).inb = false) ∧ copySteppable s 0 (copyOf4 4 false) = true ∧
    (nextJob t 0 0 false).isSome ∧ (nextJob u 0 0 true).isSome ∧ 0 < (pageGrid.kernel.regions.headD ⟨0, 0, 0, false, 0, 0, 0, 0, [], [], [], false⟩).count ∧
    (regionElem pageGrid (pageGrid.kernel.regions.headD ⟨0, 0, 0, false, 0, 0, 0, 0, [], [], [], false⟩) ⟨0, 0, 0, 0⟩ 0).1 = 0 ∧ keyTgt 0x40000000 = 0 := by
  refine ⟨fun r cs ob la h => ?_, by decide +kernel⟩
  cases h; decide

theorem test_hyp_completions : let a := { copyOf4 0 true with st := .last }
    let b := fatom0 (.back 5 []) (some 64)
    let st := { anyCmd with kind := .stage 0 1 ⟨0, 0, 0, 0⟩ 128, st := .last }
    let wb := { anyCmd with kind := .wback 0 1 ⟨0, 0, 0, 0⟩ 128, st := .last }
    (inOrder (getCore (withPage [a] []) 0).copyq).find? (completable (withPage [a] [])) = some a ∧
    (inOrder (getCore (withPage [b] []) 0).copyq).find? (backReady (withPage [b] []) 0) = some b ∧ b.ctr = none ∧
    ending (withPage [a] []) (getTeam (withPage [a] []) 0 0).grid = false ∧ opens (withPage [] []) (sealOf (withPage [] []) 0 page) 0x40000000 = true ∧
    (getTeam (withPage [] [st]) 0 0).jobs.find? stageDone = some st ∧ (getTeam (withPage [] [wb]) 0 0).jobs.find? (wbackDone (withPage [] [wb])) = some wb := by
  decide +kernel

/-- A FATOM at its home performs once its page answers. -/
theorem home_ready {s : State} {key : Nat} {l : Leaf} (hm : meets s 0 pageGrid 0 .atomic = .at_ key l) (ht : teamGrid s (getTeam s 0 0) = some pageGrid)
    (hp : poisoned s key = false) (hn : ∀ h n, readNow s h key n = false) : homeReady s 0 (fatom0 .home none) = some (.perform (homeOf key) key l) := by
  have hk : (fatom0 .home none).kind = .fatom .add false 0 1 0 none := rfl
  have hs : (fatom0 .home none).st = .home := rfl
  have hc : (fatom0 .home none).clock = [] := rfl
  have hx : (fatom0 .home none).tx = 0 := rfl
  have hz : ((0 : Nat) : Int) = 0 := rfl
  have hd : dieOf 0 = 0 := rfl
  unfold homeReady
  rw [hk, hs, hc, hx, ht]
  dsimp only
  rw [hz, hd, hm]
  simp [dominates, hn, hp]

theorem test_hyp_fatom : let c := fatom0 .home none
    ((getCore (withPage [c] []) 0).copyq.findSome? fun c => (homeReady (withPage [c] []) 0 c).map fun h => (c, h)) = some (c, .perform (homeOf 0x40000000) 0x40000000 leaf) := by
  have hn : ∀ h n, readNow (withPage [fatom0 .home none] []) h 0x40000000 n = false := fun h _ => by
    have : (getView (withPage [fatom0 .home none] []) h).readTick = 0 := get_of_all (P := fun v : View => v.readTick = 0) rfl (by simp [withPage]) h
    simp [readNow, this]
  have hr := home_ready (meets_page [fatom0 .home none] [] .atomic) rfl (test_hyp_page _ _) hn
  show List.findSome? _ [fatom0 .home none] = _
  simp [hr]

/-- A write of die 0 on its way to die 1, and one that waits there; the second has a predecessor that die 1 has not applied. -/
def unitOf (n : Nat) : GWrite := ⟨0, (List.replicate 10 0).set 0 n, [(7, 5)], 0, 0⟩

theorem test_hyp_writes : let s : State := { views := [(1, { flight := [unitOf 1], held := [unitOf 1, unitOf 2] })] }
    (getView s 1).flight[0]? = some (unitOf 1) ∧ (getView s 1).held[0]? = some (unitOf 1) ∧ canApply (getView s 1).vc (unitOf 1) = true ∧
    (getView s 1).held[1]? = some (unitOf 2) ∧ canApply (getView s 1).vc (unitOf 2) = false ∧ wins (Tbl.get none (getView s 1).stamps 7) 0 (unitOf 1).stamp = true := by
  decide +kernel

/-! ## Events of translation, queues and launches -/

/-- A command parked for a page, or waiting for room in the log. -/
def parked (f : FaultInfo) : LogEntry := ⟨0, anyCmd, f, 0, 0⟩
def blocked : Cmd := { anyCmd with st := .blocked ⟨2, 0⟩ 0 0 }

/-- The page of `withPage` in the capacity tier, with a die that a command of the page is parked on. -/
def inTier (log : List LogEntry) : State :=
  { withPage [] [] with views := [(8, { bytes := (0x30007, 0xA0) :: treeBytes })], dies := [(0, { log := log })] }

theorem test_hyp_translation : let w : Walk := ⟨0, 0, 0, 0, some 0⟩
    let s := { withPage [] [] with dies := [(0, { walks := [w], log := [parked ⟨2, 0⟩, parked ⟨2, 2 ^ 30⟩, parked ⟨3, 0⟩] })] }
    let b := withPage [blocked] []
    let t := inTier [parked ⟨2, 0⟩]
    let m : State := { withPage [] [] with migrations := [{ vi := 0, va := 0, size := 65536, toTier := true, target := 0, hub := 8, start := 0 }] }
    (getDie s 0).walks[0]? = some w ∧ walkTree s 0 0 = some leaf ∧ (getGrid s (getTeam s 0 0).grid).isSome ∧ recoverable ⟨2, 0⟩ = true ∧ pageReady s 0 ⟨2, 0⟩ = some leaf ∧
    pageReady s 0 ⟨2, 2 ^ 30⟩ = none ∧ onCopyEngine anyCmd = true ∧ recoverable ⟨3, 0⟩ = false ∧ pageGrid.st = .running ∧ blockedCmds b 0 = [blocked] ∧
    (getDie b 0).log.length < 256 ∧ migrating s 0 0 leaf = false ∧ page.tgt = 0 ∧ page.pin = false ∧ declaredByAny s 0 leaf 0 = false ∧
    (∃ l, walkTree t 0 0 = some l ∧ l.pte.tgt = 1 ∧ migrating t 0 0 l = false ∧ wanted t 0 0 l = true) ∧ m.migrations.length = 1 ∧ walkTree m 0 0 = some leaf ∧
    (let u : State := { m with views := [(8, { bytes := treeBytes.filter fun e => e.2 != 0 })] }
     Tbl.wf 0 (getView u 3).bytes = true ∧ Tbl.wf 0 (getView u hub0).bytes = true ∧ walkTree u 0 0 = some leaf) ∧
    (∀ j < 8, ∀ from_ ∈ [leafKey leaf 0, physKey 1 0], leaf.entry + j < from_ ∨ from_ + pageSize leaf.level ≤ leaf.entry + j) := by
  refine ⟨by decide +kernel, by decide +kernel, by decide +kernel, by decide, by decide +kernel, by decide +kernel, by decide, by decide, by decide +kernel, by decide +kernel,
    by decide +kernel, by decide +kernel, by decide +kernel, by decide +kernel, by decide +kernel, ⟨_, rfl, by decide +kernel⟩, by decide, by decide +kernel, by decide +kernel, by decide +kernel⟩

/-- A queue of interface 0, and a machine whose queue 0 stands before a packet in the page of `withPage`, with more bytes there. -/
def ring : QDescr := { vec := 0, eidx := 0x3000, ebase := 0x2000, cticks := 5, ccount := 1, ballast := false, elog := 4, clog := 4, cbase := 0, mbz := false }
def queue0 : Queue :=
  { descr := ring, slot := some 0, prod := 1, cons := 0, lastSignal := 0, processing := none, posted := false, evIdx := 0, taken := 0, unsig := 0, oldest := 0,
    pending := [], history := [], lastBound := none, predicted := false }
def withPacket (p : Nat) (more : List (Nat × Byte)) : State :=
  { withPage [] [] with views := [(8, { bytes := treeBytes ++ cellsAt 0x40000000 p 64 ++ more })], queues := [(0, some queue0)], grids := [], nextGrid := 5 }

/-- Its packets: a bad one, MARK, DECLINE and ACCEPT of quotation 1, and LAUNCH of the descriptor at 0x400. -/
def badWord : Nat := 6
def markWord : Nat := 5 + 5 * 2 ^ 96
def declineWord : Nat := 3 + 1 * 2 ^ 64
def acceptWord : Nat := 2 + 1 * 2 ^ 64
def launchWord : Nat := 4 + 0x400 * 2 ^ 64 + 0x1000 * 2 ^ 128

/-- The 64 bytes at the start of the page are the packet that it takes next. -/
theorem next_command (p : Nat) (more : List (Nat × Byte))
    (h : natOf ((List.range 64).map fun i => Tbl.get 0 (treeBytes ++ cellsAt 0x40000000 p 64 ++ more) (0x40000000 + i)) = p) :
    NextCommand (withPacket p more) 0 queue0 (packetOf p) := by
  refine ⟨rfl, ⟨(hubRead (withPacket p more) hub0 0 0 64).2, ?_⟩, rfl, by decide⟩
  have hv : (getView (withPacket p more) hub0).bytes = treeBytes ++ (cellsAt 0x40000000 p 64 ++ more) := by
    simp [withPacket, getView, Tbl.get, hub0, List.append_assoc]
  have hb : (hubRead (withPacket p more) hub0 0 0 64).1 = (List.range 64).map fun i => Tbl.get 0 (treeBytes ++ cellsAt 0x40000000 p 64 ++ more) (0x40000000 + i) := by
    rw [read_low rfl rfl hv (by decide)]
    refine List.map_congr_left fun i _ => ?_
    simp only [viewByte, hv, Nat.zero_add, List.append_assoc]
  have hn : nextPacket (withPacket p more) 0 =
      some (packetOf (natOf (hubRead (withPacket p more) hub0 0 0 64).1), (hubRead (withPacket p more) hub0 0 0 64).2) := rfl
  rw [hn, hb, h]

theorem test_hyp_packets : NextCommand (withPacket badWord []) 0 queue0 (packetOf badWord) ∧ badPacket (packetOf badWord) = true ∧
    NextCommand (withPacket markWord []) 0 queue0 (packetOf markWord) ∧ isCommand 5 (packetOf markWord) = true ∧
    NextCommand (withPacket declineWord []) 0 queue0 (packetOf declineWord) ∧ isCommand 3 (packetOf declineWord) = true ∧
    NextCommand (withPacket acceptWord []) 0 queue0 (packetOf acceptWord) ∧ isCommand 2 (packetOf acceptWord) = true ∧
    NextCommand (withPacket launchWord []) 0 queue0 (packetOf launchWord) ∧ isCommand 4 (packetOf launchWord) = true ∧ isCommand 1 (packetOf (launchWord - 3)) = true := by
  refine ⟨next_command _ _ (by decide +kernel), by decide +kernel, next_command _ _ (by decide +kernel), by decide +kernel,
    next_command _ _ (by decide +kernel), by decide +kernel, next_command _ _ (by decide +kernel), by decide +kernel,
    next_command _ _ (by decide +kernel), by decide +kernel, by decide +kernel⟩

/-- A queue with records to signal, one in the middle of MARK, and one whose full ring holds back a record. -/
theorem test_hyp_ring : let s : State := { queues := [(0, some { queue0 with unsig := 1, slot := some 0 }), (1, some { queue0 with processing := some (packetOf markWord) }),
      (2, some { queue0 with evIdx := 16, pending := [plainRec {} 0x10 0 0] })], time := 2520 * 5 }
    (∃ x, getQueue s 0 = some x ∧ 0 < x.unsig ∧ x.descr.ccount ≤ x.unsig ∧ x.descr.cticks ≠ 0 ∧ x.oldest + x.descr.cticks ≤ tick s) ∧
    (∃ x p, getQueue s 1 = some x ∧ x.pending = [] ∧ (∀ e, e.grid = none → ringRoom s x e = true) ∧ x.processing = some p ∧ p.opc = 5 ∧ x.posted = false) ∧
    ∃ x e es, getQueue s 2 = some x ∧ x.pending = e :: es ∧ e.ready = true ∧ ringRoom s x e = false := by
  refine ⟨⟨_, rfl, by decide⟩, ⟨_, _, rfl, rfl, fun e h => by simp [ringRoom, ringOf, h, queue0, ring], rfl, by decide +kernel, rfl⟩, ⟨_, _, _, rfl, rfl, rfl, by decide⟩⟩

theorem test_hyp_mapping : let d : Nat := 0x2000 * 2 ^ 128 + 0x3000 * 2 ^ 192 + (4 + 4 * 16) * 2 ^ 64 + 1 * 2 ^ 80
    let s := { withPacket d [] with queues := [], hubs := [(0, { waiting := [(0, 0, 1)] })] }
    let t := withPacket 0 []
    getQueue s (queueKey 0 0) = none ∧ freeQueueSlot s = some 0 ∧ (vaKey s 0 (Tbl.get 0 (getVi s 0).qtable 0).toNat).isSome = true ∧
    (qdescrOf (natOf (hubRead s (slotHub 0) 0 (Tbl.get 0 (getVi s 0).qtable 0).toNat 64).1)).ok = true ∧ (getHub s 0).waiting = [(0, 0, 1)] ∧
    getQueue t (queueKey 0 0) = some queue0 ∧ queue0.slot.isSome = true ∧ queue0.processing = none := by
  intro d s t
  have hv : (getView s hub0).bytes = treeBytes ++ (cellsAt 0x40000000 d 64 ++ []) := by
    simp [s, withPacket, getView, Tbl.get, hub0]
  have ha : (Tbl.get 0 (getVi s 0).qtable 0).toNat = 0 := rfl
  have hb : (hubRead s (slotHub 0) 0 0 64).1 = (List.range 64).map fun i => Tbl.get 0 (treeBytes ++ (cellsAt 0x40000000 d 64 ++ [])) (0x40000000 + i) := by
    show (hubRead s hub0 0 0 64).1 = _
    rw [read_low rfl rfl hv (by decide)]
    refine List.map_congr_left fun i _ => ?_
    simp only [viewByte, hv, Nat.zero_add]
  rw [ha, key_low rfl hv (by decide), hb]
  decide +kernel

theorem test_hyp_idle : let s : State := { queues := [(0, some queue0)], hubs := [(0, { slots := [(0, some (0, 0))] })], time := 2520 * 1000000 }
    slotQueue s 0 = some 0 ∧ getQueue s 0 = some queue0 ∧ queue0.lastSignal + idleTicks s 0 ≤ tick s := by decide +kernel

/-- A kernel image of one EXIT block, and a descriptor of a LOOSE or a BOUND launch of it. -/
def imageHead : Nat := 0x4C594E31 + 2 ^ 32 + 32 * 2 ^ 64 + 2 ^ 128 + 64 * 2 ^ 160 + 2 ^ 176
def image : Nat := imageHead + 2 ^ 2048 * exitBlock.foldr (fun w n => w.toNat + 2 ^ 32 * n) 0
def descrWord (bound : Bool) (ltime : Nat) : Nat :=
  0x800 + 2 ^ 128 + 2 ^ 160 + 2 ^ 192 + 2 ^ 224 + 2 ^ 240 + (if bound then 0 else 2 ^ 251 + 2 ^ 320) + 2 ^ 352 + 2 ^ 312 + ltime * 2 ^ 512 + 2 ^ 63 * 2 ^ 576
def launching (bound : Bool) (ltime : Nat) : State := withPacket launchWord (cellsAt 0x40000400 (descrWord bound ltime) 128 ++ cellsAt 0x40000800 image 288)

/-- Bytes of the page. -/
def mapped (more : List (Nat × Byte)) (va n : Nat) : List Byte := (List.range n).map fun i => Tbl.get 0 (treeBytes ++ more) (0x40000000 + (va + i))

theorem read_mapped {s : State} {more : List (Nat × Byte)} (hr : (getVi s 0).root = 0x10000) (hs : s.seals = []) (hv : (getView s hub0).bytes = treeBytes ++ more) (va n : Nat)
    (h : va + n ≤ 2 ^ 30) : hubRead s hub0 0 va n = (mapped more va n, { s with freeNo := s.freeNo + n }) := by
  refine Prod.ext ?_ rfl
  rw [read_low hr hs hv h]
  refine List.map_congr_left fun i _ => ?_
  simp only [viewByte, hv]

theorem read_none (s : State) (h vi va : Nat) : hubRead s h vi va 0 = ([], s) := rfl

/-- The bytes of a number. -/
def bytesN (v n : Nat) : List Byte := (List.range n).map fun i => BitVec.ofNat 8 (v / 256 ^ i)

theorem get_cells (m : List (Nat × Byte)) (n : Nat) : ∀ key v i, i < n → Tbl.get 0 (cellsAt key v n ++ m) (key + i) = BitVec.ofNat 8 (v / 256 ^ i) := by
  induction n with
  | zero => intro _ _ i h; omega
  | succ n ih =>
    intro key v i h
    cases i with
    | zero => simp [cellsAt, Tbl.get]
    | succ i =>
      have : key + (i + 1) = key + 1 + i := by omega
      have ne : ¬key = key + 1 + i := by omega
      simp only [cellsAt, List.cons_append, Tbl.get, this, ne, if_false, ih (key + 1) (v / 256) i (by omega), Nat.div_div_eq_div_mul, Nat.pow_succ']

theorem get_past (m : List (Nat × Byte)) (n : Nat) : ∀ key v k, k < key ∨ key + n ≤ k → Tbl.get 0 (cellsAt key v n ++ m) k = Tbl.get 0 m k := by
  induction n with
  | zero => intro _ _ _ _; rfl
  | succ n ih =>
    intro key v k h
    have ne : ¬key = k := by omega
    simp only [cellsAt, List.cons_append, Tbl.get, ne, if_false, ih (key + 1) (v / 256) k (by omega)]

/-- A quotation comes from the descriptor and the image that stand in the page. -/
theorem quote_low {s : State} {more : List (Nat × Byte)} {q : Queue} {p : Packet} {d : Descr} {k : Option Kernel} (hr : (getVi s 0).root = 0x10000) (hs : s.seals = [])
    (hv : (getView s hub0).bytes = treeBytes ++ more) (hq : q.slot = some 0) (hp : p.arg.toNat = 0x400) (hd : descrOfRec (natOf (mapped more 0x400 128)) = d)
    (hi : d.image = 0x800) (he : (layoutOf (natOf (mapped more 0x800 256))).end_ = 288) (hk : kernelOf (mapped more 0x800 288) = k)
    (ha : (match k with | some x => x.args8 | none => 0) = 0) :
    (makeQuote s 0 q p).1 = let u := { s with freeNo := s.freeNo + 128 + 256 + 288 }
      fillQuote u 0 (blankQuote u 0 q p d) [] (offerOf u 0 k d [] q.descr.ballast) := by
  have hh : queueHub q = hub0 := by simp [queueHub, hq, slotHub]
  simp only [makeQuote, hh, hp, queueVi, Nat.zero_div, read_mapped hr hs hv 0x400 128 (by decide), hd, hi]
  simp only [read_mapped (s := { s with freeNo := s.freeNo + 128 }) hr hs hv 0x800 256 (by decide), he]
  simp only [read_mapped (s := { s with freeNo := s.freeNo + 128 + 256 }) hr hs hv 0x800 288 (by decide), hk]
  cases k with
  | none => rfl
  | some x => simp only at ha; simp only [ha, Nat.mul_zero, read_none, argFields, List.range_zero, List.map_nil]

theorem taken_low {s : State} {q : Queue} (h : s.queues = [(0, some q)]) :
    taken s 0 = { s with freeNo := s.freeNo + 64, queues := [(0, some { q with cons := (q.cons + 1) % 2 ^ 64 })] } := by
  simp [taken, modQueue, getQueue, h, Tbl.get, Tbl.set, Tbl.erase, Tbl.insert]

/-- What the page of a launch holds past the tables. -/
def launchBytes (bound : Bool) (ltime : Nat) : List (Nat × Byte) :=
  cellsAt 0x40000000 launchWord 64 ++ (cellsAt 0x40000400 (descrWord bound ltime) 128 ++ (cellsAt 0x40000800 image 288 ++ []))

theorem launch_bytes (bound : Bool) (ltime : Nat) : mapped (launchBytes bound ltime) 0x400 128 = bytesN (descrWord bound ltime) 128 ∧
    ∀ n ≤ 288, mapped (launchBytes bound ltime) 0x800 n = bytesN image n := by
  have ht : ∀ k, 0x40000000 ≤ k → Tbl.get 0 (treeBytes ++ launchBytes bound ltime) k = Tbl.get 0 (launchBytes bound ltime) k := by
    intro k h
    simp only [treeBytes, List.append_assoc]
    rw [get_past _ _ _ _ _ (by omega), get_past _ _ _ _ _ (by omega), get_past _ _ _ _ _ (by omega)]
  constructor
  · refine List.map_congr_left fun i hi => ?_
    have hi := List.mem_range.1 hi
    rw [ht _ (by omega), launchBytes, get_past _ _ _ _ _ (by omega), ← Nat.add_assoc, get_cells _ _ _ _ _ hi]
  · intro n hn
    refine List.map_congr_left fun i hi => ?_
    have hi := List.mem_range.1 hi
    rw [ht _ (by omega), launchBytes, get_past _ _ _ _ _ (by omega), get_past _ _ _ _ _ (by omega), ← Nat.add_assoc, get_cells _ _ _ _ _ (by omega)]

/-- The quotation of a launch, from its kernel and its descriptor. -/
def quoted (s : State) (k : Option Kernel) (d : Descr) : Quotation :=
  let u := { s with freeNo := s.freeNo + 64 + 128 + 256 + 288, queues := [(0, some { queue0 with cons := (queue0.cons + 1) % 2 ^ 64 })] }
  fillQuote u 0 (blankQuote u 0 { queue0 with cons := (queue0.cons + 1) % 2 ^ 64 } (packetOf launchWord) d) [] (offerOf u 0 k d [] queue0.descr.ballast)

/-- The quotation that LAUNCH would make in a state. -/
def madeIn (s : State) : Quotation := (makeQuote (taken s 0) 0 { queue0 with cons := (queue0.cons + 1) % 2 ^ 64 } (packetOf launchWord)).1

theorem made_low {s : State} {more : List (Nat × Byte)} {d : Descr} {k : Option Kernel} (hr : (getVi s 0).root = 0x10000) (hs : s.seals = [])
    (hv : (getView s hub0).bytes = treeBytes ++ more) (hq : s.queues = [(0, some queue0)]) (hp : (packetOf launchWord).arg.toNat = 0x400)
    (hd : descrOfRec (natOf (mapped more 0x400 128)) = d) (hi : d.image = 0x800) (he : (layoutOf (natOf (mapped more 0x800 256))).end_ = 288)
    (hk : kernelOf (mapped more 0x800 288) = k) (ha : (match k with | some x => x.args8 | none => 0) = 0) : madeIn s = quoted s k d := by
  unfold madeIn
  rw [taken_low hq]
  exact quote_low (s := { s with freeNo := s.freeNo + 64, queues := [(0, some { queue0 with cons := (queue0.cons + 1) % 2 ^ 64 })] }) hr hs hv rfl hp hd hi he hk ha

theorem test_launch_fields : (layoutOf (natOf (bytesN image 256))).end_ = 288 ∧ (packetOf launchWord).arg.toNat = 0x400 ∧
    (match kernelOf (bytesN image 288) with | some x => x.args8 | none => 0) = 0 := by decide +kernel
theorem test_launch_image (bound : Bool) : (descrOfRec (natOf (bytesN (descrWord bound (if bound then 2 ^ 60 else 0)) 128))).image = 0x800 := by
  cases bound <;> decide +kernel

theorem make_quoted (bound : Bool) : let w := launching bound (if bound then 2 ^ 60 else 0)
    madeIn w = quoted w (kernelOf (bytesN image 288)) (descrOfRec (natOf (bytesN (descrWord bound (if bound then 2 ^ 60 else 0)) 128))) := by
  intro w
  have hv : (getView w hub0).bytes = treeBytes ++ launchBytes bound (if bound then 2 ^ 60 else 0) := by
    simp [w, launching, withPacket, getView, Tbl.get, hub0, launchBytes, List.append_assoc]
  obtain ⟨he, hp, ha⟩ := test_launch_fields
  obtain ⟨h1, h2⟩ := launch_bytes bound (if bound then 2 ^ 60 else 0)
  rw [← h2 288 (by decide)] at ha ⊢
  rw [← h2 256 (by decide)] at he
  have hi := test_launch_image bound
  rw [← h1] at hi ⊢
  exact made_low rfl rfl hv rfl hp rfl hi he rfl ha

/-- A BOUND launch that its limits admit, and a LOOSE one that allows no time. -/
theorem test_hyp_launch (bound : Bool) : let m := madeIn (launching bound (if bound then 2 ^ 60 else 0))
    inLimits m = bound ∧ (bound = true → m.kernel.isSome = true) := by
  intro m
  have e := make_quoted bound
  simp only at e
  simp only [m, e]
  cases bound <;> decide +kernel

theorem launch_next (bound : Bool) (ltime : Nat) : NextCommand (launching bound ltime) 0 queue0 (packetOf launchWord) := by
  refine next_command launchWord _ ?_
  have h : ∀ i ∈ List.range 64, Tbl.get 0 (treeBytes ++ cellsAt 0x40000000 launchWord 64 ++
      (cellsAt 0x40000400 (descrWord bound ltime) 128 ++ cellsAt 0x40000800 image 288)) (0x40000000 + i) = BitVec.ofNat 8 (launchWord / 256 ^ i) := by
    intro i hi
    have hi := List.mem_range.1 hi
    simp only [treeBytes, List.append_assoc]
    rw [get_past _ _ _ _ _ (by omega), get_past _ _ _ _ _ (by omega), get_past _ _ _ _ _ (by omega), get_cells _ _ _ _ _ hi]
  rw [List.map_congr_left h]
  decide +kernel

/-- The other conditions of the LAUNCH clauses. -/
theorem test_hyp_launch_word : isCommand 4 (packetOf launchWord) = true ∧ ∀ p more, (withPacket p more).preds = [] ∧ (withPacket p more).quotes = [] := by
  refine ⟨by decide +kernel, fun p more => ⟨rfl, rfl⟩⟩

/-- A quotation of queue 0 for the packet of ACCEPT: in time, late, and with a hotter die than it was made for. -/
def quote1 (bound : Bool) (floor : Nat) : Quotation :=
  { qid := 1, vi := 0, q := 0, slot := 0, tag := 0, status := 0, detail := 0, offset := 0, qtick := 0, est := 0, accby := 10, floor := floor, dies := 1, pairs := [0], power16 := 0,
    h := [(0, 100)], terms := ⟨0, 0, 0, 0, 0, 0⟩, descr := { (grid id).descr with loose := !bound }, kernel := some (grid id).kernel, argBlock := [], taken := false, dead := false,
    clock := [], rate := 2400 }
def accepting (time : Nat) (bound : Bool) (floor : Nat) (hot : BitVec 16) : State :=
  { withPacket acceptWord [] with quotes := [quote1 bound floor], time := 2520 * time, dies := [(0, { temps := [(0, hot)] })] }

theorem test_hyp_accept :
    (openQuote (accepting 10 true 5 0) 0 1 = some (quote1 true 5, (grid id).kernel)) ∧ tick (accepting 10 true 5 0) ≤ 10 ∧ staleQuote (accepting 10 true 5 0) 0 (quote1 true 5) = false ∧
    10 < tick (accepting 11 true 5 0) ∧ staleQuote (accepting 10 true 5 2000) 0 (quote1 true 5) = true ∧ openQuote (withPacket acceptWord []) 0 1 = none ∧
    (accepting 10 true 5 0).preds = [] ∧ (packetOf acceptWord).arg = 1 ∧ (packetOf declineWord).arg = 1 ∧ queueKey 0 0 = 0 := by decide +kernel

theorem test_hyp_accept_next : NextCommand (accepting 10 true 5 0) 0 queue0 (packetOf acceptWord) := by
  have hv : (getView (accepting 10 true 5 0) hub0).bytes = treeBytes ++ (cellsAt 0x40000000 acceptWord 64 ++ []) := by
    simp [accepting, withPacket, getView, Tbl.get, hub0]
  refine ⟨rfl, ⟨(hubRead (accepting 10 true 5 0) hub0 0 0 64).2, ?_⟩, rfl, by decide⟩
  have hn : nextPacket (accepting 10 true 5 0) 0 =
      some (packetOf (natOf (hubRead (accepting 10 true 5 0) hub0 0 0 64).1), (hubRead (accepting 10 true 5 0) hub0 0 0 64).2) := rfl
  have hb : natOf (hubRead (accepting 10 true 5 0) hub0 0 0 64).1 = acceptWord := by
    rw [read_mapped rfl rfl hv 0 64 (by decide)]
    decide +kernel
  rw [hn, hb]

/-- A BOUND grid that waits with its reservation, and one that has ended with its record at the head of its queue. -/
def waitingGrid : Grid := { grid id with st := .waiting, loose := false, cores := [0, 1] }
def endedGrid : Grid := { grid id with retired := 1 }
def endRec : EvRec := { plainRec {} 0 0 1 with grid := some 0, ready := false }

theorem test_hyp_grids : let r : Reservation :=
      { qid := 1, vi := 0, pairs := [0], cores := [0, 1], point := 5, bwc := 0, bws := 0, power16 := 0, accepted := 0, endTick := 0, rates := [], pinned := [], declared := [] }
    let s : State := { grids := [(0, some waitingGrid)], reservations := [r] }
    let t : State := { grids := [(0, some endedGrid)], queues := [(0, some { queue0 with pending := [endRec] })] }
    (getGrid s 0 = some waitingGrid ∧ queueFree s 0 waitingGrid = true ∧ awaitsPred s 0 = false ∧ waitingGrid.cores.Nodup ∧
      s.reservations.find? (·.qid == waitingGrid.qid) = some r ∧ pairsFree s r.pairs = true ∧ heldBefore s r = false ∧ freePlace (getCore s 1) = some 0 ∧
      (slotsFor (getCore s 1) waitingGrid.kernel).isSome = true) ∧
    (getGrid t 0 = some endedGrid ∧ Machine.running t 0 = false ∧ endedGrid.st ≠ .finished ∧ gridEnded t 0 endedGrid = true ∧ writesSettled t endedGrid = true ∧
      queueKey endedGrid.vi endedGrid.q = 0 ∧ getQueue t 0 = some { queue0 with pending := [endRec] } ∧ ringRoom t queue0 endRec = true) := by decide +kernel
/-- The kernel of the image that `launching` launches. -/
def exitKernel : Kernel := (kernelOf (bytesN image 288)).getD (grid id).kernel

/-! ## Events of contexts, agents and predictions -/

/-- The grid's team in place 0 of core 0, and the grid at a state. -/
def context (f : Grid → Grid) (tm : Team → Team) (tick : Nat) : State :=
  { cores := [(0, { teams := [(0, some (tm { ngroups := 1, groups := [(0, grp 0 0 0)] }))] })], grids := [(0, some (f (grid id)))], prio := [(0, [0])], time := 2520 * tick }

theorem test_hyp_requests :
    let a := context (fun g => { g with sliceEnd := some 5 }) id 5
    let b := context (fun g => { g with st := .saving }) (fun t => { t with saving := some 0, stopped := true, preempt := some 0 }) 5
    let c := context (fun g => { g with st := .saving }) (fun t => { t with saving := some 0, groups := [(0, { grp 0 0 0 with wait := some (waitFor .mmaw) })] }) 20000
    let d := context (fun g => { g with st := .saving }) (fun t => { t with preempt := some 4 }) 5
    ((getGrid a 0).any fun g => g.sliceEnd == some 5 && g.st == .running && !gridOver g) = true ∧ 5 ≤ tick a ∧
    ((getGrid b 0).any fun g => g.st == .saving) = true ∧ forcedReady b 0 = [(0, 0)] ∧ (getTeam b 0 0).grid = 0 ∧
    ((getGrid c 0).any fun g => g.st == .saving) = true ∧ stalledTeam c 0 = some (0, 0) ∧ ((getGrid c 0).any trapped) = false ∧
    ((getGrid d 0).any fun g => lateTeams d 0 g == [(0, 0)]) = true := by decide +kernel

/-- A saved team of the grid, and a grid that waits for its turn with it. -/
def savedTeam : SavedTeam := ⟨0, 0, true, { ngroups := 1, groups := [(0, grp 0 0 0)] }, [], [], none, [], [], 0⟩
def savedGrid : Grid := { grid id with st := .saved, saved := [savedTeam], descr := { (grid id).descr with dies := 1 } }

theorem test_hyp_restore : let s : State := { grids := [(0, some savedGrid)], prio := [(0, [0])] }
    mayRestore s 0 savedGrid = true ∧ restoreCores s 0 savedGrid = some [0] ∧ freePlace (getCore s 0) = some 0 ∧ (slotsFor (getCore s 0) savedGrid.kernel).isSome := by
  decide +kernel

theorem test_hyp_migrate : let s := context id (fun t => { t with groups := [(0, { grp 0 0 0 with wait := some (waitFor (.fetch 0)), arrived := true })], stepping := true }) 0
    (getTeam s 0 0).grid = 0 ∧ canMigrate s 0 0 = true ∧ (usableDies s (grid id).descr.dies).contains (dieOf 863) = true ∧ pairReserved s (pairOf 863) = false ∧
    getGrid s 0 = some (grid id) ∧ fitsCore s 863 0 (grid id) = true := by decide +kernel

theorem test_hyp_host_context : let s := { context id id 0 with vis := [(0, { ctxqid := 1 })] }
    let t := { context (fun g => { g with st := .stopped }) id 0 with vis := [(0, { ctxqid := 1, ctxstate := 2 })] }
    getGrid s 0 = some (grid id) ∧ (getVi s 0).ctxstate ≠ 1 ∧ ctxGrid s 0 = some (0, grid id) ∧ gridOver (grid id) = false ∧ (grid id).st = .running ∧ trapped (grid id) = false ∧
    (getVi t 0).ctxstate ≠ 1 ∧ ((ctxGrid t 0).any fun g => g.2.st == .stopped) = true := by decide +kernel

/-- Core 0 with a record, and a hub whose entry has been drawn. -/
def trappedAt (r : TrapRec) (tick : Nat) : State :=
  { context id id tick with
    cores := [(0, { teams := [(0, some { ngroups := 1, groups := [(0, grp 0 0 0)] })], traps := [(511, some r)] })], hubs := [(0, { ring := [⟨7, some 0, 0, .launch 1⟩, ⟨8, none, 0, .launch 2⟩], tickets := 8, posted := 9 })] }

theorem test_hyp_agents : let s := trappedAt anyRec 50000
    let t := trappedAt { anyRec with code := .bkpt } 0
    nextRecord (getCore s 0) = some (511, anyRec) ∧ getGrid s (getTeam s 0 anyRec.teamx).grid = some (grid id) ∧ Machine.running s 0 = false ∧ ends (grid id) anyRec.code = true ∧
    nextRecord (getCore t 0) = some (511, { anyRec with code := .bkpt }) ∧ ends (grid id) .bkpt = false ∧ (getHub s 0).ring[0]? = some ⟨7, some 0, 0, .launch 1⟩ ∧ 0 + 50000 ≤ tick s ∧
    (∀ y ∈ (getHub s 0).ring.eraseIdx 0, y.work ≠ .launch 1 ∧ y.ticket % 4096 ≠ (getHub s 0).posted % 4096) ∧ (∀ y ∈ s.cores, y.2.ticket ≠ some (0, (getHub s 0).posted)) ∧
    drawnAbove s 0 0 = false ∧ (getCore s 0).ticket = none ∧ (getDie s (dieOf 0)).tripped = none ∧
    (getHub s 0).ring[1]? = some ⟨8, none, 0, .launch 2⟩ ∧ 8 % 4096 = (getHub s 0).tickets % 4096 ∧ 7 % 4096 ≠ (getHub s 0).tickets % 4096 ∧
    drawnAbove { hubs := [(0, { lastDraw := (1, 5) })] } 0 4 = true := by decide +kernel

/-- A queue whose last two launches were the same, and a prediction of it for the waiting launch 1. -/
def entry0 : HistEntry := ⟨exitKernel, { (grid id).descr with dies := 1 }, [], true⟩
def predicting (p : Prediction) (g : Grid) (tick : Nat) : State :=
  { grids := [(0, some { grid id with pred := some 0 }), (1, some g)], preds := [(0, some p)], time := 2520 * tick }
def pred0 : Prediction :=
  { vi := 0, q := 0, grid := 0, readSet := [], shadows := [], power16 := 0, finished := some 0, adopted := false, launch := none, checked := false }

theorem test_hyp_predict : let s : State := { queues := [(0, some { queue0 with history := [entry0, entry0], lastBound := some 5 })] }
    (mayPredict s 0).isSome = true ∧ (mayPredict s 1).isNone = true := by decide +kernel

theorem test_hyp_predictions : let r : Grid := { grid id with st := .waiting, terms := ⟨0, 0, 0, 600, 0, 0⟩ }
    let a := predicting pred0 r (1000 * 10000)
    let b := predicting { pred0 with launch := some (1, 0) } r 0
    let c := predicting { pred0 with launch := some (1, 0), readSet := [⟨0, 0, 0, 0⟩] } r 0
    let d := predicting { pred0 with launch := some (1, 0), checked := true } r 0
    let e := predicting { pred0 with launch := some (1, 0) } r 0
    let e := { e with grids := Tbl.set e.grids 0 (some { grid id with pred := some 0, traps := [anyRec] }) }
    ((getGrid e 0).any fun g => !g.traps.isEmpty) = true ∧ ((getGrid b 0).any fun g => g.traps.isEmpty) = true ∧ getGrid e 1 = some r ∧
    predOf a 0 = some (0, pred0) ∧ getPred a 0 = some pred0 ∧ (getGrid a 0).isSome ∧ 0 + 1000 * max 1 a.prdHold ≤ tick a ∧
    getGrid b 1 = some r ∧ predOf b 0 = some (0, { pred0 with launch := some (1, 0) }) ∧ viewsReady b { pred0 with launch := some (1, 0) } r.clock = true ∧
    gensAgree b { pred0 with launch := some (1, 0) } = true ∧ claimTicks 0 ≤ r.terms.wct ∧
    viewsReady c { pred0 with launch := some (1, 0), readSet := [⟨0, 0, 0, 0⟩] } r.clock = true ∧
    gensAgree c { pred0 with launch := some (1, 0), readSet := [⟨0, 0, 0, 0⟩] } = false ∧ predOf d 0 = some (0, { pred0 with launch := some (1, 0), checked := true }) ∧
    ({ flyWrite := some 3 } : State).preds = [] := by decide +kernel

/-- A checked prediction with one shadow, whose page the tables of `withPage` map to HBM. -/
theorem test_hyp_claim : let x : Shadow := ⟨0, 0, 65536, 0x40000000, 0x8000000, []⟩
    let p := { pred0 with launch := some (1, 0), checked := true, shadows := [x] }
    let s := { predicting p { grid id with st := .waiting } 0 with vis := [(0, { root := 0x10000 })], views := [(8, { bytes := treeBytes })] }
    predOf s 0 = some (0, p) ∧ walkTree s x.vi x.va = some leaf ∧ keyTgt (leafKey leaf (pageBase leaf x.va)) = 0 ∧ x.size = 65536 ∧ x.frame < 2 ^ 48 := by
  refine ⟨by decide +kernel, walk_low (more := []) rfl rfl (by decide), by decide +kernel, rfl, by decide⟩

/-! ## Events of the fabric, of power and heat, of the host and of bring-up -/

/-- A flit, with its CRC or with a bit of it changed. -/
def flit (t seq : Nat) (ok : Bool) : Flit :=
  let f := sealFlit (BitVec.ofNat 4 t) 0 (BitVec.ofNat 12 seq) 0
  if ok then f else { f with crc := f.crc ^^^ 1 }

/-- The CRC does not cover itself. -/
theorem crc_apart (f : Flit) (c : BitVec 32) : flitCrc { f with crc := c } = flitCrc f := by simp only [flitCrc, flitBody]

/-- A flit with its CRC is good where its type is assigned; one with a bit of the CRC changed never is (R408, R409). -/
theorem test_flit_good (t seq : Nat) (ok : Bool) : flitGood (flit t seq ok) = (ok && decide ((BitVec.ofNat 4 t).toNat ≤ 4)) := by
  have hc : flitCrc (flit t seq ok) = flitCrc (flit t seq true) := by
    cases ok with
    | true => exact rfl
    | false => simp only [flit, if_true, Bool.false_eq_true, if_false]; exact crc_apart _ _
  have hs : (flit t seq true).crc = flitCrc (flit t seq true) := by simp only [flit, sealFlit, if_true]; exact (crc_apart _ _).symm
  have ht : (flit t seq ok).type = BitVec.ofNat 4 t := by cases ok <;> rfl
  rw [flitGood, hc, ht]
  cases ok with
  | true => simp [hs]
  | false =>
    have : (flit t seq false).crc = flitCrc (flit t seq true) ^^^ 1 := by rw [← hs]; simp only [flit, if_true, Bool.false_eq_true, if_false]
    have ne : (flitCrc (flit t seq true) ^^^ 1 == flitCrc (flit t seq true)) = false := by
      rw [beq_eq_false_iff_ne]
      intro h
      have := congrArg (·.getLsbD 0) h
      simp at this
    simp only [this, ne, Bool.false_and]

theorem test_hyp_flits : let s : State := { ports := [(0, { txq := [(3, [1])], replay := [(3, flit 1 4095 true)] }), (1, { ctl := [flit 2 0 true] }), (2, { replay := [(3, flit 1 4095 true)], resend := 1 })] }
    (getPort s 0).busyTo ≤ s.time ∧ (∀ l < 4, repairDue s 0 l = false) ∧ (getPort s 2).resend = ([] : List Flit).length + 1 ∧
    portCarries (getPort s 0) = true ∧ (getPort s 0).ctl = [] ∧ (getPort s 0).resend = 0 ∧ (getPort s 0).txq = [(3, [1])] ∧ (getPort s 0).replay.length < 512 ∧
    portCarries (getPort s 1) = true ∧ (getPort s 1).ctl = [flit 2 0 true] ∧ (flit 1 0 true).type = 1 ∧
    (flit 1 0 true).seq = seqOf (getPort s 0).expect ∧ (flit 1 4095 true).seq ≠ seqOf (getPort s 0).expect ∧ (getPort s 0).asked = false ∧
    (getPort s 0).replay = [] ++ (3, flit 1 4095 true) :: [] ∧ (flit 1 4095 true).seq = 4095 ∧
    flitGood (flit 1 0 true) = true ∧ flitGood (flit 1 4095 true) = true ∧ flitGood (flit 1 0 false) = false ∧ flitGood (flit 5 0 true) = false := by
  refine ⟨by decide, by decide, by decide, by decide, by decide, by decide, by decide, by decide, by decide, rfl, rfl, rfl, by decide, by decide, rfl, rfl, ?_, ?_, ?_, ?_⟩ <;> rw [test_flit_good] <;> decide

/-- A port with a bad lane under repair, one that retrains, one that has shed its lanes and whose queue has passed 8 flits, and one amid a flit that its far end has told of a lane. -/
def somePorts : State :=
  { ports := [(0, { errs := [(3, List.replicate 65 5000)], repairing := [(3, 0)] }), (1, { st := .retraining 5 }), (2, { st := .shed, highSince := 1 }), (4, { told := [2], busyTo := 2520 * 20000 })], time := 2520 * 10000 }

theorem test_hyp_lanes : let s := somePorts
    portCarries (getPort s 0) = true ∧ (getPort s 0).good.getLsbD 3 = true ∧ (getPort s 0).busyTo ≤ s.time ∧ (getPort s 0).ethr < (laneErrors (getPort s 0) 3 (tick s)).length ∧ (getPort s 0).repairing = (3, 0) :: [] ∧
    (getPort s 1).st = .retraining 5 ∧ canShed s 3 = true ∧ (getPort s 2).st = .shed ∧ (getPort s 2).highSince ≠ 0 ∧ portCarries (getPort s 4) = true ∧
    (getPort s 4).good.getLsbD 2 = true ∧ 2 ∈ (getPort s 4).told ∧ s.time < (getPort s 4).busyTo ∧ 3 ∉ (getPort s 0).told := by decide +kernel

/-- The page of `withPage` as a page of peer 0, which no port reaches. -/
def peerPage : State := { withPage [fatom0 .queued none] [] with views := [(8, { bytes := (0x30007, 0xE0) :: treeBytes })], time := 2520 * 5000 }

theorem test_hyp_peer : peerLost peerPage 0 = true ∧ peerPage.cores.map (·.1) = [0] ∧ trapRoom peerPage 0 0 (fatom0 .queued none).group = true ∧
    (∃ g, teamGrid peerPage (getTeam peerPage 0 0) = some g ∧ needsPeer peerPage g 0 (fatom0 .queued none) = true) ∧ (getCore peerPage 0).copyq = [fatom0 .queued none] ∧
    (getTeam peerPage 0 0).jobs = [] ∧ (getCore { context id id 0 with cores := [(0, { hostReads := [0] })] } 0).hostReads = [0] ∧ (getGrid peerPage 0).isSome := by
  refine ⟨by decide +kernel, by decide, by decide +kernel, ⟨pageGrid, rfl, by decide +kernel⟩, by decide, by decide, by decide +kernel, by decide +kernel⟩

theorem test_hyp_points : let s : State := { clusters := [(0, { change := .slewUp 0 0 }), (1, { change := .slewDown 5 0 }), (2, { change := .switch 5 0 }), (3, { sampleDue := 0 })] }
    (getCluster s 0).change = .slewUp 0 0 ∧ 0 ≤ tick s ∧ (getCluster s 0).cur ≠ 0 ∧ (getCluster s 1).change = .slewDown 5 0 ∧ (getCluster s 2).change = .switch 5 0 ∧
    (getCluster s 3).sampleDue ≤ tick s ∧ governed (getCluster s 3) = true ∧ denial (getCluster s 4) 5 = none ∧ denial (getCluster s 4) 6 = some 0 := by decide +kernel

/-- A cluster that was idle in most of its sample, a busy one, one whose point the host sets, and one that a sensor has stopped. -/
def sampled : State :=
  { clusters := [(0, { stallIdle := 200 }), (1, { cur := 4 }), (2, { mode := true }), (3, { throttle := .stopped 5, mode := true }), (4, { stallIdle := 100, cur := 3 })], time := 2520 * 10000 }

theorem test_hyp_governor : let s := sampled
    let ratio := fun n => let c := getCluster s n; if cyclesAt c s.time ≤ c.sampleCyc then 0 else min 255 (c.stallIdle * 256 / (cyclesAt c s.time - c.sampleCyc))
    governed (getCluster { s with time := 2520 * 100 } 0) = true ∧ 160 ≤ 200 * 256 / cyclesAt (getCluster s 0) (2520 * 100) ∧ ratio 1 ≤ 48 ∧ governed (getCluster s 1) = true ∧
    governed (getCluster s 2) = false ∧ (getCluster s 2).sampleDue ≤ tick s ∧ (getCluster s 3).throttle ≠ .run ∧ (getCluster s 2).throttle = .run ∧ (getCluster s 2).held = 7 := by decide +kernel

/-- A cluster past its barred window, two throttled ones, and a die that has tripped. -/
def hot : State :=
  { clusters := [(0, { barredTo := 71, cycBase := 71 }), (1, { throttle := .stopped 0 }), (2, { throttle := .hold 0 }), (9, { throttle := .stopped 0 })], dies := [(0, { tripped := some 0 })], ballastSet := 10 }

theorem test_hyp_heat : let s := hot
    (getCluster s 0).barredTo ≠ 0 ∧ (getCluster s 0).barredTo ≤ cyclesAt (getCluster s 0) s.time ∧ (getCluster s 9).throttle = .stopped 0 ∧ (getDie s (9 / 9)).tripped = none ∧
    (getCluster s 2).throttle = .hold 0 ∧ (getDie s 0).tripped = some 0 ∧ (getCluster s 0).throttle ≠ .off ∧ (getDie s 1).tripped = none ∧
    (List.replicate 16 (0 : BitVec 16)).length = 16 ∧ (∃ i < 16, 2000 ≤ ((List.replicate 16 (2000 : BitVec 16)).getD i 0).toInt) ∧
    (∀ i < 16, ((List.replicate 16 (1759 : BitVec 16)).getD i 0).toInt < 1760) ∧ (105 : Byte).toNat = 105 ∧ (List.replicate 8 2501).length = 8 ∧ s.ballastOn = false ∧
    (9 : BitVec 16).toNat < min s.ballastSet.toNat 10000 ∧ overCurrent s = false ∧ 10 < (11 : BitVec 16).toNat ∧ firstPred s = none ∧ ({ s with burn := 1 } : State).burn ≠ 0 := by decide +kernel

/-- A sensor between the throttle and the trip point, over a running cluster of its own. -/
theorem test_hyp_throttle : let temps := (List.replicate 16 (1599 : BitVec 16)).set 6 1760
    temps.length = 16 ∧ (∀ i < 16, (temps.getD i 0).toInt < 2000) ∧ 1760 ≤ (temps.getD 6 0).toInt ∧ (getCluster ({} : State) 0).throttle = .run ∧ (getDie ({} : State) 0).tripped = none ∧
    clockStopped (getCluster hot 1) = true ∧ clockStopped (getCluster hot 0) = false := by decide +kernel

theorem test_hyp_host_page : HostPage (withPage [] []) 0 0 0x40000000 :=
  ⟨⟨leaf, walk_page [] [], by decide +kernel, by decide +kernel⟩, by decide, by decide +kernel⟩

/-- An interface with a page, one that owns a loaded slot, one whose page a grid has pinned, and a request for a report. -/
def hostSide : State :=
  { withPage [] [] with
    keys := [(255, { owner := some 0 })], vis := [(0, { root := 0x10000, keysel := 255, keybytes := List.replicate 63 0 })],
    reservations := [{ qid := 1, vi := 1, pairs := [], cores := [], point := 5, bwc := 0, bws := 0, power16 := 0, accepted := 0, endTick := 0, rates := [], pinned := [0], declared := [] }],
    boot := { attest := [(0, 64)] } }

theorem test_hyp_host : let s := hostSide
    badRead s 0 0 1 = none ∧ badRead s 0 (2 ^ 57) 1 = some (2 ^ 57) ∧ walkTree s 1 0 = none ∧ pinnedPages s 0 = [] ∧ pinnedPages s 1 ≠ [] ∧
    (getVi s 0).keybytes.length + 0 < 64 ∧ 64 ≤ (getVi s 0).keybytes.length + 1 ∧ (getVi s 0).keysel.toNat ≠ 0 ∧ (getVi s 0).keysel.toNat < 256 ∧ vaSeal s 0 0 ≠ lostSeal ∧ opens s (vaSeal s 0 0) 0x40000000 = true ∧
    (getKey s (getVi s 0).keysel.toNat).owner = some 0 ∧ pinnedKey s 0 255 = false ∧ (getKey s (getVi s 1).keysel.toNat).owner ≠ some 1 ∧
    s.boot.attest = (0, 64) :: [] ∧ (∀ i < 8, bar0Assigned (0x3000 + i) = true) ∧ (∃ i < 8, bar0Assigned (0x8 + i) = false) := by decide +kernel

/-- Trigger units of die 0 at the last unit of tick 0, and a stop tick. -/
def armed : State :=
  { time := 2519, stopTick := 0, dies := [(0, { trig := [(0, { armed := some 0, tstart := 0x1000000000000000 }), (3, { armed := some 0, open_ := true, tstop := 0x1000000000000000 })] })] }

theorem test_hyp_debug : let s := armed
    let t : State := { time := 2520 * 7 - 1, stopTick := 6 }
    (getTrig (getDie s 0) 0).armed = some 0 ∧ (getTrig (getDie s 0) 0).open_ = false ∧ closing s = [(0, 3)] ∧
    condHolds s (getDie s 0) 0 (getTrig (getDie s 0) 0).tstart = true ∧ t.stopTick ≠ 0 ∧ t.stopTick.toNat = tick t ∧ tickEnds t = true ∧ t.stopped = false ∧
    bar0Assigned 0 = true ∧ bar0Assigned 8 = false := by decide +kernel

/-- The states of recovery: idle, verifying, verified, committing, committed with an image that raises, and a debug check in progress. -/
theorem test_hyp_bringup : let boot := fun (n : Nat) (c : Bool) => ({ rcvStatus := n, rcvCommit := c } : Boot)
    (boot 0 false).rcvStatus ≠ 1 ∧ (boot 1 false).rcvCommit = false ∧ (boot 2 false).rcvStatus = 2 ∧ (boot 1 true).rcvCommit = true ∧ (boot 6 false).rcvStatus = 6 ∧
    raiseOf (List.replicate 12 0 ++ [1]) = true ∧ ({ unlockStatus := 3 } : Boot).unlockStatus = 3 := by decide +kernel

/-! ## The machine as a whole -/

theorem test_hyp_encode : (Instr.next Guard.always 3 0).wf = true ∧ placeOk ⟨32, 32⟩ (.next Guard.always 3 0) = true := by decide

/-- One step after reset runs the word that has been placed: IADD v8 = v0 + 5 in lane 31. -/
def placed : State := State.reset.withFetchWord 64 (encode (.iadd (ops (.v 8) (.v 0) (.imm 5) .zero)))

/-- What a fetch gives, where it gives an instruction. -/
def fetched (u : State) (r : Ready) : Option (Instr × Nat) :=
  let code := teamCode u (getTeam u r.core r.tx)
  match fetchAt code.1 code.2 r.pc with
  | .ok x => some x
  | .error _ => none

theorem test_hyp_step : ∃ r u, nextMove placed = (.issue r, u) ∧ (let code := teamCode u (getTeam u r.core r.tx)
    let b := breakpoint (noteWord (issuing u r))
    fetchAt code.1 code.2 r.pc = .ok (.iadd (ops (.v 8) (.v 0) (.imm 5) .zero), 8) ∧ b.2 = false ∧
      (Instr.iadd (ops (.v 8) (.v 0) (.imm 5) .zero)).overBudget (curGroup b.1).budget = false) := by
  have h : (match nextMove placed with
    | (.issue r, u) =>
      let b := breakpoint (noteWord (issuing u r))
      fetched u r == some (.iadd (ops (.v 8) (.v 0) (.imm 5) .zero), 8) && !b.2 &&
        !(Instr.iadd (ops (.v 8) (.v 0) (.imm 5) .zero)).overBudget (curGroup b.1).budget
    | _ => false) = true := by decide +kernel
  revert h
  cases hm : nextMove placed with
  | mk m u =>
    cases m with
    | issue r =>
      intro h
      simp only [Bool.and_eq_true, Bool.not_eq_true', beq_iff_eq] at h
      refine ⟨r, u, rfl, ?_, h.1.2, h.2⟩
      have hf := h.1.1
      simp only [fetched] at hf
      split at hf
      · simp_all
      · simp at hf
    | event => simp
    | input => simp
    | atEnd => simp
    | pass => simp

theorem test_hyp_svn : (0 : Nat) ≤ State.reset.boot.fuseSvn := by decide

/-! ## Single steps -/

/-- A lane of the group of `withFetchWord` after one step. -/
def stepped (i : Instr) (l : Nat) : Option Lane :=
  match Machine.step (State.reset.withFetchWord 128 (encode i)) with
  | .next t => some (laneOf t 0 0 0 l)
  | _ => none

/-- R112: the sum of 0 and 5; its lane goes on to the next word (R53). -/
theorem test_iadd : ((stepped (.iadd (ops (.v 8) (.v 0) (.imm 5) .zero)) 31).map fun m => (Tbl.get 0 m.v 8, m.y0, m.pc)) = some (5, 5, 64) := by decide +kernel
/-- R112: the difference wraps. -/
theorem test_isub : ((stepped (.isub (ops (.v 8) (.v 0) (.imm 1) .zero)) 0).map fun m => Tbl.get 0 m.v 8) = some 0xFFFFFFFF := by decide +kernel
/-- R111: ISET writes a predicate. -/
theorem test_iset : ((stepped (.iset (ops (.p 3) (.v 0) (.imm 0) .zero) .eq true) 0).map fun m => (m.p.getLsbD 3, m.y0)) = some (true, 0) := by decide +kernel
/-- R145: a taken branch. -/
theorem test_bra : ((stepped (.bra Guard.always 0) 7).map (·.pc)) = some 0 := by decide +kernel
/-- R153: EXIT ends a lane. -/
theorem test_exit : ((stepped (.exit Guard.always) 7).map (·.st)) = some .exited := by decide +kernel
/-- R381, R385: TRAP parks the lanes at the word. -/
theorem test_trap : ((stepped (.trap Guard.always (.imm 3)) 7).map fun m => (m.st, m.pc)) = some (.parked, 32) := by decide +kernel
/-- R116: MOVI takes all 32 bits. -/
theorem test_movi : ((stepped (.movi Guard.always (.v 1) 0x80000001) 0).map fun m => Tbl.get 0 m.v 1) = some 0x80000001 := by decide +kernel
/-- R127: the product of 1.5 and 2. -/
theorem test_fmul : FFmt.f32.mul .rn false 0x3FC00000 0x40000000 = (0x40400000, 0) := by decide +kernel
/-- R185: the six-group team of the rule, whose slots sum phase by phase; and with a WAITBAR all costs together. -/
theorem test_team_cycles : let g := fun (l : List Nat) => l.map fun n => ({ cyc := n } : Phase)
    let cols := [(1, g [120, 120, 300, 300, 300, 300]), (1, g [40, 40, 500, 500, 500, 500])]
    teamCycles true [0, 1, 2, 3, 0, 1] cols = 960 ∧ teamCycles false [0, 1, 2, 3, 0, 1] cols = 3520 := by decide +kernel
/-- R91: a tie goes to the even value, and is inexact. -/
theorem test_fadd_tie : FFmt.f32.add .rn false 0x3F800000 0x33800000 = (0x3F800000, 1) := by decide +kernel

end Sys2Proof.Tests
end

section
/-! SUPPORT. The vector words with a 32-bit result: from what a value word does to its lanes (`valueWord_spec`) to the statement `Value32`, once for every
operation. -/
namespace Sys2Proof.Claims

open Sys2Proof.Machine Sys2Proof.Safety

/-! ## A lane's registers after a delivery -/

theorem vreg_writeSpec (m : Lane) (d : Spec) (x : Word) (n : Fin 1536) :
    vreg (writeSpec m d x) n = if d = .v n then x else vreg m n := by
  cases d <;> simp [vreg, writeSpec, Tbl.get_put, Fin.ext_iff]

theorem oreg_writeSpec (m : Lane) (d : Spec) (x : Word) (n : Fin 32) :
    oreg (writeSpec m d x) n = if d = .o n then x else oreg m n := by
  cases d <;> simp [oreg, writeSpec, Tbl.get_put, Fin.ext_iff]

/-- An active lane of a 32-bit value word (R48, R95, R111). -/
theorem gets32_deliver (m : Lane) (d : Spec) (x : Word) (fl : Flags) (pc : Nat) :
    Gets32 m { deliver { m with flags := Flags.accrue m.flags fl } d (.w x) with pc := pc } d x fl pc where
  v := vreg_writeSpec { m with flags := Flags.accrue m.flags fl } d x
  o := oreg_writeSpec { m with flags := Flags.accrue m.flags fl } d x
  y := by cases d <;> exact ⟨rfl, rfl, rfl, rfl⟩
  flags := by cases d <;> rfl
  pc := rfl
  rest := by cases d <;> rfl

/-- A guarded-off lane of a 32-bit value word (R48). -/
theorem idlesShifting_idleLane (m : Lane) (d : Spec) (pc : Nat) :
    IdlesShifting m { idleLane false d m with pc := pc } d pc where
  y := by cases d <;> exact ⟨rfl, rfl, rfl, rfl⟩
  pc := rfl
  rest := rfl

/-! ## Value words and integer operations -/

/-- A value word whose lanes all answer 32-bit results and raise no enabled flag completes as R111 says. -/
theorem value32_valueWord (s : State) (g : Guard) (d : Spec) (f : Group → Nat → Option (LVal × Flags)) (x : Nat → Word) (fl : Nat → Flags)
    (hf : ∀ l ∈ active s g, f (curGroup s) l = some (.w (x l), fl l))
    (he : ∀ l ∈ active s g, Flags.enabled (curFpen s) (fl l) = 0) :
    Value32 s (.next (valueWord false g d f s)) g d x fl := by
  obtain ⟨frame, on, off⟩ := valueWord_spec false g d f s (fun l => .w (x l)) fl hf he
  refine ⟨_, rfl, frame, fun l hl => ?_, fun l hl hoff => ?_⟩
  · rw [lane, lane, on l hl]
    exact gets32_deliver _ d (x l) (fl l) _
  · rw [lane, lane, off l hl hoff]
    exact idlesShifting_idleLane _ d _

theorem enabled_zero (fpen : BitVec 5) : Flags.enabled fpen 0 = 0 := BitVec.zero_and

/-- A pairable operation that is one of `intOp`'s and writes no predicate: it reads 32-bit sources and raises no flag. For a given operation the three
facts hold by computation. -/
structure IntWord (p : POp) : Prop where
  toPred : p.toPred = false := by rfl
  srcRegs : p.srcRegs = 1 := by rfl
  laneOp : ∀ a b c pc, laneOp p a b c pc = some (intOp p (a.setWidth 32) (b.setWidth 32) (c.setWidth 32) pc, 0) := by intros; rfl

@[simp] theorem setWidth_wide (x : Word) : (wide x).setWidth 32 = x := by simp [wide]

theorem popLane_int {p : POp} (hp : IntWord p) (o : Ops) (grp : Group) (l : Nat) :
    popLane p o grp l = some (intOp p (readSrc grp l o.a) (readSrc grp l o.b) (readSpec grp l o.c) (readPred grp l o.c), 0) := by
  simp [popLane, popA, hp.srcRegs, hp.laneOp]

/-- An integer word gives every active lane what `intOp` computes from the lane's sources (R111). -/
theorem value32_popWord (p : POp) (hp : IntWord p) (o : Ops) (s : State) {x : Nat → Word}
    (hx : ∀ l, intOp p (src s o.a l) (src s o.b l) (spec s o.c l) (readPred (curGroup s) l o.c) = .w (x l)) :
    Value32 s (.next (popWord p o s)) o.g o.d x quiet := by
  rw [popWord, hp.toPred]
  refine value32_valueWord s o.g o.d _ x quiet (fun l _ => ?_) (fun _ _ => enabled_zero _)
  rw [popLane_int hp]
  exact congrArg (fun v => some (v, (0 : Flags))) (hx l)

end Sys2Proof.Claims
end

section
/-! SUPPORT. What the model's shift, bit-field and bit-count functions compute, in the words of R89, R112 and R113. -/
namespace Sys2Proof.Machine

/-! ## Rotation -/

/-- ROT (R112). -/
theorem rotateLeft_sh5 (a b : Word) : a.rotateLeft (sh5 b) = a <<< (b.toNat % 32) ||| a >>> (32 - b.toNat % 32) := by
  simp only [BitVec.rotateLeft_def, sh5, Nat.mod_mod]

/-! ## Bit fields (R113) -/

/-- The position of a control word. -/
theorem toNat_ctlPos (ctl : Word) : (ctl.extractLsb' 0 5).toNat = ctl.toNat % 32 := by
  simp [BitVec.extractLsb'_toNat]

/-- The length of a control word, not yet cut at bit 31. -/
theorem toNat_ctlLen (ctl : Word) : (ctl.extractLsb' 8 6).toNat = ctl.toNat / 2 ^ 8 % 64 := by
  simp [BitVec.extractLsb'_toNat, Nat.shiftRight_eq_div_pow]

theorem toNat_field (a : Word) (pos len : Nat) : (a.extractLsb' pos len).toNat = a.toNat / 2 ^ pos % 2 ^ len := by
  rw [BitVec.extractLsb'_toNat, Nat.shiftRight_eq_div_pow]

theorem ofNat_mul_two_pow (x k : Nat) : BitVec.ofNat 32 (x * 2 ^ k) = BitVec.ofNat 32 x <<< k := by
  apply BitVec.eq_of_toNat_eq
  simp [Nat.shiftLeft_eq]

/-- Sign extension by the top bit, as R113 writes it. -/
theorem signExtend_eq_ite_topBit {n : Nat} (f : BitVec n) :
    f.signExtend 32 = if f.toNat / 2 ^ (n - 1) % 2 = 1 then BitVec.ofInt 32 ((f.toNat : Int) - 2 ^ n) else BitVec.ofNat 32 f.toNat := by
  have top : f.msb = decide (f.toNat / 2 ^ (n - 1) % 2 = 1) := by
    rw [BitVec.msb_eq_getLsbD_last, BitVec.getLsbD, Nat.testBit_eq_decide_div_mod_eq]
  rw [BitVec.signExtend, BitVec.toInt_eq_msb_cond, top]
  by_cases h : f.toNat / 2 ^ (n - 1) % 2 = 1
  · simp [h]
  · simp [h]

/-- A field of a word extended to a word, by zeros or by its top bit, in the arithmetic of R113. -/
theorem extend_field (uns : Bool) (a : Word) (pos len : Nat) :
    (if uns then (a.extractLsb' pos len).setWidth 32 else (a.extractLsb' pos len).signExtend 32) =
      if len = 0 then (0 : Word)
      else if !uns && a.toNat / 2 ^ pos % 2 ^ len / 2 ^ (len - 1) % 2 == 1 then
        BitVec.ofInt 32 (((a.toNat / 2 ^ pos % 2 ^ len : Nat) : Int) - 2 ^ len)
      else BitVec.ofNat 32 (a.toNat / 2 ^ pos % 2 ^ len) := by
  obtain rfl | hlen := Nat.eq_zero_or_pos len
  · simp [BitVec.of_length_zero]
  · rw [if_neg (Nat.ne_of_gt hlen), signExtend_eq_ite_topBit, ← BitVec.ofNat_toNat, toNat_field]
    cases uns <;> simp

/-- BFX takes `len` bits from `pos` on, cut at bit 31, and extends them by zeros or by their top bit. -/
theorem bfx_eq_extend (uns : Bool) (a ctl : Word) :
    bfx uns a ctl =
      let pos := (ctl.extractLsb' 0 5).toNat
      let f := a.extractLsb' pos (min (ctl.extractLsb' 8 6).toNat (32 - pos))
      if uns then f.setWidth 32 else f.signExtend 32 := by
  dsimp only
  rw [extend_field, toNat_ctlPos, toNat_ctlLen]
  rfl

/-- BFI replaces `len` bits of its base from `pos` on, cut at bit 31. -/
theorem bfi_eq_masked (a ctl c : Word) :
    bfi a ctl c =
      let pos := (ctl.extractLsb' 0 5).toNat
      let mask : Word := BitVec.ofNat 32 (2 ^ min (ctl.extractLsb' 8 6).toNat (32 - pos) - 1) <<< pos
      (c &&& ~~~mask) ||| (a <<< pos &&& mask) := by
  simp only [bfi, toNat_ctlPos, toNat_ctlLen, ofNat_mul_two_pow]

/-! ## Counting bits (R112) -/

/-- POPC counts the set bits. -/
theorem popCount_eq_length_filter (x n : Nat) : popCount x n = ((List.range n).filter x.testBit).length := by
  induction n with
  | zero => rfl
  | succ n ih =>
    rw [popCount, ih, List.range_succ, List.filter_append, List.length_append, ← Nat.toNat_testBit]
    cases h : x.testBit n
    · simp [h]
    · simp [h, Nat.add_comm]

theorem lt_two_pow_bitLen (x : Nat) : x < 2 ^ bitLen x := by
  rw [bitLen]
  split
  · omega
  · exact Nat.lt_log2_self

theorem bitLen_le {x n : Nat} (h : x < 2 ^ n) : bitLen x ≤ n := by
  rw [bitLen]
  split
  · omega
  · next hx => exact (Nat.log2_lt hx).mpr h

/-- The highest bit of a number other than 0 is set. -/
theorem testBit_bitLen_pred {x : Nat} (h : bitLen x ≠ 0) : x.testBit (bitLen x - 1) = true := by
  have hx : x ≠ 0 := by rintro rfl; exact h rfl
  simpa [bitLen, hx] using Nat.testBit_log2 hx

/-- The length of the initial part of a range on which `p` holds: all numbers below `k` have it, and `k` does not or is the end. -/
theorem length_takeWhile_range {p : Nat → Bool} {k n : Nat} (hk : k ≤ n) (below : ∀ i < k, p i = true) (stop : k < n → p k = false) :
    ((List.range n).takeWhile p).length = k := by
  obtain ⟨m, rfl⟩ := Nat.exists_eq_add_of_le hk
  rw [List.range_add, List.takeWhile_append_of_pos fun i hi => below i (List.mem_range.mp hi)]
  cases m with
  | zero => simp
  | succ m => simp [List.range_succ_eq_map, stop (by omega)]

/-- CLZ counts the zero bits above the highest set bit, and all 32 where there is none. -/
theorem length_leadingZeros (a : Word) :
    ((List.range 32).takeWhile fun i => !a.getMsbD i).length = 32 - bitLen a.toNat := by
  have hle : bitLen a.toNat ≤ 32 := bitLen_le a.isLt
  refine length_takeWhile_range (Nat.sub_le _ _) (fun i hi => ?_) (fun hlt => ?_)
  · have hzero : a.toNat.testBit (31 - i) = false :=
      Nat.testBit_lt_two_pow (Nat.lt_of_lt_of_le (lt_two_pow_bitLen _) (Nat.pow_le_pow_right (by decide) (by omega)))
    simp [BitVec.getMsbD_eq_getLsbD, BitVec.getLsbD, hzero]
  · have htop : a.toNat.testBit (31 - (32 - bitLen a.toNat)) = true := by
      rw [show 31 - (32 - bitLen a.toNat) = bitLen a.toNat - 1 by omega]
      exact testBit_bitLen_pred (by omega)
    simp [BitVec.getMsbD_eq_getLsbD, BitVec.getLsbD, htop, hlt]

/-! ## Reversal (R112) -/

/-- After `n` steps the low `n` bits stand reversed at the top of the word. -/
theorem bitReverse_eq_reverse (x n : Nat) (hn : n ≤ 32) :
    bitReverse x n = (BitVec.ofNat n x).reverse.toNat * 2 ^ (32 - n) := by
  induction n with
  | zero => simp [bitReverse, BitVec.of_length_zero]
  | succ n ih =>
    have top : (BitVec.ofNat (n + 1) x).msb = x.testBit n := by
      simp [BitVec.msb_eq_getLsbD_last, BitVec.getLsbD]
    have shift : 32 - n = (31 - n) + 1 := by omega
    rw [bitReverse, ih (by omega), BitVec.reverse, BitVec.toNat_concat, top, Nat.toNat_testBit,
      BitVec.truncate_eq_setWidth, BitVec.setWidth_ofNat_of_le (Nat.le_add_right n 1), shift, Nat.add_sub_add_right 31 1 n, Nat.pow_succ,
      Nat.add_mul, Nat.mul_assoc, Nat.mul_comm 2, Nat.add_comm]

/-- BREV (R112). -/
theorem ofNat_bitReverse (a : Word) : BitVec.ofNat 32 (bitReverse a.toNat 32) = a.reverse := by
  simp [bitReverse_eq_reverse]

end Sys2Proof.Machine
end

section
namespace Sys2Proof.Claims

open Sys2Proof.Machine

/-- Settles O3: each word is one integer operation of `popWord`, and the lemmas on the model's functions say what it computes. -/
theorem shiftAndBitWords : Obligations.ShiftAndBitWords := by
  unfold Obligations.ShiftAndBitWords
  refine ⟨fun o n s => ⟨?shl, ?shr, ?sha, ?rot, ?bfx, ?bfi⟩, fun o s => ⟨?popc, ?clz, ?brev⟩⟩
  case shl => exact value32_popWord .shl {} o s fun _ => rfl
  case shr => exact value32_popWord .shr {} o s fun _ => rfl
  case sha => exact value32_popWord .sha {} o s fun _ => rfl
  case rot => exact value32_popWord .rot {} o s fun _ => by rw [intOp, rotateLeft_sh5]
  case bfx => exact value32_popWord (.bfx n) {} o s fun _ => by rw [intOp, bfx_eq_extend]
  case bfi => exact value32_popWord .bfi {} o s fun _ => by rw [intOp, bfi_eq_masked]
  case popc => exact value32_popWord .popc {} o s fun _ => by rw [intOp, popCount_eq_length_filter]; rfl
  case clz => exact value32_popWord .clz {} o s fun _ => by rw [intOp, length_leadingZeros]
  case brev => exact value32_popWord .brev {} o s fun _ => by rw [intOp, ofNat_bitReverse]

end Sys2Proof.Claims
end

section
/-! SUPPORT. F32 bits by sign and magnitude: the statements' classes and values of R90, the model's reading of the same bits, and that both order them alike. -/
namespace Sys2Proof.Claims

open Sys2Proof.Machine

/-! ## The fields of F32 bits -/

/-- The magnitude bits of F32 bits: all but the sign. -/
def mag32 (x : Word) : Nat := x.toNat % 2 ^ 31

theorem mag32_lt (x : Word) : mag32 x < 2 ^ 31 := Nat.mod_lt _ (by decide)

theorem toNat_exponent32 (x : Word) : (x.extractLsb' 23 8).toNat = mag32 x / 2 ^ 23 := by
  rw [toNat_field, mag32]; omega

theorem toNat_fraction32 (x : Word) : (x.extractLsb' 0 23).toNat = mag32 x % 2 ^ 23 := by
  rw [toNat_field, mag32]; omega

theorem exponent32_eq_iff (x : Word) (e : BitVec 8) : x.extractLsb' 23 8 = e ↔ mag32 x / 2 ^ 23 = e.toNat := by
  rw [BitVec.toNat_eq, toNat_exponent32]

theorem fraction32_eq_iff (x : Word) (m : BitVec 23) : x.extractLsb' 0 23 = m ↔ mag32 x % 2 ^ 23 = m.toNat := by
  rw [BitVec.toNat_eq, toNat_fraction32]

theorem isFin32_iff (x : Word) : isFin32 x = true ↔ mag32 x < 0x7F800000 := by
  have := mag32_lt x
  simp only [isFin32, bne_iff_ne, Ne, exponent32_eq_iff, BitVec.reduceToNat]
  omega

theorem isNan32_iff (x : Word) : isNan32 x = true ↔ 0x7F800000 < mag32 x := by
  have := mag32_lt x
  simp only [isNan32, Bool.and_eq_true, beq_iff_eq, bne_iff_ne, Ne, exponent32_eq_iff, fraction32_eq_iff, BitVec.reduceToNat]
  omega

theorem isSub32_iff (x : Word) : isSub32 x = true ↔ mag32 x ≠ 0 ∧ mag32 x < 0x800000 := by
  simp only [isSub32, Bool.and_eq_true, beq_iff_eq, bne_iff_ne, Ne, exponent32_eq_iff, fraction32_eq_iff, BitVec.reduceToNat]
  omega

/-- A NaN is signalling where the top bit of its fraction is clear (R90). -/
theorem isSig32_eq (x : Word) : isSig32 x = (isNan32 x && decide (mag32 x % 2 ^ 23 < 2 ^ 22)) := by
  have quietBit : x.getLsbD 22 = decide (2 ^ 22 ≤ mag32 x % 2 ^ 23) := by
    rw [BitVec.getLsbD, Nat.testBit_eq_decide_div_mod_eq, mag32]
    exact decide_eq_decide.mpr (by omega)
  rw [isSig32, quietBit, ← decide_not]
  simp only [Nat.not_le]

/-- The sign bit, as the model reads it. -/
theorem sign32_iff (x : Word) : x.toNat / 2 ^ 31 % 2 = 1 ↔ x.msb = true := by
  rw [BitVec.msb_eq_decide, decide_eq_true_iff]
  have := x.isLt
  omega

/-- Equivalent conditions choose the same branch. -/
theorem ite_of_iff {α : Type} {p q : Prop} [Decidable p] [Decidable q] (h : p ↔ q) (x y : α) : (if p then x else y) = if q then x else y :=
  ite_congr (propext h) (fun _ => rfl) fun _ => rfl

/-! ## The model's reading of F32 bits -/

/-- What the model reads from F32 bits (R90). -/
theorem num_f32 (x : Word) : FFmt.f32.num x.toNat =
    if isNan32 x then .nan (isSig32 x)
    else if !isFin32 x then .inf x.msb
    else if mag32 x < 0x800000 then .fin x.msb (mag32 x) (-149)
    else .fin x.msb (2 ^ 23 + mag32 x % 2 ^ 23) (-149 + (mag32 x / 2 ^ 23 - 1 : Nat)) := by
  have sign : (x.toNat / 2 ^ 31 % 2 == 1) = x.msb := Bool.eq_iff_iff.mpr (beq_iff_eq.trans (sign32_iff x))
  have unfolded : FFmt.f32.num x.toNat =
      if 0x7F800000 < mag32 x then .nan (decide (mag32 x % 2 ^ 23 < 2 ^ 22))
      else if mag32 x = 0x7F800000 then .inf (x.toNat / 2 ^ 31 % 2 == 1)
      else if mag32 x / 2 ^ 23 = 0 then .fin (x.toNat / 2 ^ 31 % 2 == 1) (mag32 x % 2 ^ 23) (-149)
      else .fin (x.toNat / 2 ^ 31 % 2 == 1) (2 ^ 23 + mag32 x % 2 ^ 23) (-149 + (mag32 x / 2 ^ 23 - 1 : Nat)) := rfl
  rw [unfolded, sign, isSig32_eq]
  by_cases nan : isNan32 x
  · rw [if_pos ((isNan32_iff x).mp nan), if_pos nan, nan, Bool.true_and]
  rw [if_neg (mt (isNan32_iff x).mpr nan), if_neg nan]
  rw [isNan32_iff] at nan
  simp only [Bool.not_eq_true', Bool.eq_false_iff, Ne, isFin32_iff]
  rw [ite_of_iff (show mag32 x = 0x7F800000 ↔ ¬mag32 x < 0x7F800000 by omega)]
  refine ite_congr rfl (fun _ => rfl) fun _ => ?_
  by_cases sub : mag32 x < 0x800000
  · rw [if_pos (by omega), if_pos sub, Nat.mod_eq_of_lt (show mag32 x < 2 ^ 23 from sub)]
  · rw [if_neg (by omega), if_neg sub]

theorem isNan_num_f32 (x : Word) : (FFmt.f32.num x.toNat).isNan = isNan32 x := by
  rw [num_f32]
  by_cases nan : isNan32 x
  · rw [if_pos nan, nan, Num.isNan]
  · rw [if_neg nan, eq_false_of_ne_true nan]
    split
    · rfl
    · split <;> rfl

theorem isSig_num_f32 (x : Word) : (FFmt.f32.num x.toNat).isSig = isSig32 x := by
  rw [num_f32]
  by_cases nan : isNan32 x
  · rw [if_pos nan]
    cases isSig32 x <;> rfl
  · rw [if_neg nan, isSig32, eq_false_of_ne_true nan, Bool.false_and]
    split
    · rfl
    · split <;> rfl

/-- The flush of R92; the model also flushes a zero, which is its own flush. -/
theorem flushIn_f32 (z : Bool) (x : Word) : FFmt.f32.flushIn z x.toNat = (flush32 z x).toNat := by
  have unfolded : FFmt.f32.flushIn z x.toNat = if z && decide (mag32 x < 2 ^ 23) then x.toNat / 2 ^ 31 % 2 * 2 ^ 31 else x.toNat := rfl
  have masked : (x &&& 0x80000000).toNat = x.toNat / 2 ^ 31 % 2 * 2 ^ 31 := by
    have sign : (x.toNat / 2 ^ 31 % 2 = 1) ↔ x.getLsbD 31 = true := by
      rw [sign32_iff, BitVec.msb_eq_getLsbD_last]
    rw [show (0x80000000 : Word) = BitVec.twoPow 32 31 from rfl, BitVec.and_twoPow]
    by_cases set : x.getLsbD 31
    · rw [if_pos set, sign.mpr set]
      rfl
    · have clear : x.toNat / 2 ^ 31 % 2 = 0 := by
        have := mt sign.mp set
        omega
      rw [if_neg set, clear]
      rfl
  rw [unfolded, flush32]
  cases z
  · rfl
  simp only [Bool.true_and, decide_eq_true_eq, isSub32_iff]
  by_cases zero : mag32 x = 0
  · rw [if_pos (by omega), if_neg (by omega)]
    rw [mag32] at zero
    omega
  · rw [apply_ite BitVec.toNat, masked]
    exact ite_of_iff (by omega) _ _

/-! ## Order -/

/-- The value of finite magnitude bits, in units of 2^-149. -/
def magValue (n : Nat) : Int := if n / 2 ^ 23 = 0 then (n % 2 ^ 23 : Nat) else (2 ^ 23 + (n % 2 ^ 23 : Nat)) * 2 ^ (n / 2 ^ 23 - 1)

/-- From one magnitude to the next the fraction grows by 1, or the exponent does and the fraction starts again. -/
theorem magValue_lt_succ (n : Nat) : magValue n < magValue (n + 1) := by
  have pos : (0 : Int) < 2 ^ (n / 2 ^ 23 - 1) := Int.pow_pos (by decide)
  unfold magValue
  by_cases wrap : n % 2 ^ 23 + 1 = 2 ^ 23
  · have exponent : (n + 1) / 2 ^ 23 = n / 2 ^ 23 + 1 := by omega
    have fraction : (n + 1) % 2 ^ 23 = 0 := by omega
    rw [exponent, fraction, if_neg (Nat.succ_ne_zero _), Nat.add_sub_cancel]
    split
    · next sub => rw [sub]; omega
    · next normal =>
      calc (2 ^ 23 + (n % 2 ^ 23 : Nat) : Int) * 2 ^ (n / 2 ^ 23 - 1)
        _ < 2 ^ 24 * 2 ^ (n / 2 ^ 23 - 1) := Int.mul_lt_mul_of_pos_right (by omega) pos
        _ = (2 ^ 23 + (0 : Nat)) * 2 ^ (n / 2 ^ 23 - 1 + 1) := by rw [Int.pow_succ]; omega
        _ = (2 ^ 23 + (0 : Nat)) * 2 ^ (n / 2 ^ 23) := by rw [Nat.sub_add_cancel (Nat.pos_of_ne_zero normal)]
  · have exponent : (n + 1) / 2 ^ 23 = n / 2 ^ 23 := by omega
    have fraction : (n + 1) % 2 ^ 23 = n % 2 ^ 23 + 1 := by omega
    rw [exponent, fraction]
    split
    · omega
    · exact Int.mul_lt_mul_of_pos_right (by omega) pos

theorem magValue_le (m d : Nat) : magValue m ≤ magValue (m + d) := by
  induction d with
  | zero => exact Int.le_refl _
  | succ d ih => exact Int.le_trans ih (Int.le_of_lt (magValue_lt_succ (m + d)))

theorem magValue_lt_iff (m n : Nat) : magValue m < magValue n ↔ m < n := by
  refine ⟨fun h => Nat.lt_of_not_le fun le => ?_, fun h => ?_⟩
  · obtain ⟨d, rfl⟩ := Nat.exists_eq_add_of_le le
    exact absurd (magValue_le n d) (Int.not_le.mpr h)
  · obtain ⟨d, rfl⟩ := Nat.exists_eq_add_of_le h
    exact Int.lt_of_lt_of_le (magValue_lt_succ m) (magValue_le (m + 1) d)

theorem magValue_pos_iff (n : Nat) : 0 < magValue n ↔ 0 < n := magValue_lt_iff 0 n

theorem magValue_nonneg (n : Nat) : 0 ≤ magValue n := Int.not_lt.mp fun h => Nat.not_lt_zero n ((magValue_lt_iff n 0).mp h)

/-- The model's order without signed zeros. -/
theorem numKey_f32 (x : Word) : FFmt.f32.numKey x.toNat = if x.msb then -(mag32 x : Int) else mag32 x :=
  ite_of_iff (sign32_iff x) _ _

/-- The model's order with signed zeros. -/
theorem key_f32 (x : Word) : FFmt.f32.key x.toNat = if x.msb then -(mag32 x : Int) - 1 else mag32 x :=
  ite_of_iff (sign32_iff x) _ _

theorem value32_eq (x : Word) : value32 x = if x.msb then -magValue (mag32 x) else magValue (mag32 x) := by
  simp only [value32, toNat_exponent32, toNat_fraction32, magValue]

/-- The model's key and the value order F32 bits alike: the magnitudes do, and the sign reverses both. -/
theorem numKey_lt_iff (a b : Word) : FFmt.f32.numKey a.toNat < FFmt.f32.numKey b.toNat ↔ value32 a < value32 b := by
  have lt := magValue_lt_iff (mag32 a) (mag32 b)
  have gt := magValue_lt_iff (mag32 b) (mag32 a)
  have nonneg_a := magValue_nonneg (mag32 a)
  have nonneg_b := magValue_nonneg (mag32 b)
  have pos_a := magValue_pos_iff (mag32 a)
  have pos_b := magValue_pos_iff (mag32 b)
  rw [numKey_f32, numKey_f32, value32_eq, value32_eq]
  by_cases negative_a : a.msb = true <;> by_cases negative_b : b.msb = true
  all_goals
    simp only [negative_a, negative_b, if_true, if_false, Bool.false_eq_true]
    omega

theorem numKey_le_iff (a b : Word) : FFmt.f32.numKey a.toNat ≤ FFmt.f32.numKey b.toNat ↔ value32 a ≤ value32 b := by
  rw [← Int.not_lt, numKey_lt_iff, Int.not_lt]

theorem numKey_eq_iff (a b : Word) : FFmt.f32.numKey a.toNat = FFmt.f32.numKey b.toNat ↔ value32 a = value32 b := by
  rw [Int.le_antisymm_iff, numKey_le_iff, numKey_le_iff, ← Int.le_antisymm_iff]

theorem value32_eq_zero_iff (x : Word) : value32 x = 0 ↔ mag32 x = 0 := by
  have pos := magValue_pos_iff (mag32 x)
  have nonneg := magValue_nonneg (mag32 x)
  rw [value32_eq]
  split <;> omega

/-- The order of R94: at equal values the sign decides. -/
theorem key_lt_iff (a b : Word) : FFmt.f32.key a.toNat < FFmt.f32.key b.toNat ↔ below32 a b = true := by
  simp only [below32, Bool.or_eq_true, Bool.and_eq_true, decide_eq_true_eq, beq_iff_eq, ← numKey_lt_iff, ← numKey_eq_iff, numKey_f32, key_f32,
    Bool.not_eq_true', Bool.eq_false_iff, Ne]
  by_cases negative_a : a.msb = true
  · rw [if_pos negative_a, if_pos negative_a]
    by_cases negative_b : b.msb = true
    · rw [if_pos negative_b, if_pos negative_b, or_iff_left fun signs => signs.2 negative_b]
      omega
    · rw [if_neg negative_b, if_neg negative_b, and_iff_left negative_b, and_iff_left negative_a]
      omega
  · rw [if_neg negative_a, if_neg negative_a, or_iff_left fun signs => negative_a signs.1.2]
    by_cases negative_b : b.msb = true
    · rw [if_pos negative_b, if_pos negative_b]
      omega
    · rw [if_neg negative_b, if_neg negative_b]

/-! ## Extrema, comparison and class -/

/-- NV of FMIN, FMAX and FSET: a signalling operand raises it, and a quiet NaN does not (R94, R128). -/
def nv32 (a b : Word) : Flags := if isSig32 a || isSig32 b then 16 else 0

/-- FMIN and FMAX on flushed F32 bits: `a` or `b` by `first` where neither is a NaN (R94). -/
def extremum32 (prop : Bool) (first : Bool) (a b : Word) : Word :=
  if isNan32 a && isNan32 b then 0x7FC00000
  else if isNan32 a then (if prop then 0x7FC00000 else b)
  else if isNan32 b then (if prop then 0x7FC00000 else a)
  else if first then a else b

/-- FMIN and FMAX leave `a` where `b` does not come before it (R94). -/
theorem minmax_f32 (larger p z : Bool) (a b : Word) :
    let a' := flush32 z a
    let b' := flush32 z b
    FFmt.f32.minmax larger p z a.toNat b.toNat =
      ((extremum32 p (!if larger then below32 a' b' else below32 b' a') a' b').toNat, nv32 a' b') := by
  have nanBits : FFmt.f32.nan = (0x7FC00000 : Word).toNat := rfl
  have flagBits : ∀ a b, Flags.when (isSig32 a || isSig32 b) Flags.nv = nv32 a b := fun _ _ => rfl
  simp only [FFmt.minmax, flushIn_f32, isNan_num_f32, isSig_num_f32, key_lt_iff, nanBits, flagBits]
  generalize flush32 z a = a', flush32 z b = b'
  refine Prod.ext ?bits ?flags
  case bits =>
    cases larger
    all_goals
      simp only [extremum32, apply_ite Prod.fst, apply_ite BitVec.toNat, Bool.not_eq_true', Bool.eq_false_iff, Ne, ite_not, if_true, if_false,
        Bool.false_eq_true]
  case flags => simp only [apply_ite Prod.snd, ite_self]

/-- FSET on flushed F32 bits, by their values (R128). -/
def compare32 (k : FCmp) (a b : Word) : Bool :=
  let un := isNan32 a || isNan32 b
  match k with
  | .eq => !un && value32 a == value32 b
  | .ne => un || value32 a != value32 b
  | .lt => !un && decide (value32 a < value32 b)
  | .le => !un && decide (value32 a ≤ value32 b)
  | .gt => !un && decide (value32 b < value32 a)
  | .ge => !un && decide (value32 b ≤ value32 a)
  | .num => !un
  | .nan => un

theorem compare_f32 (k : FCmp) (z : Bool) (a b : Word) :
    FFmt.f32.compare k z a.toNat b.toNat = (compare32 k (flush32 z a) (flush32 z b), nv32 (flush32 z a) (flush32 z b)) := by
  have equal : ∀ a b : Word, (FFmt.f32.numKey a.toNat == FFmt.f32.numKey b.toNat) = (value32 a == value32 b) := fun a b => by
    rw [Bool.eq_iff_iff, beq_iff_eq, beq_iff_eq, numKey_eq_iff]
  simp only [FFmt.compare, flushIn_f32, isNan_num_f32, isSig_num_f32, numKey_lt_iff, numKey_le_iff, bne, equal]
  rfl

/-- FCLASS names the class by its bits, unflushed (R129). -/
theorem classBit_f32 (x : Word) : FFmt.f32.classBit x.toNat =
    if isSig32 x then 8 else if isNan32 x then 9
    else if !isFin32 x then (if x.msb then 0 else 7)
    else if value32 x = 0 then (if x.msb then 3 else 4)
    else if isSub32 x then (if x.msb then 2 else 5) else (if x.msb then 1 else 6) := by
  have unfolded : FFmt.f32.classBit x.toNat =
      match FFmt.f32.num x.toNat with
      | .nan sig => if sig then 8 else 9
      | .inf neg => if neg then 0 else 7
      | .fin neg m _ =>
        if m = 0 then (if neg then 3 else 4)
        else if mag32 x < 0x800000 then (if neg then 2 else 5) else if neg then 1 else 6 := rfl
  rw [unfolded, num_f32]
  by_cases nan : isNan32 x
  · simp only [nan, if_true]
  have sig : ¬isSig32 x := fun h => nan (Bool.and_eq_true_iff.mp h).1
  rw [if_neg nan, if_neg nan, if_neg sig]
  by_cases inf : !isFin32 x
  · rw [if_pos inf, if_pos inf]
  rw [if_neg inf, if_neg inf]
  by_cases sub : mag32 x < 0x800000
  · simp only [sub, if_true, value32_eq_zero_iff, isSub32_iff, and_true, Ne, ite_not]
    by_cases zero : mag32 x = 0
    · simp only [zero, if_true]
    · simp only [zero, if_false]
  · have normal : mag32 x ≠ 0 := by omega
    simp [sub, value32_eq_zero_iff, isSub32_iff, normal]

end Sys2Proof.Claims
end

section
/-! SUPPORT. The vector words whose lanes answer floating-point bits, or a predicate, with flags: from `valueWord_spec` to the statements `Float32`, `Value32`
and `ValuePred`. -/
namespace Sys2Proof.Claims

open Sys2Proof.Machine Sys2Proof.Safety

/-! ## Words that answer floating-point bits -/

/-- A pairable operation that answers the bits and flags of `f` on its 32-bit sources. For a given operation the three facts hold by computation. -/
structure FloatWord (p : POp) (f : Nat → Nat → Nat → FRes) : Prop where
  toPred : p.toPred = false := by rfl
  srcRegs : p.srcRegs = 1 := by rfl
  laneOp : ∀ a b c pc, laneOp p a b c pc = some (fw (f (a.toNat % 2 ^ 32) (b.toNat % 2 ^ 32) (c.toNat % 2 ^ 32))) := by intros; rfl

theorem toNat_wide (x : Word) : (wide x).toNat % 2 ^ 32 = x.toNat := by
  rw [wide, BitVec.toNat_setWidth]
  have := x.isLt
  omega

/-- A floating-point word gives every active lane what its function answers on the lane's sources (R126). -/
theorem float32_popWord {p : POp} {f : Nat → Nat → Nat → FRes} (hp : FloatWord p f) (o : Ops) (s : State) :
    Float32 s (.next (popWord p o s)) o.g o.d fun l => f (src s o.a l).toNat (src s o.b l).toNat (spec s o.c l).toNat := by
  intro quietly
  rw [popWord, hp.toPred]
  refine value32_valueWord s o.g o.d _ _ _ (fun l _ => ?_) quietly
  rw [popLane, popA, hp.srcRegs, if_neg (by decide), hp.laneOp, toNat_wide, toNat_wide, toNat_wide]
  rfl

/-- The same where the bits and the flags are known. -/
theorem value32_popWord_float {p : POp} {f : Nat → Nat → Nat → FRes} (hp : FloatWord p f) (o : Ops) (s : State) {x : Nat → Word} {fl : Nat → Flags}
    (hx : ∀ l, f (src s o.a l).toNat (src s o.b l).toNat (spec s o.c l).toNat = ((x l).toNat, fl l))
    (quietly : ∀ l ∈ active s o.g, fl l &&& (curFpen s).setWidth 6 = 0) :
    Value32 s (.next (popWord p o s)) o.g o.d x fl := by
  have h := float32_popWord hp o s
  simp only [hx, Float32, bits32, BitVec.ofNat_toNat, BitVec.setWidth_eq] at h
  exact h quietly

/-! ## Words that answer a predicate -/

theorem preg_writePred (m : Lane) (d : Spec) (b : Bool) (n : Fin 8) :
    preg (writePred m d b) n = if d = .p n ∧ n ≠ 0 then b else preg m n := by
  cases d with
  | p k =>
    by_cases zero : k = 0
    · subst zero
      simp [writePred, preg, eq_comm (a := (0 : Fin 8))]
    rw [writePred, if_neg zero]
    by_cases same : k = n
    · subst same
      cases b <;> simp [preg, zero]
    · have other : (n : Nat) ≠ k := fun h => same (Fin.ext h.symm)
      cases b <;> simp [preg, same, other]
  | _ => simp [writePred, preg]

/-- A write of a predicate changes nothing but the predicates. -/
theorem writePred_rest (m : Lane) (d : Spec) (b : Bool) : { m with p := (writePred m d b).p } = writePred m d b := by
  cases d with
  | p k => rw [writePred]; split <;> rfl
  | _ => rfl

/-- An active lane of a predicate word (R45, R48, R95). -/
theorem getsPred_deliver (m : Lane) (d : Spec) (b : Bool) (fl : Flags) (pc : Nat) :
    GetsPred m { deliver { m with flags := Flags.accrue m.flags fl } d (.b b) with pc := pc } d b fl pc where
  p := preg_writePred { m with flags := Flags.accrue m.flags fl } d b
  flags := by rw [deliver, ← writePred_rest]; rfl
  pc := rfl
  rest := by rw [deliver, ← writePred_rest]

/-- A predicate word whose lanes all answer and raise no enabled flag completes as R115 and R128 say. -/
theorem valuePred_valueWord (s : State) (g : Guard) (d : Spec) (f : Group → Nat → Option (LVal × Flags)) (x : Nat → Bool) (fl : Nat → Flags)
    (hf : ∀ l ∈ active s g, f (curGroup s) l = some (.b (x l), fl l))
    (he : ∀ l ∈ active s g, Flags.enabled (curFpen s) (fl l) = 0) :
    ValuePred s (.next (valueWord true g d f s)) g d x fl := by
  obtain ⟨frame, on, off⟩ := valueWord_spec true g d f s (fun l => .b (x l)) fl hf he
  refine ⟨_, rfl, frame, fun l hl => ?_, fun l hl hoff => ?_⟩
  · rw [lane, lane, on l hl]
    exact getsPred_deliver _ d (x l) (fl l) _
  · exact off l hl hoff

/-- FSET gives every active lane the comparison of the lane's sources (R128). -/
theorem valuePred_fset (o : Ops) (k : FCmp) (z : Bool) (s : State) {x : Nat → Bool} {fl : Nat → Flags}
    (hx : ∀ l, FFmt.f32.compare k z (src s o.a l).toNat (src s o.b l).toNat = (x l, fl l))
    (quietly : ∀ l ∈ active s o.g, fl l &&& (curFpen s).setWidth 6 = 0) :
    ValuePred s (.next (popWord (.fset k z) o s)) o.g o.d x fl := by
  refine valuePred_valueWord s o.g o.d _ x fl (fun l _ => ?_) quietly
  have lane : popLane (.fset k z) o (curGroup s) l =
      let r := FFmt.f32.compare k z ((wide (src s o.a l)).toNat % 2 ^ 32) ((wide (src s o.b l)).toNat % 2 ^ 32)
      some (.b r.1, r.2) := rfl
  rw [lane, toNat_wide, toNat_wide, hx]

end Sys2Proof.Claims
end

section
namespace Sys2Proof.Claims

open Sys2Proof.Machine

/-- Settles O11: each word is one operation of `popWord`, and `minmax_f32`, `compare_f32` and `classBit_f32` say by F32 values what it computes. -/
theorem minMaxCompareAndClassOfF32 : Obligations.MinMaxCompareAndClassOfF32 := by
  unfold Obligations.MinMaxCompareAndClassOfF32
  intro o p z k s a b nv pick un x y quietly
  refine ⟨fun h => ?fmin, fun h => ?fmax, fun h => ?fset, ?fclass⟩
  case fmin =>
    have word : FloatWord (.fmin p z) fun a b _ => FFmt.f32.minmax false p z a b := {}
    exact value32_popWord_float word o s (fun l => minmax_f32 false p z _ _) h
  case fmax =>
    have word : FloatWord (.fmax p z) fun a b _ => FFmt.f32.minmax true p z a b := {}
    exact value32_popWord_float word o s (fun l => minmax_f32 true p z _ _) h
  case fset =>
    exact valuePred_fset o k z s (fun l => compare_f32 k z _ _) h
  case fclass =>
    have word : FloatWord .fclass fun a _ _ => (2 ^ FFmt.f32.classBit a, 0) := {}
    refine value32_popWord_float word o s (fun l => congrArg (·, (0 : Flags)) ?_) fun _ _ => BitVec.zero_and
    rw [classBit_f32]
    simp only [apply_ite (2 ^ ·), apply_ite BitVec.toNat]
    rfl

end Sys2Proof.Claims
end

section
/-! SUPPORT. Frames compose; and what a word does that writes one uniform register for its group. -/
namespace Sys2Proof.Safety

open Sys2Proof.Machine

/-! ## Frames of two changes in a row -/

theorem OnlyCore.trans {k : Nat} {s t u : State} (first : OnlyCore k s t) (second : OnlyCore k t u) : OnlyCore k s u where
  device := by
    have h : { t with cores := s.cores } = s := first.device
    rw [← second.device] at h
    exact h
  others j hj := (second.others j hj).trans (first.others j hj)

theorem OnlyTeam.trans {k tx : Nat} {s t u : State} (first : OnlyTeam k tx s t) (second : OnlyTeam k tx t u) : OnlyTeam k tx s u where
  core := first.core.trans second.core
  rest := by
    have h := first.rest
    rw [← second.rest] at h
    exact h
  others j hj := (second.others j hj).trans (first.others j hj)

theorem OnlyGroup.trans {k tx g : Nat} {s t u : State} (first : OnlyGroup k tx g s t) (second : OnlyGroup k tx g t u) : OnlyGroup k tx g s u where
  team := first.team.trans second.team
  rest := by
    have h := first.rest
    rw [← second.rest] at h
    exact h
  others j hj := (second.others j hj).trans (first.others j hj)

end Sys2Proof.Safety

namespace Sys2Proof.Machine

open Sys2Proof.Safety

/-! ## A write of a uniform register -/

theorem get_g_writeG (grp : Group) (d : Spec) (x : Word) (n : Fin 128) :
    Tbl.get 0 (writeG grp d x).g n = if d = .g n then x else Tbl.get 0 grp.g n := by
  cases d <;> simp [writeG, Tbl.get_put, Fin.ext_iff]

@[simp] theorem lanes_writeG (grp : Group) (d : Spec) (x : Word) : (writeG grp d x).lanes = grp.lanes := by
  cases d <;> rfl

@[simp] theorem laneAt_writeG (grp : Group) (d : Spec) (x : Word) (l : Nat) : laneAt (writeG grp d x) l = laneAt grp l := by
  rw [laneAt, lanes_writeG, laneAt]

/-- A change of the issuing group leaves the next PC as it was: the kernel's text hangs on the team. -/
@[simp] theorem curNext_onGroup (s : State) (f : Group → Group) : curNext (onGroup s f) = curNext s := by
  have number : (curTeam (onGroup s f)).grid = (curTeam s).grid := by simp [curTeam, onGroup, modGroup, modGroupIn]
  have grid : curGrid (onGroup s f) = curGrid s := by rw [curGrid, teamGrid, number]; rfl
  rw [curNext, curText, grid]
  rfl

@[simp] theorem curGroup_advance (s : State) : curGroup (advance s) = setPc (curGroup s) (subLanes s) (curNext s) :=
  curGroup_onGroup s _

theorem laneAt_setPc (grp : Group) (ls : List Nat) (pc l : Nat) (hn : ls.Nodup) :
    laneAt (setPc grp ls pc) l = if l ∈ ls then { laneAt grp l with pc := pc } else laneAt grp l :=
  laneAt_modLanes grp ls _ l hn

theorem onGroup_only (s : State) (f : Group → Group) : OnlyGroup s.cur.core s.cur.tx s.cur.group s (onGroup s f) :=
  modGroup_only s _ _ _ f

end Sys2Proof.Machine

namespace Sys2Proof.Claims

open Sys2Proof.Machine Sys2Proof.Safety

/-- With no active lane a word that acts once for the group only goes on (R6, R119). -/
theorem goesOn_advance (s : State) : GoesOn s (advance s) := by
  obtain ⟨frame, moved⟩ := advance_spec s
  exact ⟨frame, moved⟩

/-- A uniform register is written and the issuing lanes go on (R119). -/
theorem groupGets_advance_writeG (s : State) (d : Spec) (x : Word) :
    GroupGets s (advance (onGroup s fun grp => writeG grp d x)) d x := by
  have group : curGroup (advance (onGroup s fun grp => writeG grp d x)) = setPc (writeG (curGroup s) d x) (subLanes s) (curNext s) := by
    rw [curGroup_advance, curGroup_onGroup, curNext_onGroup]
    rfl
  have lanes (l : Nat) := laneAt_setPc (writeG (curGroup s) d x) (subLanes s) (curNext s) l (subLanes_nodup s)
  refine ⟨(onGroup_only s _).trans (onGroup_only (onGroup s _) _), fun n => ?_, fun l hl => ?_, fun l hl => ?_, ?_⟩
  · rw [greg, group]
    exact get_g_writeG (curGroup s) d x n
  · rw [MovesTo, lane, group, lanes, if_pos hl, laneAt_writeG, lane]
  · rw [lane, group, lanes, if_neg hl, laneAt_writeG, lane]
  · rw [group]
    cases d <;> rfl

/-- A word that writes `x` to its uniform register once for the group (R119). -/
theorem uniform_groupValue (s : State) (g : Guard) (d : Spec) (x : Word) : Uniform s (.next (groupValue g d x s)) g d x := by
  refine ⟨_, rfl, fun idle => ?_, fun acts => ?_⟩
  · rw [groupValue, groupWord_idle s g _ idle]
    exact goesOn_advance s
  · rw [groupValue, groupWord_active s g _ acts]
    exact groupGets_advance_writeG s d x

end Sys2Proof.Claims
end

section
/-! SUPPORT. What each cross-lane word computes, in the words of R189 to R191, R194 and R195. -/
namespace Sys2Proof.Machine

/-! ## SHFL -/

/-- The index that a shuffle's mode makes of the lane's number and its `b` (R189). -/
def shflIndex (m : ShflMode) (l : Nat) (b : Word) : Int :=
  match m with
  | .from => b.toNat
  | .shift => l + b.toInt
  | .rotate => ((l + b.toNat) % 32 : Nat)
  | .xor => (l ^^^ b.toNat : Nat)

theorem shflLane_eq_ite (m : ShflMode) (l : Nat) (b : Word) :
    shflLane m l b = if 0 ≤ shflIndex m l b ∧ shflIndex m l b ≤ 31 then some (shflIndex m l b).toNat else none := by
  cases m <;> rfl

/-! ## VOTE -/

theorem votePred_every (t n : Nat) : votePred .every t n = decide (t = n) := by
  rw [Bool.eq_iff_iff]
  simp only [votePred, beq_iff_eq, decide_eq_true_eq]

theorem votePred_agree (t n : Nat) : votePred .agree t n = decide (t = 0 ∨ t = n) := by
  rw [Bool.eq_iff_iff]
  simp only [votePred, Bool.or_eq_true, beq_iff_eq, decide_eq_true_eq]

/-! ## MATCH -/

/-- MATCH's WHOLE: a lane has as many peers as there are contributing lanes where all of them hold its value. -/
theorem matchVal_whole (grp : Group) (a : Src) (act : List Nat) (l : Nat) :
    matchVal .whole grp a act l = if ∀ k ∈ act, readSrc grp k a = readSrc grp l a then maskOf act else 0 := by
  simp only [matchVal, peers, beq_iff_eq, List.length_filter_eq_length_iff]

/-! ## HIST and MERGE -/

theorem byteOf_eq_extract (x : Word) (j : Nat) : byteOf x j = (x.extractLsb' (8 * j) 8).toNat :=
  (toNat_field x (8 * j) 8).symm

theorem histVal_eq_ite (a b c : Word) :
    histVal a b c =
      let k := (a - b).toNat
      if k < 4 ∧ (c.extractLsb' (8 * k) 8).toNat < 255 then c + BitVec.ofNat 32 (2 ^ (8 * k)) else c := by
  simp only [histVal, byteOf_eq_extract, Bool.and_eq_true, decide_eq_true_eq]

theorem mergeVal_eq_sum (grp : Group) (a : Src) (act : List Nat) (b : Word) :
    mergeVal grp a act b =
      BitVec.ofNat 32 (act.map fun k => ((readSrc grp k a).extractLsb' (8 * (b.toNat % 4)) 8).toNat).sum := by
  simp only [mergeVal, byteOf_eq_extract, List.sum_eq_foldl, List.foldl_map]

end Sys2Proof.Machine

namespace Sys2Proof.Claims

open Sys2Proof.Machine

/-! ## Words that raise no flag -/

/-- A value word that answers the 32-bit result `x` in every lane, without flags. -/
theorem value32_quiet (s : State) (g : Guard) (d : Spec) {f : Group → Nat → Option (LVal × Flags)} {x : Nat → Word}
    (hf : ∀ l, f (curGroup s) l = some (.w (x l), 0)) : Value32 s (.next (valueWord false g d f s)) g d x quiet :=
  value32_valueWord s g d f x quiet (fun l _ => hf l) fun _ _ => enabled_zero _

/-! ## VOTE by its destination (R190) -/

/-- The contributing lanes in which the predicate holds. -/
def voting (s : State) (g : Guard) (p : Fin 8) : List Nat := voters (curGroup s) (active s g) p

section
variable {m : VoteMode} {d : Spec} (g : Guard) (p : Fin 8) (s : State)

/-- Without a g destination VOTE is a value word. -/
theorem voteWord_of_notG (hd : NotG d) :
    voteWord g d p m s = valueWord (voteToPred m) g d
      (fun _ l => some (if voteToPred m then .b (votePred m (voting s g p).length (active s g).length) else .w (voteVal m (voting s g p) l), 0)) s := by
  cases d with
  | g n => exact absurd rfl (hd n)
  | _ => rfl

theorem valuePred_vote (hd : NotG d) (hm : voteToPred m = true) :
    ValuePred s (exec (.vote g d p m) s) g d (fun _ => votePred m (voting s g p).length (active s g).length) quiet := by
  change ValuePred s (.next (voteWord g d p m s)) g d _ _
  rw [voteWord_of_notG g p s hd, hm]
  exact valuePred_valueWord s g d _ _ quiet (fun _ _ => rfl) fun _ _ => enabled_zero _

theorem value32_vote (hd : NotG d) (hm : voteToPred m = false) :
    Value32 s (exec (.vote g d p m) s) g d (voteVal m (voting s g p)) quiet := by
  change Value32 s (.next (voteWord g d p m s)) g d _ _
  rw [voteWord_of_notG g p s hd, hm]
  exact value32_quiet s g d fun _ => rfl

theorem uniform_vote (hd : ¬NotG d) : Uniform s (exec (.vote g d p m) s) g d (voteVal m (voting s g p) 0) := by
  cases d with
  | g n => exact uniform_groupValue s g (.g n) _
  | _ => exact absurd (fun n => by simp) hd

end

/-- SHFL reads the lane that its index names, or falls back to `c` where there is none (R189). -/
theorem value32_shfl (o : Ops) (m : ShflMode) (s : State) :
    Value32 s (exec (.shfl o m) s) o.g o.d (fun l =>
      let j := shflIndex m l (src s o.b l)
      if 0 ≤ j ∧ j ≤ 31 then src s o.a j.toNat else spec s o.c l) quiet := by
  refine value32_quiet s o.g o.d fun l => ?_
  by_cases inside : 0 ≤ shflIndex m l (src s o.b l) ∧ shflIndex m l (src s o.b l) ≤ 31
  · have source : shflLane m l (readSrc (curGroup s) l o.b) = some _ := (shflLane_eq_ite _ _ _).trans (if_pos inside)
    rw [source, if_pos inside]
    rfl
  · have fallback : shflLane m l (readSrc (curGroup s) l o.b) = none := (shflLane_eq_ite _ _ _).trans (if_neg inside)
    rw [fallback, if_neg inside]
    rfl

end Sys2Proof.Claims
end

section
namespace Sys2Proof.Claims

open Sys2Proof.Machine

/-- Settles O16: SHFL, MATCH, HIST and MERGE are value words without flags; VOTE is one too unless it writes a uniform register once for the group. -/
theorem crossLaneSelections : Obligations.CrossLaneSelections := by
  unfold Obligations.CrossLaneSelections
  intro o sm vm mm g d p s act vs n same below byte
  refine ⟨?shfl, fun hd => ?vote, fun hd => ⟨uniform_vote g p s hd, uniform_vote g p s hd, uniform_vote g p s hd⟩, ?match_, ?hist, ?merge⟩
  case shfl => exact value32_shfl o sm s
  case vote =>
    cases vm with
    | some => exact valuePred_vote g p s hd rfl
    | every =>
      have value := valuePred_vote (m := .every) g p s hd rfl
      rw [votePred_every] at value
      exact value
    | agree =>
      have value := valuePred_vote (m := .agree) g p s hd rfl
      rw [votePred_agree] at value
      exact value
    | major => exact valuePred_vote g p s hd rfl
    | mask => exact value32_vote g p s hd rfl
    | tally => exact value32_vote g p s hd rfl
    | lead => exact value32_vote g p s hd rfl
    | rank => exact value32_vote g p s hd rfl
  case match_ =>
    refine value32_quiet s o.g o.d fun l => ?_
    cases mm with
    | whole => rw [matchVal_whole]; rfl
    | _ => rfl
  case hist => exact value32_quiet s o.g o.d fun l => by rw [histVal_eq_ite]; rfl
  case merge => exact value32_quiet s o.g o.d fun l => by rw [mergeVal_eq_sum]; rfl

end Sys2Proof.Claims
end
